-- ==== Sys2Proof/Word.lean ====
section
/-! DEFINITION. The two bit-vector types of the ZS-24: characters and shelf times. -/

namespace Sys2Proof

/-- A character of a frame, or a byte of a record or of the store. -/
abbrev Byte := BitVec 8

/-- A shelf time or a difference of shelf times: 32 bits of microseconds, wrapping (R1). -/
abbrev Time := BitVec 32

end Sys2Proof
end

