-- ==== Sys2Proof/Config.lean ====
section
/-! DEFINITION. The figures that the manual fixes for the whole part: populations, depths and
periods. The ZS-24's manual leaves no value of a result undefined, so there is no free value here;
the orders it leaves open are operands of the commands (log entry 3). -/

namespace Sys2Proof.Config

/-- PSMs (spec/00, "Rack population"). -/
def psmCount : Nat := 6
/-- BBMs (spec/00). -/
def bbmCount : Nat := 6
/-- Trays (spec/00). -/
def trayCount : Nat := 24
/-- Leak zones (spec/00). -/
def zoneCount : Nat := 8
/-- Sense lines (spec/00). -/
def senseCount : Nat := 16
/-- Drive lines (spec/00). -/
def driveCount : Nat := 8
/-- Signals (spec/00, R20). -/
def signalCount : Nat := 128
/-- Roster entries (R139). -/
def rosterCount : Nat := 48
/-- Depth of each receive queue (R161). -/
def rxDepth : Nat := 2
/-- Depth of the REPLY class (R167). -/
def replyDepth : Nat := 4
/-- Depth of the NOTICE class (R167, R168). -/
def noticeDepth : Nat := 32
/-- Depth of the TELEMETRY class (R167). -/
def telemetryDepth : Nat := 8
/-- Depth of a command queue (R141, R148). -/
def commandDepth : Nat := 4
/-- Most data bytes of one ANSWER frame (R166). -/
def answerChunk : Nat := 58
/-- Largest payload of a frame (R159, R163). -/
def maxPayload : Nat := 60
/-- Period of the energy tick, in microseconds (R68). -/
def tickPeriod : Nat := 10000
/-- Idle time of the edit window, in microseconds (R175). -/
def editIdle : Nat := 5000000
/-- Run of completed steps that halts a program (R110). -/
def loopLimit : Nat := 32
/-- Most page writes of a row between erases (R180). -/
def writeLimit : Nat := 8
/-- MODEL: most reactions carried out in one go; log entry 5. -/
def reactionBound : Nat := 10000

end Sys2Proof.Config
end

