-- ==== Sys2Proof/Syntax.lean ====
section
/-! DEFINITION. The commands of the ZS-24: one constructor of `Instr` for each row of
spec/opcode_table.json, and the types of their operands. -/

namespace Sys2Proof

/-- The three link ports, numbered UP 0, SP 1, TP 2 (R164). -/
inductive Port
  | up
  | sp
  | tp
  deriving DecidableEq, Repr, Inhabited

/-- A physical level of a line, numbered HIGH 0, LOW 1 (R2, R164). -/
inductive Level
  | high
  | low
  deriving DecidableEq, Repr, Inhabited

/-- When the Ride-Through Controller is told of a balance record, among the receivers of that
record (R37, R116): before the Tray Controller, after its admission evaluation, or after the Module
Monitor and the Program Sequencer too. `first` is read as `afterTray` for a record that a walk's own steps give (log
entry 39). -/
inductive RideTurn
  | first
  | afterTray
  | last
  deriving DecidableEq, Repr, Inhabited

/-- What an event shows beside its own operands: the shelf time since the event before (log entry
1), the SVC strap's level (R182), the orders that the manual leaves open (log entry 3), and the time since a
port's last character (log entry 8). -/
structure Ambient where
  /-- Microseconds of shelf time since the event before. -/
  elapsed : Time
  /-- SVC is asserted in this event (R182, R188). -/
  svc : Bool
  /-- The Ride-Through Controller's place among the receivers of a record (R37). -/
  rideTurn : RideTurn
  /-- The Module Monitor acts before the Program Sequencer (R37, R65 leave it open). -/
  chargeFirst : Bool
  /-- The Program Sequencer is told of a shelf stop before the Tray Controller (R104, R119). -/
  programFirst : Bool
  /-- Microseconds since the end of the last character of the frame that the event's port assembles: what the
  gap limit is judged by (R159). -/
  lineQuiet : Time
  deriving DecidableEq, Repr, Inhabited

/-- A character as it comes on a port's line (R156): the level of each of its bits from the start bit on, high
as true, and the cycles of the 40 MHz link clock from the end of the character before it to its own
end (log entry 8). -/
structure RxChar where
  levels : List Bool
  gap : Nat
  deriving DecidableEq, Repr, Inhabited

/-- A frame without its start, length and check characters, which follow from it (R163). -/
structure Frame where
  address : Byte
  kind : Byte
  payload : List Byte
  deriving DecidableEq, Repr, Inhabited

/-- The commands, requests, frames, line events and timer expiries the part takes: one constructor
for each row of spec/opcode_table.json, in the table's order. -/
inductive Instr
  /-- POWER_ON_RESET (R1). -/
  | powerOnReset (e : Ambient)
  /-- RESET_LINE (R185). -/
  | resetLine (e : Ambient)
  /-- RESTART (R170). -/
  | restart (e : Ambient)
  /-- RESTART_PERFORM (R170). -/
  | restartPerform (e : Ambient)
  /-- FRAME_RECEIVED (R159): the characters after the start character. -/
  | frameReceived (e : Ambient) (port : Port) (chars : List RxChar)
  /-- FRAME_DAMAGED (R159): the characters after the start character, up to the damage. -/
  | frameDamaged (e : Ambient) (port : Port) (chars : List RxChar)
  /-- GAP_LIMIT_EXPIRY (R159). -/
  | gapLimitExpiry (e : Ambient) (port : Port)
  /-- TRANSMIT_END (R162). -/
  | transmitEnd (e : Ambient) (port : Port)
  /-- UP_DAMAGE_MARK_TAKEN (R165). -/
  | upDamageMarkTaken (e : Ambient)
  /-- UP_STRAY_FRAME (R164). -/
  | upStrayFrame (e : Ambient) (frame : Frame)
  /-- ORDER (R150). -/
  | order (e : Ambient) (address code : Byte) (argument : BitVec 16)
  /-- REQUEST_INVALID_CODE (R166): the whole payload, request code first. -/
  | requestInvalidCode (e : Ambient) (payload : List Byte)
  /-- READ_TABLE (R173). -/
  | readTable (e : Ambient) (table first count : Byte)
  /-- EDIT_OPEN (R175). -/
  | editOpen (e : Ambient) (table first count : Byte)
  /-- EDIT_WRITE (R175). -/
  | editWrite (e : Ambient) (entry : Byte) (record : List Byte)
  /-- EDIT_APPLY (R176). -/
  | editApply (e : Ambient)
  /-- EDIT_DISCARD (R179). -/
  | editDiscard (e : Ambient)
  /-- EDIT_IDLE_TIMER_EXPIRY (R179). -/
  | editIdleTimerExpiry (e : Ambient)
  /-- STORE_ERASE (R183). -/
  | storeErase (e : Ambient) (scope row : Byte)
  /-- STORE_WRITE (R183). -/
  | storeWrite (e : Ambient) (row page : Byte) (data : List Byte)
  /-- STORE_VERIFY (R183). -/
  | storeVerify (e : Ambient) (row page : Byte)
  /-- STORE_READ (R183). -/
  | storeRead (e : Ambient) (row page : Byte)
  /-- STORE_OPERATION_COMPLETE (R184): `weak` is what a verify finds of the cells. -/
  | storeOperationComplete (e : Ambient) (weak : Bool)
  /-- READ_LINE (R8). -/
  | readLine (e : Ambient) (line : Byte)
  /-- READ_SIGNAL (R24). -/
  | readSignal (e : Ambient) (first count : Byte)
  /-- READ_BALANCE (R41). -/
  | readBalance (e : Ambient)
  /-- READ_MODULE (R61). -/
  | readModule (e : Ambient) (kind index : Byte)
  /-- READ_RIDE (R84). -/
  | readRide (e : Ambient)
  /-- READ_TRAY (R107). -/
  | readTray (e : Ambient) (first count : Byte)
  /-- READ_QUEUE (R107). -/
  | readQueue (e : Ambient)
  /-- CLEAR_TRAY (R101). -/
  | clearTray (e : Ambient) (tray : Byte)
  /-- RUN_PROGRAM (R117). -/
  | runProgram (e : Ambient) (step : Byte)
  /-- ABORT_PROGRAM (R118). -/
  | abortProgram (e : Ambient)
  /-- READ_PROGRAM (R121). -/
  | readProgram (e : Ambient)
  /-- READ_ZONE (R134). -/
  | readZone (e : Ambient) (zone : Byte)
  /-- CLEAR_ZONE (R132). -/
  | clearZone (e : Ambient) (zone epoch : Byte)
  /-- READ_POLL (R155). -/
  | readPoll (e : Ambient) (port first count : Byte)
  /-- PORT_ENABLE (R152). -/
  | portEnable (e : Ambient) (port : Byte)
  /-- PORT_DISABLE (R153). -/
  | portDisable (e : Ambient) (port : Byte)
  /-- READ_PORT (R169). -/
  | readPort (e : Ambient) (port : Byte)
  /-- EMPTY_PASS_TIMER_EXPIRY (R142). -/
  | emptyPassTimerExpiry (e : Ambient) (port : Port)
  /-- REPLY_TIMER_EXPIRY (R143). -/
  | replyTimerExpiry (e : Ambient) (port : Port)
  /-- FORWARD_INTERVAL_EXPIRY (R145). -/
  | forwardIntervalExpiry (e : Ambient) (roster : Fin 48)
  /-- STALE_TIME_EXPIRY (R21). -/
  | staleTimeExpiry (e : Ambient) (signal : Fin 128)
  /-- LINE_EDGE (R6): the level whose sample or change makes the line change. -/
  | lineEdge (e : Ambient) (line : Fin 16) (level : Level)
  /-- FIRST_ACCEPTANCE (R4): the level whose sample or change completes it. -/
  | firstAcceptance (e : Ambient) (line : Fin 16) (level : Level)
  /-- ENERGY_TICK (R68). -/
  | energyTick (e : Ambient)
  /-- QUALIFY_TIMER_EXPIRY (R79). -/
  | qualifyTimerExpiry (e : Ambient)
  /-- START_TIMER_EXPIRY (R96). -/
  | startTimerExpiry (e : Ambient) (tray : Fin 24)
  /-- CONFIRM_TIMER_EXPIRY (R127). -/
  | confirmTimerExpiry (e : Ambient) (zone : Fin 8)
  /-- STEP_TIMER_EXPIRY (R114). -/
  | stepTimerExpiry (e : Ambient)
  /-- DELAY_TIMER_EXPIRY (R113). -/
  | delayTimerExpiry (e : Ambient)
  /-- AUTOSTART (R120). -/
  | autostart (e : Ambient)
  /-- FILTER_SAMPLE (R4). -/
  | filterSample (e : Ambient) (line : Fin 16) (level : Level)
  /-- START_CHARACTER_RECEIVED (R159). -/
  | startCharacterReceived (e : Ambient) (port : Port)
  /-- SHIFTER_FINISHES_FRAME (R162). -/
  | shifterFinishesFrame (e : Ambient)
  deriving DecidableEq, Repr

end Sys2Proof
end

