-- ==== Sys2Proof/Machine/Bytes.lean ====
section
/-! DEFINITION. The byte layouts that every frame, record and answer shares (R163), the CRC of frames
and images (R160), and the assembling of a frame from its characters (R159). -/

namespace Sys2Proof.Machine

/-- A one-byte field. -/
def be8 (n : Nat) : List Byte := [BitVec.ofNat 8 n]

/-- A two-byte field, high byte first (R163). -/
def be16 (n : Nat) : List Byte := [BitVec.ofNat 8 (n / 256), BitVec.ofNat 8 n]

/-- A three-byte field, high byte first: a tray set (R163). -/
def be24 (n : Nat) : List Byte := BitVec.ofNat 8 (n / 65536) :: be16 n

/-- A four-byte field, high byte first (R163). -/
def be32 (n : Nat) : List Byte := be16 (n / 65536) ++ be16 n

/-- A four-byte signed field in two's complement (R163). -/
def beInt32 (i : Int) : List Byte := be32 (BitVec.ofInt 32 i).toNat

/-- A shelf time: 4 bytes (R163). -/
def beTime (t : Time) : List Byte := be32 t.toNat

/-- A flag or a mark: 1 when set, 0 when clear (R163). -/
def beFlag (b : Bool) : List Byte := [if b then 1 else 0]

/-- A one-byte field that may be none: 255 for none (R163). -/
def beOpt8 : Option Nat → List Byte
  | some n => be8 n
  | none => [255]

/-- A two-byte field that may be none: all ones for none (R163). -/
def beOpt16 : Option Nat → List Byte
  | some n => be16 n
  | none => be16 65535

/-- A four-byte field that may be none: all ones for none (R163). -/
def beOpt32 : Option Nat → List Byte
  | some n => be32 n
  | none => be32 4294967295

/-- A shelf time that may be none (R163). -/
def beOptTime (t : Option Time) : List Byte := beOpt32 (t.map BitVec.toNat)

/-- A list: a length byte and then its items (R163). -/
def beList (items : List (List Byte)) : List Byte := be8 items.length ++ items.flatten

/-- An item that may be none as a whole: a byte that is 1 and its fields, or the byte 0 (R163). -/
def beItem : Option (List Byte) → List Byte
  | some fields => 1 :: fields
  | none => [0]

/-- A set of items as a number: item i at bit i (R163). -/
def bitSet (items : List Nat) : Nat := items.foldl (fun a i => a ||| 2 ^ i) 0

/-- A data word that carries two items: the first is its high byte, the second its low byte (R163). -/
def twoItems (hi lo : Nat) : Nat := (hi % 256) * 256 + lo % 256

/-- A figure carried in a 16-bit data word, saturated at 65535 (R42). -/
def sat16 (n : Nat) : Nat := min n 65535

/-- The byte at offset `i` of a record. -/
def field8 (r : List Byte) (i : Nat) : Nat := (r.getD i 0).toNat

/-- The two-byte field at offset `i` of a record, high byte first. -/
def field16 (r : List Byte) (i : Nat) : Nat := field8 r i * 256 + field8 r (i + 1)

/-- The three-byte field at offset `i` of a record, high byte first. -/
def field24 (r : List Byte) (i : Nat) : Nat := field8 r i * 65536 + field16 r (i + 1)

/-- The four-byte field at offset `i` of a record, high byte first. -/
def field32 (r : List Byte) (i : Nat) : Nat := field16 r i * 65536 + field16 r (i + 2)

/-- A two-byte field held in two's complement (R163). -/
def fieldInt16 (r : List Byte) (i : Nat) : Int := (BitVec.ofNat 16 (field16 r i)).toInt

/-- One bit of the CRC register: shift left, and divide by x^16 + x^12 + x^5 + 1 (R160). -/
def crcShift (c : BitVec 16) : BitVec 16 :=
  if c.msb then (c <<< 1) ^^^ 0x1021#16 else c <<< 1

/-- One character into the CRC, most significant bit first (R160). -/
def crcByte (c : BitVec 16) (b : Byte) : BitVec 16 :=
  let x := c ^^^ ((b.setWidth 16) <<< 8)
  crcShift (crcShift (crcShift (crcShift (crcShift (crcShift (crcShift (crcShift x)))))))

/-- The CRC-16 of a string of characters: initial value 0xFFFF, no reflection, no final inversion
(R160). -/
def crc16 (bs : List Byte) : BitVec 16 := bs.foldl crcByte 0xFFFF#16

/-- The start character of every frame (R159, R163). -/
def startCharacter : Byte := 0xC3

/-- The kind codes of R163. -/
def kindPoll : Byte := 0x01
/-- REPORT (R163). -/
def kindReport : Byte := 0x02
/-- ORDER (R163). -/
def kindOrder : Byte := 0x03
/-- ORDER-ACK (R163). -/
def kindOrderAck : Byte := 0x04
/-- REQUEST (R163). -/
def kindRequest : Byte := 0x05
/-- ANSWER (R163). -/
def kindAnswer : Byte := 0x06
/-- NOTICE (R163). -/
def kindNotice : Byte := 0x07
/-- TELEMETRY (R163). -/
def kindTelemetry : Byte := 0x08

/-- A kind character is one of the eight kind codes (R159). -/
def validKind (k : Byte) : Bool := 1 ≤ k.toNat && k.toNat ≤ 8

/-- The characters a frame's check is taken over: Address to the last Payload character (R160). -/
def frameChecked (f : Frame) : List Byte :=
  f.address :: f.kind :: BitVec.ofNat 8 f.payload.length :: f.payload

/-- The check characters of a frame, high byte first (R160). -/
def frameCheck (f : Frame) : List Byte := be16 (crc16 (frameChecked f)).toNat

/-- A frame on the wire: start, address, kind, length, payload and check (R163). -/
def frameWire (f : Frame) : List Byte := startCharacter :: frameChecked f ++ frameCheck f

/-- A frame that an assembler can find whole: a known kind and at most 60 payload characters
(R159). -/
def frameValid (f : Frame) : Bool := validKind f.kind && f.payload.length ≤ Config.maxPayload

/-- A character as a receiver hands it to its frame assembler: its data, and whether it had a parity
or framing error (R156). -/
structure Character where
  data : Byte
  error : Bool
  deriving DecidableEq, Repr, Inhabited

/-- The characters after the start character of a frame received without error. -/
def frameReceived (f : Frame) : List Character :=
  (frameChecked f ++ frameCheck f).map fun b => ⟨b, false⟩

/-- What an assembler has after some characters: more to come, a whole frame, or damage (R159). -/
inductive Assembly
  | more
  | whole (f : Frame)
  | damaged
  deriving DecidableEq, Repr

/-- The frame assembler over the characters that follow a start character (R159): damage by an
error, a kind outside the table, a length above 60 or a check that does not match. -/
def assemble (cs : List Character) : Assembly :=
  if cs.any (·.error) then .damaged
  else
    match cs.map (·.data) with
    | a :: k :: rest =>
      if !validKind k then .damaged
      else
        match rest with
        | [] => .more
        | len :: body =>
          if len.toNat > Config.maxPayload then .damaged
          else if body.length < len.toNat + 2 then .more
          else
            let f : Frame := ⟨a, k, body.take len.toNat⟩
            if body.drop len.toNat = frameCheck f then .whole f else .damaged
    | _ => .more

/-- The characters end exactly where the frame is damaged (R159: "the first of these events"). -/
def damagedAtEnd (cs : List Character) : Bool :=
  assemble cs = .damaged && assemble cs.dropLast = .more

/-- A REPORT payload is a whole number of pairs, at most 20 (R143, R163). -/
def reportWhole (payload : List Byte) : Bool :=
  payload.length % 3 = 0 && payload.length ≤ 60

/-- The pairs of field id and value of a REPORT, in report order (R163). -/
def reportPairs : List Byte → List (Nat × Nat)
  | a :: b :: c :: rest => (a.toNat, b.toNat * 256 + c.toNat) :: reportPairs rest
  | _ => []

/-- The frames of one ANSWER (R166): its data 58 bytes to a frame, every frame with the request code
and the status, and a last frame of fewer than 58 data bytes, empty when the data fills its frames
exactly. `n` bounds the number of frames. -/
def answerFrames (n : Nat) (code status : Byte) (data : List Byte) : List Frame :=
  match n with
  | 0 => []
  | n + 1 =>
    if data.length < Config.answerChunk then [⟨0, kindAnswer, code :: status :: data⟩]
    else
      ⟨0, kindAnswer, code :: status :: data.take Config.answerChunk⟩ ::
        answerFrames n code status (data.drop Config.answerChunk)

/-- The frames of an ANSWER, as many as its data needs (R166). -/
def answer (code status : Byte) (data : List Byte) : List Frame :=
  answerFrames (data.length / Config.answerChunk + 1) code status data

/-- An ORDER-ACK upstream: the module's address, the order's code and the status (R148, R163). -/
def orderAck (address code status : Byte) : Frame := ⟨address, kindOrderAck, [code, status]⟩

end Sys2Proof.Machine
end

