-- ==== Sys2Proof/Machine/Operands.lean ====
section
/-! DEFINITION. The records of the 13 working tables: their sizes, their fields as the owning blocks
read them, their defaults, and their layout in bytes (R171, R163). A working table holds record
bytes, as READ-TABLE and the store's images carry them; an entry is read through the functions here,
which answer none for an entry that is not in use or that has a field outside its range. -/

namespace Sys2Proof.Machine

/-- One record of a working table (R171). -/
abbrev Record := List Byte

/-- The value of a list that code `n` names, numbered from 0 in the order of the list (R164). -/
def named {α : Type} (values : List α) (n : Nat) : Option α := values[n]?

/-- Numbers of the tables (spec/00). -/
def tPolicy : Nat := 0
def tPort : Nat := 1
def tRoster : Nat := 2
def tPoll : Nat := 3
def tSample : Nat := 4
def tLimits : Nat := 5
def tLine : Nat := 6
def tPsm : Nat := 7
def tBbm : Nat := 8
def tTrays : Nat := 9
def tZones : Nat := 10
def tSequence : Nat := 11
def tGuard : Nat := 12

/-- Entries of each table, in table id order (R171). -/
def tableSizes : List Nat := [1, 3, 48, 64, 128, 64, 24, 6, 6, 24, 8, 32, 32]
/-- Record length of each table (R171). -/
def recordLengths : List Nat := [19, 8, 8, 2, 11, 13, 5, 8, 12, 13, 21, 13, 4]
/-- Most records of one READ-TABLE answer (R171). -/
def mostPerRead : List Nat := [1, 3, 6, 8, 4, 4, 8, 6, 4, 4, 2, 4, 8]

/-- Entries of table `t` (R171). -/
def tableSize (t : Nat) : Nat := tableSizes.getD t 0
/-- Record length of table `t` (R171). -/
def recordLength (t : Nat) : Nat := recordLengths.getD t 0

/-! ### Policy (R172) -/

/-- The Policy entry (R172). -/
structure Policy where
  /-- Redundancy N+1; clear for NONE. -/
  redundant : Bool
  startWindow : Nat
  deficitThreshold : Nat
  returnMargin : Nat
  /-- Milliseconds. -/
  qualifyTime : Nat
  energyReserve : Nat
  chargeFloor : Nat
  chargeStep : Nat
  autostart : Option Nat
  deriving DecidableEq, Repr, Inhabited

/-- The Policy record's fields, when each is in its range (R172). -/
def decodePolicy (r : Record) : Option Policy :=
  if field8 r 0 ≤ 1 ∧ 1 ≤ field8 r 1 ∧ field8 r 1 ≤ 4 ∧ 100 ≤ field32 r 6 ∧ field32 r 6 ≤ 600000 ∧
      field32 r 10 ≤ 300000000 ∧ field16 r 16 ≤ 16000 ∧ (field8 r 18 ≤ 31 ∨ field8 r 18 = 255) then
    some {
      redundant := field8 r 0 = 1
      startWindow := field8 r 1
      deficitThreshold := field16 r 2
      returnMargin := field16 r 4
      qualifyTime := field32 r 6
      energyReserve := field32 r 10
      chargeFloor := field16 r 14
      chargeStep := field16 r 16
      autostart := if field8 r 18 = 255 then none else some (field8 r 18) }
  else none

/-- The layout of a Policy record (R163, R171). -/
def encodePolicy (p : Policy) : Record :=
  beFlag p.redundant ++ be8 p.startWindow ++ be16 p.deficitThreshold ++ be16 p.returnMargin ++
    be32 p.qualifyTime ++ be32 p.energyReserve ++ be16 p.chargeFloor ++ be16 p.chargeStep ++
    beOpt8 p.autostart

/-- The defaults of the Policy (R172). -/
def defaultPolicy : Policy :=
  { redundant := false, startWindow := 1, deficitThreshold := 0, returnMargin := 0,
    qualifyTime := 10000, energyReserve := 0, chargeFloor := 0, chargeStep := 0, autostart := none }

/-! ### Port (R158, R140) -/

/-- Parity of a port's characters (R156). -/
inductive Parity
  | none
  | even
  | odd
  deriving DecidableEq, Repr, Inhabited

/-- A Port entry, and the settings a port runs on (R158, R140). -/
structure PortSettings where
  d : Nat
  f : Nat
  parity : Parity
  stopBits : Nat
  gapLimit : Nat
  pulse : Bool
  enable : Bool
  /-- Reply timeout, milliseconds. -/
  replyTimeout : Nat
  deriving DecidableEq, Repr, Inhabited

/-- The order in which parities are listed (R158, R164). -/
def parities : List Parity := [.none, .even, .odd]

/-- The Port record's fields, when each is in its range (R158). -/
def decodePort (r : Record) : Option PortSettings :=
  match named parities (field8 r 2) with
  | none => none
  | some parity =>
    if field8 r 1 ≤ 15 ∧ 1 ≤ field8 r 3 ∧ field8 r 3 ≤ 2 ∧ 2 ≤ field8 r 4 ∧ field8 r 4 ≤ 16 ∧
        field8 r 5 ≤ 1 ∧ field8 r 6 ≤ 1 ∧ 1 ≤ field8 r 7 ∧ field8 r 7 ≤ 100 then
      some {
        d := field8 r 0, f := field8 r 1, parity, stopBits := field8 r 3, gapLimit := field8 r 4,
        pulse := field8 r 5 = 1, enable := field8 r 6 = 1, replyTimeout := field8 r 7 }
    else none

/-- The layout of a Port record (R171). -/
def encodePort (p : PortSettings) : Record :=
  be8 p.d ++ be8 p.f ++ be8 (parities.idxOf p.parity) ++ be8 p.stopBits ++ be8 p.gapLimit ++
    beFlag p.pulse ++ beFlag p.enable ++ be8 p.replyTimeout

/-- The defaults of Port entry `i`: 0 UP, 1 SP, 2 TP (R158, R140). The enable at start-up and the reply timeout of
UP, which no rule gives, are those of SP and TP (log entry 12). -/
def defaultPort (i : Nat) : PortSettings :=
  if i = 0 then
    { d := 20, f := 12, parity := .none, stopBits := 1, gapLimit := 4, pulse := false,
      enable := true, replyTimeout := 20 }
  else
    { d := 1, f := 4, parity := .even, stopBits := 1, gapLimit := 4, pulse := false,
      enable := true, replyTimeout := 20 }

/-! ### Roster (R139) -/

/-- Kinds of module, in the order of R139. -/
inductive ModuleKind
  | psm
  | bbm
  | tray
  | leakNode
  deriving DecidableEq, Repr, Inhabited

/-- The order in which module kinds are listed (R139, R164). -/
def moduleKinds : List ModuleKind := [.psm, .bbm, .tray, .leakNode]

/-- Indices of a kind run below this (R139). -/
def kindBound : ModuleKind → Nat
  | .psm => 6
  | .bbm => 6
  | .tray => 24
  | .leakNode => 8

/-- The port that carries a kind (R139). -/
def kindPort : ModuleKind → Port
  | .psm => .sp
  | .bbm => .sp
  | .tray => .tp
  | .leakNode => .tp

/-- An in-use Roster entry (R139). -/
structure RosterEntry where
  address : Nat
  port : Port
  kind : ModuleKind
  index : Nat
  forward : Bool
  /-- Forward interval, milliseconds. -/
  interval : Nat
  deriving DecidableEq, Repr, Inhabited

/-- The order in which ports are numbered (R164). -/
def ports : List Port := [.up, .sp, .tp]

/-- An in-use Roster entry with every field in its range (R139). -/
def decodeRoster (r : Record) : Option RosterEntry :=
  match named ports (field8 r 2), named moduleKinds (field8 r 3) with
  | some port, some kind =>
    if field8 r 0 = 1 ∧ 1 ≤ field8 r 1 ∧ field8 r 1 ≤ 62 ∧ port ≠ .up ∧
        field8 r 4 < kindBound kind ∧ field8 r 5 ≤ 1 then
      some {
        address := field8 r 1, port, kind, index := field8 r 4, forward := field8 r 5 = 1,
        interval := field16 r 6 }
    else none
  | _, _ => none

/-- The layout of an in-use Roster record (R171). -/
def encodeRoster (e : RosterEntry) : Record :=
  be8 1 ++ be8 e.address ++ be8 (ports.idxOf e.port) ++ be8 (moduleKinds.idxOf e.kind) ++
    be8 e.index ++ beFlag e.forward ++ be16 e.interval

/-! ### Poll lists (R140) -/

/-- The Roster entry of an in-use poll list position (R140). -/
def decodePoll (r : Record) : Option Nat :=
  if field8 r 0 = 1 ∧ field8 r 1 < Config.rosterCount then some (field8 r 1) else none

/-- The layout of an in-use poll list position (R171). -/
def encodePoll (roster : Nat) : Record := be8 1 ++ be8 roster

/-! ### Sample Map (R13) -/

/-- Kinds of signal, in the order of R13. -/
inductive SignalKind
  | electrical
  | temperature
  | energy
  | power
  | leak
  deriving DecidableEq, Repr, Inhabited

/-- The order in which signal kinds are listed (R13, R164). -/
def signalKinds : List SignalKind := [.electrical, .temperature, .energy, .power, .leak]

/-- An in-use Sample Map entry (R13). -/
structure SampleEntry where
  roster : Nat
  fieldId : Nat
  signal : Nat
  gain : Nat
  offset : Int
  limitSet : Nat
  kind : SignalKind
  notify : Bool
  deriving DecidableEq, Repr, Inhabited

/-- An in-use Sample Map entry with every field in its range (R13). -/
def decodeSample (r : Record) : Option SampleEntry :=
  match named signalKinds (field8 r 9) with
  | none => none
  | some kind =>
    if field8 r 0 = 1 ∧ field8 r 1 < Config.rosterCount ∧ 2 ≤ field8 r 2 ∧
        field8 r 3 < Config.signalCount ∧ field8 r 8 < 64 ∧ field8 r 10 ≤ 1 then
      some {
        roster := field8 r 1, fieldId := field8 r 2, signal := field8 r 3, gain := field16 r 4,
        offset := fieldInt16 r 6, limitSet := field8 r 8, kind, notify := field8 r 10 = 1 }
    else none

/-- The layout of an in-use Sample Map record (R171). -/
def encodeSample (e : SampleEntry) : Record :=
  be8 1 ++ be8 e.roster ++ be8 e.fieldId ++ be8 e.signal ++ be16 e.gain ++
    be16 (BitVec.ofInt 16 e.offset).toNat ++ be8 e.limitSet ++ be8 (signalKinds.idxOf e.kind) ++
    beFlag e.notify

/-! ### Limit Sets (R16) -/

/-- A limit set (R16). -/
structure LimitSet where
  cl : Nat
  lw : Nat
  hw : Nat
  ch : Nat
  h : Nat
  n : Nat
  /-- Stale time in milliseconds; 0 is off. -/
  stale : Nat
  deriving DecidableEq, Repr, Inhabited

/-- A limit set with every field in its range and its thresholds in order (R16). -/
def decodeLimits (r : Record) : Option LimitSet :=
  if field16 r 0 ≤ field16 r 2 ∧ field16 r 2 ≤ field16 r 4 ∧ field16 r 4 ≤ field16 r 6 ∧
      1 ≤ field8 r 10 ∧ field8 r 10 ≤ 8 ∧ field16 r 11 ≤ 60000 then
    some {
      cl := field16 r 0, lw := field16 r 2, hw := field16 r 4, ch := field16 r 6,
      h := field16 r 8, n := field8 r 10, stale := field16 r 11 }
  else none

/-- The layout of a limit set (R171). -/
def encodeLimits (l : LimitSet) : Record :=
  be16 l.cl ++ be16 l.lw ++ be16 l.hw ++ be16 l.ch ++ be16 l.h ++ be8 l.n ++ be16 l.stale

/-- The defaults of every limit set (R16). -/
def defaultLimits : LimitSet :=
  { cl := 0, lw := 0, hw := 65535, ch := 65535, h := 0, n := 1, stale := 0 }

/-! ### Line (R2, R11) -/

/-- Roles of a sense line, in the order of R2. -/
inductive SenseRole
  | unused
  | inputLoss
  | leak
  | trayGood
  | shelfStop
  deriving DecidableEq, Repr, Inhabited

/-- The order in which sense roles are listed (R2, R164). -/
def senseRoles : List SenseRole := [.unused, .inputLoss, .leak, .trayGood, .shelfStop]

/-- Role indices run below this; a role that ignores its index takes any byte (R2). -/
def senseRoleBound : SenseRole → Nat
  | .unused => 256
  | .inputLoss => 6
  | .leak => 8
  | .trayGood => 24
  | .shelfStop => 256

/-- Which edges a line captures, in the order of R2. -/
inductive EdgeSelect
  | rising
  | falling
  | both
  deriving DecidableEq, Repr, Inhabited

/-- The order in which edge selects are listed (R2, R164). -/
def edgeSelects : List EdgeSelect := [.rising, .falling, .both]

/-- The order in which levels are listed (R2, R164). -/
def levels : List Level := [.high, .low]

/-- The filter periods of R2 in microseconds, OFF as 0, in the order of R2. -/
def filterPeriods : List Nat := [0, 20, 200, 2000]

/-- A sense line entry (R2). -/
structure SenseEntry where
  role : SenseRole
  index : Nat
  active : Level
  /-- Microseconds; 0 is OFF. -/
  period : Nat
  edge : EdgeSelect
  deriving DecidableEq, Repr, Inhabited

/-- A sense line entry with every field in its range (R2). -/
def decodeSense (r : Record) : Option SenseEntry :=
  match named senseRoles (field8 r 0), named levels (field8 r 2), named filterPeriods (field8 r 3),
      named edgeSelects (field8 r 4) with
  | some role, some active, some period, some edge =>
    if field8 r 1 < senseRoleBound role then some { role, index := field8 r 1, active, period, edge }
    else none
  | _, _, _, _ => none

/-- The layout of a sense line entry (R171). -/
def encodeSense (e : SenseEntry) : Record :=
  be8 (senseRoles.idxOf e.role) ++ be8 e.index ++ be8 (levels.idxOf e.active) ++
    be8 (filterPeriods.idxOf e.period) ++ be8 (edgeSelects.idxOf e.edge)

/-- The defaults of a sense line (R2). -/
def defaultSense : SenseEntry :=
  { role := .unused, index := 0, active := .high, period := 2000, edge := .both }

/-- Roles of a drive line, in the order of R11. -/
inductive DriveRole
  | unused
  | valve
  | leakAlarm
  | rideActive
  deriving DecidableEq, Repr, Inhabited

/-- The order in which drive roles are listed (R11, R164). -/
def driveRoles : List DriveRole := [.unused, .valve, .leakAlarm, .rideActive]

/-- A drive line entry (R11). -/
structure DriveEntry where
  role : DriveRole
  index : Nat
  active : Level
  deriving DecidableEq, Repr, Inhabited

/-- A drive line entry with its role, a VALVE's index and its active level in range (R11). -/
def decodeDrive (r : Record) : Option DriveEntry :=
  match named driveRoles (field8 r 0), named levels (field8 r 2) with
  | some role, some active =>
    if role = .valve ∧ 8 ≤ field8 r 1 then none else some { role, index := field8 r 1, active }
  | _, _ => none

/-- The layout of a drive line entry, followed by two bytes of 0 (R171). -/
def encodeDrive (e : DriveEntry) : Record :=
  be8 (driveRoles.idxOf e.role) ++ be8 e.index ++ be8 (levels.idxOf e.active) ++ [0, 0]

/-- The defaults of a drive line (R11); its index is the model's (log entry 12). -/
def defaultDrive : DriveEntry := { role := .unused, index := 0, active := .high }

/-! ### PSM and BBM parameters (R43, R49) -/

/-- An in-use PSM parameters entry (R43). -/
structure PsmEntry where
  roster : Nat
  rated : Nat
  derate : Nat
  voltage : Nat
  current : Nat
  temperature : Nat
  deriving DecidableEq, Repr, Inhabited

/-- An in-use PSM parameters entry with every field in its range (R43). -/
def decodePsm (r : Record) : Option PsmEntry :=
  if field8 r 0 = 1 ∧ field8 r 1 < Config.rosterCount ∧ field16 r 2 ≤ 16000 ∧ field8 r 4 ≤ 100 ∧
      field8 r 5 < Config.signalCount ∧ field8 r 6 < Config.signalCount ∧
      field8 r 7 < Config.signalCount then
    some {
      roster := field8 r 1, rated := field16 r 2, derate := field8 r 4, voltage := field8 r 5,
      current := field8 r 6, temperature := field8 r 7 }
  else none

/-- The layout of an in-use PSM parameters record (R171). -/
def encodePsm (e : PsmEntry) : Record :=
  be8 1 ++ be8 e.roster ++ be16 e.rated ++ be8 e.derate ++ be8 e.voltage ++ be8 e.current ++
    be8 e.temperature

/-- An in-use BBM parameters entry (R49). -/
structure BbmEntry where
  roster : Nat
  capacity : Nat
  maxDischarge : Nat
  maxCharge : Nat
  energy : Nat
  discharge : Nat
  deriving DecidableEq, Repr, Inhabited

/-- An in-use BBM parameters entry with every field in its range (R49). -/
def decodeBbm (r : Record) : Option BbmEntry :=
  if field8 r 0 = 1 ∧ field8 r 1 < Config.rosterCount ∧ field32 r 2 ≤ 50000000 ∧
      field16 r 8 ≤ 16000 ∧ field8 r 10 < Config.signalCount ∧
      field8 r 11 < Config.signalCount then
    some {
      roster := field8 r 1, capacity := field32 r 2, maxDischarge := field16 r 6,
      maxCharge := field16 r 8, energy := field8 r 10, discharge := field8 r 11 }
  else none

/-- The layout of an in-use BBM parameters record (R171). -/
def encodeBbm (e : BbmEntry) : Record :=
  be8 1 ++ be8 e.roster ++ be32 e.capacity ++ be16 e.maxDischarge ++ be16 e.maxCharge ++
    be8 e.energy ++ be8 e.discharge

/-! ### Trays (R86) -/

/-- An in-use Trays entry (R86). -/
structure TrayEntry where
  roster : Nat
  allocation : Nat
  inrush : Nat
  /-- Start timeout, milliseconds. -/
  startTimeout : Nat
  /-- Keep time, seconds. -/
  keepTime : Nat
  shedRank : Nat
  zone : Option Nat
  goodLine : Option Nat
  deriving DecidableEq, Repr, Inhabited

/-- An in-use Trays entry with every field in its range (R86). -/
def decodeTray (r : Record) : Option TrayEntry :=
  if field8 r 0 = 1 ∧ field8 r 1 < Config.rosterCount ∧ field16 r 2 ≤ 16000 ∧
      field16 r 4 ≤ 16000 ∧ 10 ≤ field16 r 6 ∧ field16 r 6 ≤ 60000 ∧ field8 r 10 ≤ 23 ∧
      (field8 r 11 ≤ 7 ∨ field8 r 11 = 255) ∧ (field8 r 12 ≤ 15 ∨ field8 r 12 = 255) then
    some {
      roster := field8 r 1, allocation := field16 r 2, inrush := field16 r 4,
      startTimeout := field16 r 6, keepTime := field16 r 8, shedRank := field8 r 10,
      zone := if field8 r 11 = 255 then none else some (field8 r 11),
      goodLine := if field8 r 12 = 255 then none else some (field8 r 12) }
  else none

/-- The layout of an in-use Trays record (R171). -/
def encodeTray (e : TrayEntry) : Record :=
  be8 1 ++ be8 e.roster ++ be16 e.allocation ++ be16 e.inrush ++ be16 e.startTimeout ++
    be16 e.keepTime ++ be8 e.shedRank ++ beOpt8 e.zone ++ beOpt8 e.goodLine

/-! ### Zones (R122) -/

/-- A point reference of a zone (R122). -/
inductive PointRef
  | signal (n : Nat)
  | line (l : Nat)
  deriving DecidableEq, Repr, Inhabited

/-- An in-use Zones entry (R122). -/
structure ZoneEntry where
  points : List PointRef
  confirmCount : Nat
  /-- Confirm time, milliseconds; 0 is off. -/
  confirmTime : Nat
  deriving DecidableEq, Repr, Inhabited

/-- The point reference at offset `i`: its kind, SIGNAL 0 or LINE 1, and its number (R163). -/
def pointAt (r : Record) (i : Nat) : Option PointRef :=
  if field8 r i = 0 ∧ field8 r (i + 1) < Config.signalCount then some (.signal (field8 r (i + 1)))
  else if field8 r i = 1 ∧ field8 r (i + 1) < Config.senseCount then some (.line (field8 r (i + 1)))
  else none

/-- The layout of a point reference: 2 bytes (R163). -/
def bePoint : PointRef → List Byte
  | .signal n => be8 0 ++ be8 n
  | .line l => be8 1 ++ be8 l

/-- An in-use Zones entry with every field in its range (R122). The unused point places are not checked (log entry
26). -/
def decodeZone (r : Record) : Option ZoneEntry :=
  if field8 r 0 = 1 ∧ field8 r 1 ≤ 8 ∧ 1 ≤ field8 r 18 ∧ field8 r 18 ≤ 4 ∧ field16 r 19 ≤ 60000 then
    match (List.range (field8 r 1)).mapM fun i => pointAt r (2 + 2 * i) with
    | some points => some { points, confirmCount := field8 r 18, confirmTime := field16 r 19 }
    | none => none
  else none

/-- The layout of a Zones record: its flag, a length byte, the points and the unused places, each byte of which holds
255, the confirm count and the confirm time (R163, R171). -/
def layZone (inUse : Bool) (e : ZoneEntry) : Record :=
  beFlag inUse ++ be8 e.points.length ++ (e.points.map bePoint).flatten ++
    List.replicate (16 - 2 * e.points.length) 255 ++ be8 e.confirmCount ++ be16 e.confirmTime

/-- The layout of an in-use Zones record (R171). -/
def encodeZone (e : ZoneEntry) : Record := layZone true e

/-! ### Sequence (R108) -/

/-- Kinds of step, in the order of R108. -/
inductive StepKind
  | start
  | awaitTrays
  | delay
  | awaitHeadroom
  | awaitEnergy
  | branchZone
  | finish
  deriving DecidableEq, Repr, Inhabited

/-- The order in which step kinds are listed (R108, R164). -/
def stepKinds : List StepKind :=
  [.start, .awaitTrays, .delay, .awaitHeadroom, .awaitEnergy, .branchZone, .finish]

/-- An in-use step of the Sequence table (R108). -/
structure StepEntry where
  kind : StepKind
  /-- 24 flags, tray i at bit i. -/
  traySet : Nat
  argument : Nat
  /-- Milliseconds; 0 is none. -/
  timeout : Nat
  next : Nat
  alternate : Nat
  deriving DecidableEq, Repr, Inhabited

/-- The largest argument a kind reads; a kind that reads none takes any (R108). -/
def argumentBound : StepKind → Nat
  | .awaitEnergy => 100
  | .branchZone => 7
  | .start | .awaitTrays | .delay | .awaitHeadroom | .finish => 65535

/-- An in-use step with every field in its range (R108). -/
def decodeStep (r : Record) : Option StepEntry :=
  match named stepKinds (field8 r 1) with
  | none => none
  | some kind =>
    if field8 r 0 = 1 ∧ field16 r 5 ≤ argumentBound kind ∧ field32 r 7 ≤ 1800000 ∧
        field8 r 11 ≤ 31 ∧ field8 r 12 ≤ 31 then
      some {
        kind, traySet := field24 r 2, argument := field16 r 5, timeout := field32 r 7,
        next := field8 r 11, alternate := field8 r 12 }
    else none

/-- The layout of an in-use step (R171). -/
def encodeStep (e : StepEntry) : Record :=
  be8 1 ++ be8 (stepKinds.idxOf e.kind) ++ be24 e.traySet ++ be16 e.argument ++ be32 e.timeout ++
    be8 e.next ++ be8 e.alternate

/-- The trays of a step's tray set, ascending (R108, R163). -/
def traysOfSet (set : Nat) : List Nat := (List.range Config.trayCount).filter fun t => set.testBit t

/-! ### Guard (R151) -/

/-- Actions of the Guard table, in the order of R151. -/
inductive GuardAction
  | pass
  | supplyCheck
  | rideBlock
  | deny
  deriving DecidableEq, Repr, Inhabited

/-- The order in which actions are listed (R151, R164). -/
def guardActions : List GuardAction := [.pass, .supplyCheck, .rideBlock, .deny]

/-- An in-use Guard table entry (R151). -/
structure GuardEntry where
  code : Byte
  kind : ModuleKind
  action : GuardAction
  deriving DecidableEq, Repr, Inhabited

/-- An in-use Guard entry with every field in its range (R151). -/
def decodeGuard (r : Record) : Option GuardEntry :=
  match named moduleKinds (field8 r 2), named guardActions (field8 r 3) with
  | some kind, some action =>
    if field8 r 0 = 1 then some { code := r.getD 1 0, kind, action } else none
  | _, _ => none

/-- The layout of an in-use Guard record (R171). -/
def encodeGuard (e : GuardEntry) : Record :=
  be8 1 ++ [e.code] ++ be8 (moduleKinds.idxOf e.kind) ++ be8 (guardActions.idxOf e.action)

/-! ### Defaults -/

/-- The default record of entry `i` of table `t`: the defaults of the table's chapter, or an entry not
in use, whose other bytes are 0 (log entry 12), but for the unused point places of a Zones record (R163). -/
def defaultRecord (t i : Nat) : Record :=
  if t = tPolicy then encodePolicy defaultPolicy
  else if t = tPort then encodePort (defaultPort i)
  else if t = tLimits then encodeLimits defaultLimits
  else if t = tLine then
    if i < Config.senseCount then encodeSense defaultSense else encodeDrive defaultDrive
  else if t = tZones then layZone false ⟨[], 0, 0⟩
  else List.replicate (recordLength t) 0

/-- The default contents of table `t` (R186). -/
def defaultTable (t : Nat) : List Record := (List.range (tableSize t)).map (defaultRecord t)

/-- The default contents of the 13 working tables. -/
def defaultTables : Vector (List Record) 13 :=
  #v[defaultTable 0, defaultTable 1, defaultTable 2, defaultTable 3, defaultTable 4,
    defaultTable 5, defaultTable 6, defaultTable 7, defaultTable 8, defaultTable 9,
    defaultTable 10, defaultTable 11, defaultTable 12]

end Sys2Proof.Machine
end

