-- ==== Sys2Proof/Machine/State.lean ====
section
/-! DEFINITION. Everything the manual gives the ZS-24 to remember, as plain data, block by block; the
reactions that one event leaves for another block (`Task`); the reasons a command can stop; and the
values after power-on reset, before the start-up event (log entry 10). -/

namespace Sys2Proof.Machine

/-! ### Timers -/

/-- A timer: STOPPED, RUNNING with its expiry, or FROZEN with the time remaining (R109, R163). -/
inductive Timer
  | stopped
  | running (expiry : Time)
  | frozen (left : Time)
  deriving DecidableEq, Repr, Inhabited

/-! ### Sense Line Unit (R3 to R10) -/

/-- The direction of a logical edge (R3). -/
inductive Edge
  | rising
  | falling
  deriving DecidableEq, Repr, Inhabited

/-- The filter history of a sense line (R4): clear when it has no candidate. -/
structure FilterHistory where
  candidate : Option Level
  count : Nat
  first : Time
  deriving DecidableEq, Repr, Inhabited

/-- The capture record of a sense line (R7). -/
structure Capture where
  latest : Time
  previous : Time
  /-- NONE when no qualifying edge has been taken. -/
  edge : Option Edge
  captured : Bool
  missed : Bool
  deriving DecidableEq, Repr, Inhabited

/-- What the Sense Line Unit keeps for one sense line. -/
structure SenseLine where
  /-- UNSET is none (R3). -/
  accepted : Option Level
  history : FilterHistory
  /-- When the filter last sampled the line (R4, log entry 27). -/
  lastSample : Option Time
  capture : Capture
  deriving DecidableEq, Repr, Inhabited

/-! ### Signal Screen (R17, R20) -/

/-- Bands, in the order of R164. -/
inductive Band
  | critLow
  | low
  | normal
  | high
  | critHigh
  | unknown
  deriving DecidableEq, Repr, Inhabited

/-- A signal record (R20). -/
structure Signal where
  value : Nat
  band : Band
  pending : Option Band
  count : Nat
  last : Time
  stale : Bool
  deriving DecidableEq, Repr, Inhabited

/-! ### Balance Unit (R25, R28) -/

/-- Kinds of input change, in the order of R28. -/
inductive Cause
  | psmState
  | psmLine
  | psmTemperature
  | psmReading
  | bbmState
  | bbmReading
  | tray
  | charge
  | apply
  | start
  deriving DecidableEq, Repr, Inhabited

/-- The balance record (R25). -/
structure Balance where
  p : Vector Nat 6
  pHeld : Vector Bool 6
  b : Vector Nat 6
  bHeld : Vector Bool 6
  /-- Which BBMs were DISCHARGING in this record: what R31 reads of the record it replaces. -/
  bDischarging : Vector Bool 6
  /-- MODEL: the discharge signal of this BBM has not been known since an apply named it: what R39 asks for
  (log entry 31). -/
  bUnread : Vector Bool 6
  m : Nat
  g : Vector Nat 6
  sGrid : Nat
  q : Nat
  sAdm : Nat
  k : Nat
  c : Nat
  h0 : Int
  h : Int
  d : Nat
  held : Bool
  overcommit : Bool
  deficit : Bool
  causes : List Cause
  time : Time
  count : Nat
  deriving DecidableEq, Repr

/-! ### Module Monitor (R44, R50) -/

/-- PSM states, in the order of R44. -/
inductive PsmState
  | absent
  | failed
  | inputLost
  | ok
  deriving DecidableEq, Repr, Inhabited

/-- Reasons of a PSM's state: those of R48 in their order, then START (R44; log entry 25). -/
inductive PsmReason
  | presence
  | fault
  | output
  | temperature
  | voltage
  | line
  | input
  | report
  | band
  | apply
  | start
  deriving DecidableEq, Repr, Inhabited

/-- A PSM's status copy (R44). -/
structure PsmStatus where
  inputOk : Bool
  outputOk : Bool
  fault : Bool
  deriving DecidableEq, Repr, Inhabited

/-- What makes the Module Monitor evaluate a PSM (R45, R48). -/
inductive PsmTrigger
  | line
  | report
  | band
  | presence
  | apply
  deriving DecidableEq, Repr, Inhabited

/-- A PSM record (R44). -/
structure Psm where
  state : PsmState
  reason : PsmReason
  status : Option PsmStatus
  lineActive : Bool
  inputHold : Bool
  stateTime : Time
  deriving DecidableEq, Repr, Inhabited

/-- BBM states, in the order of R50. -/
inductive BbmState
  | absent
  | fault
  | idle
  | charging
  | discharging
  deriving DecidableEq, Repr, Inhabited

/-- Fault causes of a BBM, in the order of R50. -/
inductive BbmFault
  | status
  | noAnswer
  | refused
  deriving DecidableEq, Repr, Inhabited

/-- Reasons of a BBM state change, in the order of R54. -/
inductive BbmReason
  | presence
  | adopted
  | status
  | full
  | orderOk
  | refused
  | noAnswer
  | apply
  deriving DecidableEq, Repr, Inhabited

/-- A BBM record (R50). -/
structure Bbm where
  state : BbmState
  fault : Option BbmFault
  full : Bool
  seen : Bool
  /-- NONE is none. -/
  ordered : Option Nat
  acknowledged : Nat
  stateTime : Time
  deriving DecidableEq, Repr, Inhabited

/-! ### Ride-Through Controller (R62, R83) -/

/-- Ride states, in the order of R62. -/
inductive RideState
  | normal
  | ride
  | depleted
  | returning
  deriving DecidableEq, Repr, Inhabited

/-- Causes of a ride, in the order of R63. -/
inductive RideCause
  | line
  | deficit
  deriving DecidableEq, Repr, Inhabited

/-- A ride summary (R83). -/
structure Summary where
  entry : Time
  cause : RideCause
  anchor : Nat
  returnTime : Option Time
  normalTime : Option Time
  used : Option Nat
  shedCount : Nat
  returns : Nat
  smallestT : Nat
  depleted : Bool
  deriving DecidableEq, Repr, Inhabited

/-- What the Ride-Through Controller holds (R62). -/
structure Ride where
  state : RideState
  eRem : Nat
  r : Nat
  eCap : Nat
  eAnchor : Nat
  shares : Vector Nat 6
  eUse : Nat
  dProj : Nat
  bMax : Nat
  t : Nat
  /-- The qualify timer: RUNNING with its start time, or none for STOPPED (R79). -/
  qualify : Option Time
  /-- The energy tick: RUNNING with the time of the next tick, or none for STOPPED (R68). -/
  tick : Option Time
  openSummary : Option Summary
  closedSummary : Option Summary
  deriving DecidableEq, Repr

/-! ### Tray Controller (R87, R92) -/

/-- Tray states, in the order of R87. -/
inductive TrayState
  | unknown
  | off
  | queued
  | starting
  | on
  | stopping
  | shedding
  | shed
  | locked
  | fault
  deriving DecidableEq, Repr, Inhabited

/-- Fault causes of a tray, in the order of R87. -/
inductive TrayFault
  | noAnswer
  | refused
  | noGood
  | goodLost
  | absent
  deriving DecidableEq, Repr, Inhabited

/-- Output-seen, in the order of R87. -/
inductive Seen
  | on
  | off
  | unknown
  deriving DecidableEq, Repr, Inhabited

/-- The awaited order, in the order of R87. -/
inductive Awaited
  | nothing
  | on
  | off
  deriving DecidableEq, Repr, Inhabited

/-- Who queued a tray, in the order of R87. -/
inductive QueuedBy
  | manager
  | program
  deriving DecidableEq, Repr, Inhabited

/-- The run-time fields of a tray (R87). -/
structure Tray where
  state : TrayState
  fault : Option TrayFault
  seen : Seen
  awaited : Awaited
  startTimer : Timer
  enableTime : Time
  duration : Time
  queuedBy : Option QueuedBy
  stateTime : Time
  deriving DecidableEq, Repr, Inhabited

/-- The trays with the two lists of trays that follow their states. -/
structure Bay where
  trays : Vector Tray 24
  /-- The start queue, head first (R92). -/
  queue : List Nat
  /-- The restore stack, top first (R76). -/
  stack : List Nat
  deriving DecidableEq, Repr

/-! ### Program Sequencer (R109, R115) -/

/-- Sequencer states, in the order of R109. -/
inductive SeqState
  | idle
  | running
  | waiting
  | held
  | halted
  deriving DecidableEq, Repr, Inhabited

/-- Origins of a run, in the order of R109. -/
inductive Origin
  | request
  | autostart
  deriving DecidableEq, Repr, Inhabited

/-- Causes of a halt, in the order of R115. -/
inductive HaltCause
  | badStep
  | loop
  | abort
  | shelfStop
  deriving DecidableEq, Repr, Inhabited

/-- How the last run stopped (R109). -/
inductive RunOutcome
  | ended (step : Nat)
  | halted (cause : HaltCause) (step : Nat)
  deriving DecidableEq, Repr, Inhabited

/-- The sequencer record (R109). -/
structure Sequencer where
  state : SeqState
  pointer : Option Nat
  entry : Option Nat
  origin : Option Origin
  runCount : Nat
  stepsTaken : Nat
  stepTimer : Timer
  delayTimer : Timer
  outcome : Option RunOutcome
  /-- Autostart pending: clear, or set with the entry step that start-up found (R120). -/
  autostart : Option Nat
  deriving DecidableEq, Repr, Inhabited

/-! ### Leak Zone Unit (R123) -/

/-- Zone states, in the order of R123. -/
inductive ZoneState
  | dry
  | suspect
  | wet
  deriving DecidableEq, Repr, Inhabited

/-- Point states, in the order of R123. -/
inductive PointState
  | dry
  | wet
  | unknown
  deriving DecidableEq, Repr, Inhabited

/-- Causes of a zone state change, in the order of R131. -/
inductive ZoneCause
  | point
  | dry
  | count
  | time
  | clear
  | table
  deriving DecidableEq, Repr, Inhabited

/-- The run-time record of a zone (R123). -/
structure Zone where
  state : ZoneState
  points : List PointState
  wet : Nat
  unknown : Nat
  timer : Timer
  firstWet : Time
  latch : Time
  epoch : BitVec 8
  deriving DecidableEq, Repr, Inhabited

/-! ### Ports (R141, R143, R147, R159, R161, R162) -/

/-- An entry of a receive queue (R161). -/
inductive RxEntry
  | frame (f : Frame)
  | damage
  deriving DecidableEq, Repr, Inhabited

/-- A frame to send, and whether it ends the DONE answer of the pending restart (R170). -/
structure TxFrame where
  frame : Frame
  restartDone : Bool
  deriving DecidableEq, Repr, Inhabited

/-- A Port Engine (R158 to R162, R169). -/
structure PortEngine where
  enabled : Bool
  settings : PortSettings
  /-- ASSEMBLING since this start character, or none for HUNTING (R159). -/
  assembling : Option Time
  rx : List RxEntry
  /-- EMPTY is none (R162). -/
  buffer : Option TxFrame
  /-- IDLE is none (R162). -/
  shifter : Option TxFrame
  /-- MODEL's own: when a downstream shifter last became SENDING (R156; log entry 9). -/
  began : Time
  damaged : Nat
  overruns : Nat
  overrun : Bool
  stray : Nat
  deriving DecidableEq, Repr, Inhabited

/-- The module a control order is for (R147), or none where the tray's entry has been taken out of use and
the outcome is discarded (R106). -/
inductive Target
  | tray (t : Nat)
  | bbm (k : Nat)
  | gone
  deriving DecidableEq, Repr, Inhabited

/-- A control order (R147). -/
structure ControlOrder where
  roster : Nat
  address : Byte
  code : Byte
  argument : Nat
  target : Target
  deriving DecidableEq, Repr, Inhabited

/-- A relayed order (R148). -/
structure RelayedOrder where
  roster : Nat
  address : Byte
  code : Byte
  argument : Nat
  deriving DecidableEq, Repr, Inhabited

/-- The order in progress and the attempt last begun (R147). -/
structure Progress where
  order : ControlOrder
  attempt : Nat
  deriving DecidableEq, Repr, Inhabited

/-- Kinds of transaction, in the order of R143. -/
inductive TxKind
  | poll
  | control
  | command
  deriving DecidableEq, Repr, Inhabited

/-- The transaction in flight (R143). -/
structure Transaction where
  kind : TxKind
  roster : Nat
  address : Byte
  code : Option Byte
  attempt : Option Nat
  timer : Timer
  /-- Its module left the Roster: the outcome is discarded (R154). -/
  discarded : Bool
  deriving DecidableEq, Repr, Inhabited

/-- The poll and transaction state of a downstream port (R141). -/
structure PollEngine where
  position : Nat
  pass : Nat
  emptyTimer : Timer
  nonPollRun : Nat
  inFlight : Option Transaction
  inProgress : Option Progress
  control : List ControlOrder
  command : List RelayedOrder
  deriving DecidableEq, Repr, Inhabited

/-- Presence, in the order of R141. -/
inductive Presence
  | new
  | present
  | absent
  deriving DecidableEq, Repr, Inhabited

/-- What the Poll Engine keeps for one Roster entry (R141). -/
structure Module where
  presence : Presence
  misses : Nat
  lastCopy : Option Time
  deriving DecidableEq, Repr, Inhabited

/-- How a control order ended (R147). -/
inductive OrderOutcome
  | ack (status : Byte)
  | noAnswer
  | portOff
  deriving DecidableEq, Repr, Inhabited

/-! ### Notices (R163, R168) -/

/-- A notice in the Notice Queue (R163, R168). -/
structure Notice where
  time : Time
  source : Nat
  index : Nat
  code : Nat
  more : Bool
  word1 : Nat
  word2 : Nat
  deriving DecidableEq, Repr, Inhabited

/-! ### Table Memory, Edit Window and start-up (R174, R186) -/

/-- The open edit window (R174). -/
structure Window where
  table : Nat
  first : Nat
  count : Nat
  /-- For each entry of the range, a latched record or none. -/
  latched : List (Option Record)
  idle : Timer
  deriving DecidableEq, Repr, Inhabited

/-- What start-up found of a table's image (R186). -/
inductive LoadStatus
  | loaded
  | default
  | bad
  deriving DecidableEq, Repr, Inhabited

/-- The three kinds of reset (spec/00, R188). -/
inductive ResetKind
  | powerOn
  | line
  | restart
  deriving DecidableEq, Repr, Inhabited

/-! ### Configuration Store (R180, R183) -/

/-- Page states, in the order of R180. -/
inductive PageState
  | erased
  | written
  | verified
  | damaged
  deriving DecidableEq, Repr, Inhabited

/-- The operations that take time (R183). -/
inductive StoreAction
  | eraseRow
  | eraseBlock
  | eraseAll
  | write
  | verify
  deriving DecidableEq, Repr, Inhabited

/-- The store operation in flight (R183). -/
structure StoreOp where
  action : StoreAction
  row : Nat
  page : Nat
  data : List Byte
  ends : Time
  deriving DecidableEq, Repr, Inhabited

/-- The configuration store (R180). -/
structure Store where
  /-- The data: cells in rising order of address, none of them 0xFF; an unlisted byte reads 0xFF. -/
  cells : List Host.Cell
  pages : Vector PageState 512
  counts : Vector Nat 64
  op : Option StoreOp
  deriving DecidableEq, Repr

/-! ### Reactions of an event -/

/-- What one block hands to another within an event, carried out after the block has finished
(log entry 4). -/
inductive Task
  /-- The Balance Unit recomputes for the causes gathered (R27). -/
  | balance
  /-- A new record is handed to the Ride-Through Controller (R37): DEFICIT, whether its causes name
  PSM-LINE (R63), the return condition of R79, and D. -/
  | rideRecord (deficit line returnOk : Bool) (d : Nat)
  /-- A change of the restore stack is tested (R76, R82). -/
  | stackChanged
  /-- The Module Monitor is told that the ride state left NORMAL (R59). -/
  | chargeZero
  /-- A charge evaluation (R55). -/
  | charge
  /-- The waiting step tests its condition (R113). -/
  | seqTest
  /-- The sequencer resumes on NORMAL (R116). -/
  | seqResume
  /-- A step is entered (R110). -/
  | seqEnter (step : Nat)
  /-- The trays a START step has still to ask for (R111). -/
  | seqStart (trays : List Nat)
  /-- The shelf stop reaches the sequencer (R119). -/
  | seqShelfStop
  /-- A run halts (R115): cause, source index and second data word. -/
  | seqHalt (cause : HaltCause) (source word : Nat)
  /-- A tray queued by PROGRAM is withdrawn (R118). -/
  | withdraw (tray : Nat)
  /-- The autostart condition is tested (R120). -/
  | autostartTest
  /-- A tray is shed, or stopped at an entry to RIDE (R98). -/
  | shed (tray : Nat)
  /-- The shelf stop reaches a tray (R104). -/
  | shelfStopTray (tray : Nat)
  /-- A tray of a WET zone is locked (R100). -/
  | lockTray (tray : Nat)
  /-- A LOCKED tray is released (R100). -/
  | releaseTray (tray : Nat)
  /-- OUTPUT-OFF is placed for a tray locked at start-up (R87; log entry 18). -/
  | placeOff (tray : Nat)
  /-- The outcome of a tray's order (R91). -/
  | trayOutcome (tray : Nat) (code : Byte) (o : OrderOutcome)
  /-- The outcome of a battery's order (R53). -/
  | bbmOutcome (bbm : Nat) (code : Byte) (argument : Nat) (o : OrderOutcome)
  /-- A module becomes ABSENT, by misses or otherwise (R144). -/
  | moduleAbsent (roster : Nat) (missed : Bool)
  /-- The signals of an ABSENT module become STALE, after its owner's change (R21, R139; log entry 43). -/
  | signalsStale (roster : Nat)
  /-- PSMs with a band change that no report made are evaluated (R45; log entry 43). -/
  | psmBands (psms : List Nat)
  /-- The zones with a changed point are evaluated (R125). -/
  | zones
  /-- One zone is evaluated (R126). -/
  | zoneEval (zone : Nat)
  /-- RIDE-ENTER is posted with D (R85). -/
  | postRideEnter (d : Nat)
  /-- RIDE-DEPLETED is posted with the number of trays shed (R85). -/
  | postDepleted (trays : Nat)
  /-- The side effects of an apply (R177): the table, its records before, the latched entries. -/
  | applied (table : Nat) (old : List Record) (latched : List Nat)
  /-- The side effects of an apply or of the placing of the tables end (R39, R40). -/
  | endApply
  /-- An ANSWER or ORDER-ACK is placed (R165). -/
  | reply (frames : List Frame)
  /-- Phase 4 of start-up (R187). -/
  | startPorts
  /-- Phase 5 of start-up (R187). -/
  | startAutostart
  /-- The start-up event ends by posting STARTED (R188). -/
  | postStarted (kind : ResetKind)
  deriving DecidableEq, Repr, Inhabited

/-! ### The machine -/

/-- Everything the ZS-24 holds but its configuration store. -/
structure Shelf where
  shelfTime : Time
  ambient : Ambient
  tables : Vector (List Record) 13
  loads : Vector LoadStatus 13
  window : Option Window
  lines : Vector SenseLine 16
  sampling : Bool
  shelfStop : Bool
  drives : Vector Level 8
  signals : Vector Signal 128
  balance : Balance
  psms : Vector Psm 6
  bbms : Vector Bbm 6
  chargeBudget : Nat
  ride : Ride
  bay : Bay
  seq : Sequencer
  zones : Vector Zone 8
  engUp : PortEngine
  engSp : PortEngine
  engTp : PortEngine
  pollSp : PollEngine
  pollTp : PollEngine
  modules : Vector Module 48
  replies : List TxFrame
  replyWait : List TxFrame
  notices : List Notice
  telemetry : List Frame
  telemetryRun : Nat
  telemetryDrops : Nat
  /-- Restart pending: none, or whether its DONE answer has been sent (R170). -/
  restart : Option Bool
  /-- The protect level in effect (R182). -/
  level : Nat
  /-- Reactions to carry out, next first (log entry 4). -/
  agenda : List Task
  /-- Reactions of the Module Monitor and the Program Sequencer, next first (log entry 4). -/
  deferred : List Task
  /-- Reactions raised by the one being carried out. -/
  raised : List Task
  /-- An admission evaluation is due (R93). -/
  admitDue : Bool
  /-- Input changes not yet recomputed (R27, R28). -/
  causes : List Cause
  /-- The side effects of an apply or of start-up are being made (R39): the causes of the one
  recomputation that ends them, none of its own where the list is empty. -/
  applying : Option (List Cause)
  deriving DecidableEq, Repr

/-- The state of the ZS-24: its blocks, its configuration store and the commands that wait. -/
structure State extends Shelf where
  store : Store
  /-- The commands that wait, first in, first out. -/
  pending : List Instr
  deriving DecidableEq, Repr

/-- No command of this part ends in a fault: a fault of a tray, a battery or a frame is state (R52,
R96, R159), and each command goes on to a next state. -/
inductive Fault
  deriving DecidableEq, Repr

/-- Reasons a command is refused. -/
inductive Refusal
  /-- A command with no meaning yet: raised by `exec`'s arm alone; safe. No arm raises it. -/
  | notModelled (mnemonic : String)
  deriving DecidableEq, Repr

/-! ### Values after a reset -/

/-- A sense line after each reset (R7, R10). -/
def resetSense : SenseLine :=
  { accepted := none, history := ⟨none, 0, 0⟩, lastSample := none,
    capture := { latest := 0, previous := 0, edge := none, captured := false, missed := false } }

/-- A signal record after each reset (R20). -/
def resetSignal : Signal :=
  { value := 0, band := .unknown, pending := none, count := 0, last := 0, stale := false }

/-- The balance record after each reset (R25). -/
def resetBalance : Balance :=
  { p := .replicate 6 0, pHeld := .replicate 6 false, b := .replicate 6 0,
    bHeld := .replicate 6 false, bDischarging := .replicate 6 false, bUnread := .replicate 6 false, m := 0,
    g := .replicate 6 0,
    sGrid := 0, q := 0, sAdm := 0, k := 0, c := 0, h0 := 0, h := 0, d := 0, held := false,
    overcommit := false, deficit := false, causes := [], time := 0, count := 0 }

/-- A PSM record after each reset (R44). -/
def resetPsm : Psm :=
  { state := .inputLost, reason := .start, status := none, lineActive := false, inputHold := true,
    stateTime := 0 }

/-- A BBM record after each reset (R50). -/
def resetBbm : Bbm :=
  { state := .idle, fault := none, full := false, seen := false, ordered := some 0,
    acknowledged := 0, stateTime := 0 }

/-- The Ride-Through Controller after power-on reset and the RESET line (R62). -/
def resetRide : Ride :=
  { state := .normal, eRem := 0, r := 0, eCap := 0, eAnchor := 0, shares := .replicate 6 0,
    eUse := 0, dProj := 0, bMax := 0, t := 65535, qualify := none, tick := none,
    openSummary := none, closedSummary := none }

/-- A tray's run-time fields after each reset (R87). -/
def resetTray : Tray :=
  { state := .unknown, fault := none, seen := .unknown, awaited := .nothing,
    startTimer := .stopped, enableTime := 0, duration := 0, queuedBy := none, stateTime := 0 }

/-- The trays after each reset, with both lists empty (R76, R87, R92). -/
def resetBay : Bay := { trays := .replicate 24 resetTray, queue := [], stack := [] }

/-- The sequencer after each reset (R109). -/
def resetSeq : Sequencer :=
  { state := .idle, pointer := none, entry := none, origin := none, runCount := 0,
    stepsTaken := 0, stepTimer := .stopped, delayTimer := .stopped, outcome := none,
    autostart := none }

/-- A zone record after power-on reset and the RESET line (R123). -/
def resetZone : Zone :=
  { state := .dry, points := [], wet := 0, unknown := 0, timer := .stopped, firstWet := 0,
    latch := 0, epoch := 0 }

/-- A Port Engine after each reset (R141, R159, R162, R169), with its table's default settings. -/
def resetEngine (i : Nat) : PortEngine :=
  { enabled := false, settings := defaultPort i, assembling := none, rx := [], buffer := none,
    shifter := none, began := 0, damaged := 0, overruns := 0, overrun := false, stray := 0 }

/-- A Poll Engine after each reset (R141). -/
def resetPoll : PollEngine :=
  { position := 31, pass := 7, emptyTimer := .stopped, nonPollRun := 0, inFlight := none,
    inProgress := none, control := [], command := [] }

/-- A module's presence record after each reset (R141). -/
def resetModule : Module := { presence := .new, misses := 0, lastCopy := none }

/-- The configuration store of a new part: every page erased (log entry 11). -/
def newStore : Store :=
  { cells := [], pages := .replicate 512 .erased, counts := .replicate 64 0, op := none }

/-- What an event shows when nothing has been shown yet (log entries 1 and 3). -/
def quietAmbient : Ambient :=
  { elapsed := 0, svc := false, rideTurn := .first, chargeFirst := false, programFirst := false,
    lineQuiet := 0 }

/-- Every block at its values after power-on reset, before the start-up event (log entry 10). -/
def resetShelf : Shelf :=
  { shelfTime := 0
    ambient := quietAmbient
    tables := defaultTables
    loads := .replicate 13 .default
    window := none
    lines := .replicate 16 resetSense
    sampling := false
    shelfStop := false
    drives := .replicate 8 .low
    signals := .replicate 128 resetSignal
    balance := resetBalance
    psms := .replicate 6 resetPsm
    bbms := .replicate 6 resetBbm
    chargeBudget := 0
    ride := resetRide
    bay := resetBay
    seq := resetSeq
    zones := .replicate 8 resetZone
    engUp := resetEngine 0
    engSp := resetEngine 1
    engTp := resetEngine 2
    pollSp := resetPoll
    pollTp := resetPoll
    modules := .replicate 48 resetModule
    replies := []
    replyWait := []
    notices := []
    telemetry := []
    telemetryRun := 0
    telemetryDrops := 0
    restart := none
    level := 0
    agenda := []
    deferred := []
    raised := []
    admitDue := false
    causes := []
    applying := none }

/-- The machine right after power-on reset: each block's reset values, an erased store and no command
waiting. -/
def State.reset : State := { resetShelf with store := newStore, pending := [] }

end Sys2Proof.Machine
end

