-- ==== Sys2Proof/Machine/Ops.lean ====
section
/-! DEFINITION. The operations that every block shares: fixed populations, time, the reactions of an
event, notices (R168), replies (R165) and the two downstream ports' fields. -/

namespace Sys2Proof.Machine

/-! ### Fixed populations -/

/-- Item `i` of a population. -/
def vget {α : Type} {n : Nat} [Inhabited α] (v : Vector α n) (i : Nat) : α := v[i]?.getD default

/-- A population with item `i` replaced; unchanged where there is no item `i`. -/
def vset {α : Type} {n : Nat} (v : Vector α n) (i : Nat) (a : α) : Vector α n := v.setIfInBounds i a

/-- A population with item `i` changed by `f`. -/
def vmod {α : Type} {n : Nat} [Inhabited α] (v : Vector α n) (i : Nat) (f : α → α) : Vector α n :=
  vset v i (f (vget v i))

/-- The sum of a figure over the items of a list, without overflow (R42). -/
def total (is : List Nat) (f : Nat → Nat) : Nat := (is.map f).sum

/-! ### Shelf time (R1) -/

/-- A number of milliseconds as an interval of shelf time (R1). -/
def msTime (ms : Nat) : Time := BitVec.ofNat 32 (ms * 1000)

/-- A shelf time has been reached: the difference is a forward interval below 2^31 µs (R1). -/
def reached (now t : Time) : Bool := (now - t).toNat < 2147483648

/-- A timer is RUNNING and its expiry has been reached. -/
def expired (now : Time) : Timer → Bool
  | .running expiry => reached now expiry
  | _ => false

/-- A timer is RUNNING. -/
def isRunning : Timer → Bool
  | .running _ => true
  | _ => false

/-- The interval from one shelf time forward to a later one, 0 when the second is the earlier (R95). -/
def forwardInterval (start stop : Time) : Time :=
  if reached stop start then stop - start else 0

/-- Increase a count that saturates at 65535. -/
def satInc (n : Nat) : Nat := min (n + 1) 65535

/-! ### Reactions of an event (log entry 4) -/

/-- Leave a reaction to be carried out when the present one is done, before older ones. -/
def emit (t : Task) (s : Shelf) : Shelf := { s with raised := s.raised ++ [t] }

/-- Leave several reactions, in this order. -/
def emitAll (ts : List Task) (s : Shelf) : Shelf := { s with raised := s.raised ++ ts }

/-- Leave a reaction for after every other one and after the admission evaluation (R37, R65), unless
it already waits there: several triggers of one event give one charge evaluation (R55; log entry 52). -/
def postpone (t : Task) (s : Shelf) : Shelf :=
  if t ∈ s.deferred then s else { s with deferred := s.deferred ++ [t] }

/-- Leave a reaction for after the admission evaluation, before the others that wait there (R111). -/
def postponeFirst (t : Task) (s : Shelf) : Shelf := { s with deferred := t :: s.deferred }

/-- An admission evaluation is due (R93). -/
def admissionDue (s : Shelf) : Shelf := { s with admitDue := true }

/-- Gather a kind of input change for the next recomputation (R28). -/
def addCause (s : Shelf) (c : Cause) : Shelf :=
  if c ∈ s.causes then s else { s with causes := s.causes ++ [c] }

/-- An owner hands a change on to the Balance Unit (R26, R27). -/
def changed (cs : List Cause) (s : Shelf) : Shelf :=
  if cs = [] then s else emit .balance (cs.foldl addCause s)

/-! ### Notices (R163, R168) -/

/-- Source kinds of notices (R163). -/
def srcPart : Nat := 0
def srcSignal : Nat := 1
def srcBalance : Nat := 2
def srcPsm : Nat := 3
def srcBbm : Nat := 4
def srcRide : Nat := 5
def srcTray : Nat := 6
def srcProgram : Nat := 7
def srcZone : Nat := 8
def srcPort : Nat := 9
def srcTable : Nat := 10
def srcStore : Nat := 11

/-- Notice codes (R163). -/
def ntStarted : Nat := 1
def ntPsmState : Nat := 2
def ntBbmState : Nat := 3
def ntRideEnter : Nat := 4
def ntRideReturn : Nat := 5
def ntRideNormal : Nat := 6
def ntRideDepleted : Nat := 7
def ntTrayState : Nat := 8
def ntZoneState : Nat := 9
def ntOvercommit : Nat := 10
def ntProgramEnd : Nat := 11
def ntProgramHalt : Nat := 12
def ntSignalBand : Nat := 13
def ntPortError : Nat := 14
def ntEditExpired : Nat := 15
def ntStoreDone : Nat := 16
def ntStoreFailed : Nat := 17

/-- Set the MORE flag of the newest notice (R168). -/
def markMore : List Notice → List Notice
  | [] => []
  | [n] => [{ n with more := true }]
  | n :: rest => n :: markMore rest

/-- Offer a notice to a notice queue (R168). -/
def offerNotice (n : Notice) (q : List Notice) : List Notice :=
  if q.length < Config.noticeDepth then q ++ [n] else markMore q

/-- Post a notice in the event (R168). -/
def post (source index code word1 word2 : Nat) (s : Shelf) : Shelf :=
  { s with
    notices := offerNotice ⟨s.shelfTime, source, index, code, false, word1, word2⟩ s.notices }

/-- The NOTICE frame of a notice (R163). -/
def noticeFrame (n : Notice) : Frame :=
  { address := 0
    kind := kindNotice
    payload := beTime n.time ++ be8 n.source ++ be8 n.index ++ be8 n.code ++
      beFlag n.more ++ be16 n.word1 ++ be16 n.word2 }

/-! ### Replies (R149, R165) -/

/-- Place an ANSWER frame or ORDER-ACK: in the REPLY queue, or at the tail of the reply wait (R165). -/
def placeReply (f : TxFrame) (s : Shelf) : Shelf :=
  if s.replies.length < Config.replyDepth ∧ s.replyWait = [] then
    { s with replies := s.replies ++ [f] }
  else { s with replyWait := s.replyWait ++ [f] }

/-- Place the frames of a reply one after another (R166). -/
def placeReplies (fs : List Frame) (s : Shelf) : Shelf :=
  fs.foldl (fun s f => placeReply ⟨f, false⟩ s) s

/-- Answer an order with an ORDER-ACK (R149). -/
def answerOrder (address code status : Byte) (s : Shelf) : Shelf :=
  placeReply ⟨orderAck address code status, false⟩ s

/-- ORDER-ACK statuses (R163). -/
def ackOk : Byte := 0x00
def ackQueued : Byte := 0x80
def ackBusy : Byte := 0x81
def ackNoModule : Byte := 0x82
def ackNoAnswer : Byte := 0x83
def ackPortOff : Byte := 0x84
def ackDenied : Byte := 0x85
def ackRide : Byte := 0x86
def ackLocked : Byte := 0x87
def ackFault : Byte := 0x88
def ackShort : Byte := 0x89

/-- ANSWER statuses (R163). -/
def stDone : Byte := 0
def stStarted : Byte := 1
def stBusy : Byte := 2
def stInvalid : Byte := 3
def stProtected : Byte := 4
def stStaleEpoch : Byte := 5
def stNotDry : Byte := 6
def stRide : Byte := 7
def stNoEntry : Byte := 8
def stNoWindow : Byte := 9
def stWorn : Byte := 10
def stDamaged : Byte := 11

/-- Order codes used by the part (R163). -/
def codeOutputOn : Byte := 0x01
def codeOutputOff : Byte := 0x02
def codeCharge : Byte := 0x10
def codeDischarge : Byte := 0x11
def codeHold : Byte := 0x12

/-! ### Ports -/

/-- A port's Port Engine. -/
def engine (s : Shelf) : Port → PortEngine
  | .up => s.engUp
  | .sp => s.engSp
  | .tp => s.engTp

/-- Change a port's Port Engine. -/
def setEngine (p : Port) (e : PortEngine) (s : Shelf) : Shelf :=
  match p with
  | .up => { s with engUp := e }
  | .sp => { s with engSp := e }
  | .tp => { s with engTp := e }

/-- A downstream port's Poll Engine; UP has none, and its place is taken by one at reset values. -/
def pollEngine (s : Shelf) : Port → PollEngine
  | .up => resetPoll
  | .sp => s.pollSp
  | .tp => s.pollTp

/-- Change a downstream port's Poll Engine. -/
def setPoll (p : Port) (e : PollEngine) (s : Shelf) : Shelf :=
  match p with
  | .up => s
  | .sp => { s with pollSp := e }
  | .tp => { s with pollTp := e }

/-- A port's number (R164). -/
def portNumber : Port → Nat
  | .up => 0
  | .sp => 1
  | .tp => 2

end Sys2Proof.Machine
end

