-- ==== Sys2Proof/Machine/Flags.lean ====
section
/-! DEFINITION. What one block reads of the tables and of another block's state: entries in use,
logical line states, usable batteries, the conditions of admission, return, autostart and
protection. Nothing here changes state. -/

namespace Sys2Proof.Machine

/-! ### Entries of the working tables -/

/-- The working record of entry `i` of table `t`. -/
def recordAt (s : Shelf) (t i : Nat) : Record := (vget s.tables t).getD i []

/-- The Policy in effect (R172). -/
def policy (s : Shelf) : Policy := (decodePolicy (recordAt s tPolicy 0)).getD defaultPolicy

/-- The Port table entry of a port (R158). -/
def portEntry (s : Shelf) (p : Port) : PortSettings :=
  (decodePort (recordAt s tPort (portNumber p))).getD (defaultPort (portNumber p))

/-- An in-use Roster entry (R139). -/
def rosterAt (s : Shelf) (r : Nat) : Option RosterEntry := decodeRoster (recordAt s tRoster r)

/-- An in-use Sample Map entry (R13). -/
def sampleAt (s : Shelf) (i : Nat) : Option SampleEntry := decodeSample (recordAt s tSample i)

/-- A limit set (R16). -/
def limitsAt (s : Shelf) (i : Nat) : LimitSet :=
  (decodeLimits (recordAt s tLimits i)).getD defaultLimits

/-- A sense line's entry (R2). -/
def senseAt (s : Shelf) (l : Nat) : SenseEntry := (decodeSense (recordAt s tLine l)).getD defaultSense

/-- A drive line's entry (R11). -/
def driveAt (s : Shelf) (d : Nat) : DriveEntry :=
  (decodeDrive (recordAt s tLine (Config.senseCount + d))).getD defaultDrive

/-- An in-use PSM parameters entry (R43). -/
def psmAt (s : Shelf) (i : Nat) : Option PsmEntry := decodePsm (recordAt s tPsm i)

/-- An in-use BBM parameters entry (R49). -/
def bbmAt (s : Shelf) (k : Nat) : Option BbmEntry := decodeBbm (recordAt s tBbm k)

/-- An in-use Trays entry (R86). -/
def trayAt (s : Shelf) (t : Nat) : Option TrayEntry := decodeTray (recordAt s tTrays t)

/-- An in-use Zones entry (R122). -/
def zoneAt (s : Shelf) (z : Nat) : Option ZoneEntry := decodeZone (recordAt s tZones z)

/-- An in-use step (R108). -/
def stepAt (s : Shelf) (n : Nat) : Option StepEntry := decodeStep (recordAt s tSequence n)

/-- An in-use Guard entry (R151). -/
def guardAt (s : Shelf) (i : Nat) : Option GuardEntry := decodeGuard (recordAt s tGuard i)

/-- The first list position's entry of a downstream port's poll list (R140). -/
def pollBase : Port → Nat
  | .tp => 32
  | _ => 0

/-- The Roster entry of an in-use position of a port's poll list (R140). -/
def pollAt (s : Shelf) (p : Port) (i : Nat) : Option Nat :=
  decodePoll (recordAt s tPoll (pollBase p + i))

/-- The Roster entry that a position of a port's poll list holds, in use or not (R140, R155). -/
def positionRoster (s : Shelf) (p : Port) (i : Nat) : Nat :=
  field8 (recordAt s tPoll (pollBase p + i)) 1

/-- The PSMs in use, ascending. -/
def psmsInUse (s : Shelf) : List Nat :=
  (List.range Config.psmCount).filter fun i => (psmAt s i).isSome

/-- The BBMs in use, ascending. -/
def bbmsInUse (s : Shelf) : List Nat :=
  (List.range Config.bbmCount).filter fun k => (bbmAt s k).isSome

/-- The trays in use, ascending. -/
def traysInUse (s : Shelf) : List Nat :=
  (List.range Config.trayCount).filter fun t => (trayAt s t).isSome

/-- The Roster entries in use, ascending. -/
def rostersInUse (s : Shelf) : List Nat :=
  (List.range Config.rosterCount).filter fun r => (rosterAt s r).isSome

/-- The in-use Sample Map entry that feeds a signal (R13). -/
def feeding (s : Shelf) (n : Nat) : Option SampleEntry :=
  (List.range Config.signalCount).findSome? fun i =>
    match sampleAt s i with
    | some e => if e.signal = n then some e else none
    | none => none

/-- The trays of a zone: the in-use trays that name it (R122). -/
def zoneTrays (s : Shelf) (z : Nat) : List Nat :=
  (traysInUse s).filter fun t => (trayAt s t).any fun e => e.zone = some z

/-- The band of a signal is other than UNKNOWN. -/
def bandKnown (s : Shelf) (n : Nat) : Bool := (vget s.signals n).band ≠ .unknown

/-! ### Modules behind the entries -/

/-- A Roster entry is in use with this kind and kind index. -/
def rosterIs (s : Shelf) (r : Nat) (kind : ModuleKind) (index : Nat) : Bool :=
  (rosterAt s r).any fun e => e.kind = kind && e.index = index

/-- The presence an owner sees of the Roster entry it names: ABSENT where that entry is not in use
for it (R176). -/
def ownedPresence (s : Shelf) (r : Nat) (kind : ModuleKind) (index : Nat) : Presence :=
  if rosterIs s r kind index then (vget s.modules r).presence else .absent

/-- A module named by no in-use position of its port's list (R140). -/
def unlisted (s : Shelf) (r : Nat) : Bool :=
  match rosterAt s r with
  | none => false
  | some e => (List.range 32).all fun i => pollAt s e.port i ≠ some r

/-- The in-use Roster entries on a port, ascending. -/
def modulesOn (s : Shelf) (p : Port) : List Nat :=
  (rostersInUse s).filter fun r => (rosterAt s r).any fun e => e.port = p

/-! ### Lines -/

/-- A sense line's logical state is ACTIVE (R3). -/
def lineActive (s : Shelf) (l : Nat) : Bool :=
  (vget s.lines l).accepted = some (senseAt s l).active

/-- At least one sense line with role SHELF-STOP is active (R6). -/
def stopLineActive (s : Shelf) : Bool :=
  (List.range Config.senseCount).any fun l =>
    (senseAt s l).role = .shelfStop && lineActive s l

/-- A tray's TRAY-GOOD line: the line its entry names, when the Line table gives that line to this tray
(R2, R86). -/
def goodLineOf (s : Shelf) (t : Nat) : Option Nat :=
  match trayAt s t with
  | some { goodLine := some l, .. } =>
    if (senseAt s l).role = .trayGood ∧ (senseAt s l).index = t then some l else none
  | _ => none

/-! ### Zones -/

/-- An in-use zone is WET (R122, R123). -/
def zoneWet (s : Shelf) (z : Nat) : Bool :=
  (zoneAt s z).isSome && (vget s.zones z).state = .wet

/-- At least one zone is WET (R11). -/
def anyZoneWet (s : Shelf) : Bool := (List.range Config.zoneCount).any (zoneWet s)

/-! ### Batteries -/

/-- A battery is usable: in use and neither ABSENT nor FAULT (R62). -/
def usable (s : Shelf) (k : Nat) : Bool :=
  (bbmAt s k).isSome && (vget s.bbms k).state ≠ .absent && (vget s.bbms k).state ≠ .fault

/-- The usable batteries, ascending. -/
def usableBbms (s : Shelf) : List Nat := (List.range Config.bbmCount).filter (usable s)

/-- E_cap: the capacities of the usable batteries (R67). -/
def energyCapacity (s : Shelf) : Nat :=
  total (usableBbms s) fun k => ((bbmAt s k).map (·.capacity)).getD 0

/-- A battery's energy signal in joules, as kept (R15, R67). -/
def batteryEnergy (s : Shelf) (k : Nat) : Nat :=
  1000 * ((bbmAt s k).map fun e => (vget s.signals e.energy).value).getD 0

/-- The stored energy of the usable batteries (R67). -/
def storedEnergy (s : Shelf) : Nat := total (usableBbms s) (batteryEnergy s)

/-- B_max: the maximum discharge of the usable batteries (R71). -/
def maxDischarge (s : Shelf) : Nat :=
  total (usableBbms s) fun k => ((bbmAt s k).map (·.maxDischarge)).getD 0

/-- The charge allocation: the acknowledged rates of the in-use BBMs (R58). -/
def chargeAllocation (s : Shelf) : Nat :=
  total (bbmsInUse s) fun k => (vget s.bbms k).acknowledged

/-! ### Trays -/

/-- A tray's allocation plus inrush (R92, R94). -/
def trayNeed (s : Shelf) (t : Nat) : Nat :=
  ((trayAt s t).map fun e => e.allocation + e.inrush).getD 0

/-- A tray's allocation. -/
def trayAllocation (s : Shelf) (t : Nat) : Nat := ((trayAt s t).map (·.allocation)).getD 0

/-- The state of a tray. -/
def trayState (s : Shelf) (t : Nat) : TrayState := (vget s.bay.trays t).state

/-- The in-use trays in a state, ascending. -/
def traysIn (s : Shelf) (st : TrayState) : List Nat :=
  (traysInUse s).filter fun t => trayState s t = st

/-- The head need (R92). -/
def headNeed (s : Shelf) : Nat := ((s.bay.queue.head?).map (trayNeed s)).getD 0

/-- Adoption is complete: no in-use tray is UNKNOWN (R89). -/
def adoptionComplete (s : Shelf) : Bool := traysIn s .unknown = []

/-- The ON trays in ascending shed rank (R72, R73). -/
def onByRank (s : Shelf) : List Nat :=
  (List.range Config.trayCount).filterMap fun rank =>
    (traysIn s .on).find? fun t => (trayAt s t).any fun e => e.shedRank = rank

/-! ### Ride, program and protection -/

/-- The ride state is NORMAL. -/
def rideNormal (s : Shelf) : Bool := s.ride.state = .normal

/-- The return condition of R79 over the balance record. -/
def returnCondition (s : Shelf) : Bool :=
  s.balance.m + (policy s).returnMargin ≤ s.balance.sGrid

/-- The autostart condition (R120). -/
def autostartCondition (s : Shelf) : Bool :=
  adoptionComplete s && rideNormal s && !s.shelfStop && s.seq.state = .idle

/-- An entry is protected (R178). -/
def entryProtected (s : Shelf) (t i : Nat) : Bool :=
  if t = tPolicy ∨ t = tBbm ∨ t = tTrays then !rideNormal s
  else if t = tSequence then
    s.seq.state = .running || s.seq.state = .waiting || s.seq.state = .held
  else if t = tZones then (vget s.zones i).state ≠ .dry
  else false

/-- A range of entries is protected: any of them is (R178). -/
def rangeProtected (s : Shelf) (t first count : Nat) : Bool :=
  (List.range count).any fun i => entryProtected s t (first + i)

end Sys2Proof.Machine
end

