-- ==== Sys2Proof/Machine/Balance.lean ====
section
/-! DEFINITION. The Balance Unit: the seven stages (R29 to R36), the trial headroom (R38), the
recomputation (R27) and what it hands on (R37). -/

namespace Sys2Proof.Machine

/-! ### Stages -/

/-- Watts from mV and cA, rounded to the nearest (R29). -/
def wattsOf (mV cA : Nat) : Nat := (mV * cA + 50000) / 100000

/-- Stage 1: P_i and its HELD mark (R29, R30). -/
def stageOutput (s : Shelf) (i : Nat) : Nat × Bool :=
  match psmAt s i with
  | none => (0, false)
  | some e =>
    if (vget s.psms i).state = .absent then (0, false)
    else if bandKnown s e.voltage && bandKnown s e.current then
      (wattsOf (vget s.signals e.voltage).value (vget s.signals e.current).value, false)
    else (vget s.balance.p i, true)

/-- A BBM in use is DISCHARGING. -/
def discharging (s : Shelf) (k : Nat) : Bool :=
  (bbmAt s k).isSome && (vget s.bbms k).state = .discharging

/-- The discharge signal of a BBM in use has still not been known since an apply named it (R39; log entry
31). -/
def stillUnread (s : Shelf) (k : Nat) : Bool :=
  vget s.balance.bUnread k && (bbmAt s k).any fun e => !bandKnown s e.discharge

/-- Stage 2: B_k and its HELD mark (R31), held at 0 for a signal not known since an apply named it (R39). -/
def stageDischarge (s : Shelf) (k : Nat) : Nat × Bool :=
  match bbmAt s k with
  | none => (0, false)
  | some e =>
    if (vget s.bbms k).state ≠ .discharging then (0, false)
    else if bandKnown s e.discharge then ((vget s.signals e.discharge).value, false)
    else if stillUnread s k then (0, true)
    else if vget s.balance.bDischarging k then (vget s.balance.b k, true)
    else ((vget s.signals e.discharge).value, true)

/-- Stage 3: G_i from the state, the temperature band, the rating and the derate (R32). R32 has no row for OK with a
CRIT-HIGH temperature, which it says does not arise; it does where the temperature signal's Sample Map kind is one
whose band changes R20 does not give to the Module Monitor, such as POWER. DESIGN CHOICE: such a supply is derated, as
with HIGH (log entry 70). -/
def capacityOf (state : PsmState) (temperature : Band) (rated derate : Nat) : Nat :=
  match state with
  | .absent | .failed | .inputLost => 0
  | .ok =>
    match temperature with
    | .low | .normal => rated
    | .high | .critLow | .unknown | .critHigh => rated * derate / 100

/-- Stage 3: G_i (R32). -/
def stageCapacity (s : Shelf) (i : Nat) : Nat :=
  match psmAt s i with
  | none => 0
  | some e =>
    capacityOf (vget s.psms i).state (vget s.signals e.temperature).band e.rated e.derate

/-- Stage 4: the reserve Q for N+1 (R33). -/
def reserveOf (redundant : Bool) (g : List Nat) : Nat :=
  if redundant && 2 ≤ (g.filter fun x => 0 < x).length then g.foldl max 0 else 0

/-- Stage 5: one tray's commitment from its state and output-seen (R34). -/
def commitmentOf (state : TrayState) (seen : Seen) (allocation inrush : Nat) : Nat :=
  match state with
  | .starting => allocation + inrush
  | .on | .stopping | .shedding | .unknown => allocation
  | .off | .queued | .shed =>
    match seen with
    | .on => allocation
    | .off | .unknown => 0
  | .fault | .locked =>
    match seen with
    | .on | .unknown => allocation
    | .off => 0

/-- Stage 5: an in-use tray's commitment (R34). -/
def stageCommitment (s : Shelf) (t : Nat) : Nat :=
  match trayAt s t with
  | none => 0
  | some e =>
    commitmentOf (vget s.bay.trays t).state (vget s.bay.trays t).seen e.allocation e.inrush

/-- G_0 to G_5, with the PSM left out, if any, at 0 (R32, R38). -/
def capacities (s : Shelf) (without : Option Nat) : List Nat :=
  (List.range Config.psmCount).map fun i => if without = some i then 0 else stageCapacity s i

/-- Committed load of the trays, C without K (R34). -/
def trayCommitment (s : Shelf) : Nat := total (List.range Config.trayCount) (stageCommitment s)

/-- S_adm: the grid capacity less the reserve (R33). -/
def admissionCapacity (redundant : Bool) (g : List Nat) : Nat := g.sum - reserveOf redundant g

/-- The balance record of Stages 1 to 7 over the inputs as they stand (R27). -/
def balanceNow (s : Shelf) (causes : List Cause) : Balance :=
  let out := fun i => stageOutput s i
  let dis := fun k => stageDischarge s k
  let m := total (List.range Config.psmCount) (fun i => (out i).1) +
    total (List.range Config.bbmCount) (fun k => (dis k).1)
  let g := capacities s none
  let sGrid := g.sum
  let q := reserveOf (policy s).redundant g
  let sAdm := sGrid - q
  let k := chargeAllocation s
  let c := trayCommitment s + k
  let h : Int := (sAdm : Int) - c
  let d := m - sGrid
  { p := Vector.ofFn fun i => (out i).1
    pHeld := Vector.ofFn fun i => (out i).2
    b := Vector.ofFn fun i => (dis i).1
    bHeld := Vector.ofFn fun i => (dis i).2
    bDischarging := Vector.ofFn fun i => discharging s i
    bUnread := Vector.ofFn fun i => stillUnread s i
    m, g := Vector.ofFn fun i => stageCapacity s i
    sGrid, q, sAdm, k, c
    h0 := h + k
    h, d
    held := (List.range Config.psmCount).any (fun i => (out i).2) ||
      (List.range Config.bbmCount).any (fun i => (dis i).2)
    overcommit := h < 0
    deficit := (policy s).deficitThreshold < d
    causes
    time := s.shelfTime
    count := (s.balance.count + 1) % 65536 }

/-- The trial headroom without PSM j: Stages 3 to 6 with G_j taken as 0 (R38). -/
def trialHeadroom (s : Shelf) (j : Nat) : Int :=
  (admissionCapacity (policy s).redundant (capacities s (some j)) : Int) -
    (trayCommitment s + chargeAllocation s : Nat)

/-! ### Recomputation -/

/-- The OVERCOMMIT notice, when the new record sets the mark (R35). -/
def overcommitNotice (old new : Balance) (s : Shelf) : Shelf :=
  if new.overcommit && !old.overcommit then
    post srcBalance 0 ntOvercommit (sat16 (-new.h).toNat) (sat16 new.sAdm) s
  else s

/-- What follows for the Module Monitor and the Program Sequencer, after the Tray Controller's admission
evaluation, in the order the event gives (R37; log entry 3). The waiting step, whatever its kind, is tested once on
this hand-on. So an AWAIT-TRAYS step is tested again at the record of an apply that takes a QUEUED or STARTING tray of
its set out of use, and may complete in that event; R105 and R106 do not say whether that is a tray state change
handed to the sequencer. DESIGN CHOICE: it is tested (log entry 74). -/
def tellMonitorAndSequencer (h0Changed : Bool) (s : Shelf) : Shelf :=
  if s.ambient.chargeFirst then
    postpone .seqTest (if h0Changed then postpone .charge s else s)
  else
    let s := postpone .seqTest s
    if h0Changed then postpone .charge s else s

/-- The Ride-Through Controller's turn among the receivers of a record: the event's (R37; log entry 3), but not before
the Tray Controller while the sequencer is RUNNING. A walk is carried out whole and finds the ride state NORMAL (R110,
R111, R116), and no tray enters QUEUED in RIDE (R93), so a record that a walk's own steps give is taken after it
(DEDUCED: log entry 39). -/
def rideTurnOf (s : Shelf) : RideTurn :=
  if s.seq.state = .running ∧ s.ambient.rideTurn = .first then .afterTray else s.ambient.rideTurn

/-- A new record is handed on (R37), the Ride-Through Controller told at its turn (log entries 3 and 39). -/
def handOnBalance (old new : Balance) (s : Shelf) : Shelf :=
  let ride := Task.rideRecord new.deficit (new.causes.contains .psmLine)
    (new.m + (policy s).returnMargin ≤ new.sGrid) new.d
  let s := if old.h < new.h then admissionDue s else s
  match rideTurnOf s with
  | .first => tellMonitorAndSequencer (old.h0 ≠ new.h0) (emit ride s)
  | .afterTray =>
    tellMonitorAndSequencer (old.h0 ≠ new.h0) { s with deferred := s.deferred ++ [ride] }
  | .last =>
    let s := tellMonitorAndSequencer (old.h0 ≠ new.h0) s
    { s with deferred := s.deferred ++ [ride] }

/-- A recomputation: the record is replaced and handed on (R27). -/
def recompute (causes : List Cause) (s : Shelf) : Shelf :=
  let new := balanceNow s causes
  handOnBalance s.balance new
    (overcommitNotice s.balance new { s with balance := new, causes := [] })

/-- The Balance Unit takes the change handed to it, if any is left; within the side effects of an apply
it waits for their end (R27, R39). -/
def performBalance (s : Shelf) : Shelf :=
  if s.causes = [] ∨ s.applying.isSome then s else recompute s.causes s

end Sys2Proof.Machine
end

