-- ==== Sys2Proof/Machine/Numbers.lean ====
section
/-! DEFINITION. The numbers that states, kinds, bands, causes and reasons take in answers and notices: each
value's place, from 0, in the order in which its rule lists the values (R164). -/

namespace Sys2Proof.Machine

/-- Bands (R164). -/
def bandNumber : Band → Nat
  | .critLow => 0 | .low => 1 | .normal => 2 | .high => 3 | .critHigh => 4 | .unknown => 5

/-- Levels of a line, and UNSET (R3; log entry 25). -/
def levelNumber : Option Level → Nat
  | some .high => 0 | some .low => 1 | none => 2

/-- Latest edges: RISING, FALLING, NONE (R7). -/
def edgeNumber : Option Edge → Nat
  | some .rising => 0 | some .falling => 1 | none => 2

/-- Kinds of input change (R28). -/
def causeNumber : Cause → Nat
  | .psmState => 0 | .psmLine => 1 | .psmTemperature => 2 | .psmReading => 3 | .bbmState => 4
  | .bbmReading => 5 | .tray => 6 | .charge => 7 | .apply => 8 | .start => 9

/-- PSM states (R44). -/
def psmStateNumber : PsmState → Nat
  | .absent => 0 | .failed => 1 | .inputLost => 2 | .ok => 3

/-- PSM reasons (R48), START after them (log entry 25). -/
def psmReasonNumber : PsmReason → Nat
  | .presence => 0 | .fault => 1 | .output => 2 | .temperature => 3 | .voltage => 4 | .line => 5
  | .input => 6 | .report => 7 | .band => 8 | .apply => 9 | .start => 10

/-- BBM states (R50). -/
def bbmStateNumber : BbmState → Nat
  | .absent => 0 | .fault => 1 | .idle => 2 | .charging => 3 | .discharging => 4

/-- BBM fault causes (R50). -/
def bbmFaultNumber : BbmFault → Nat
  | .status => 0 | .noAnswer => 1 | .refused => 2

/-- BBM reasons (R54). -/
def bbmReasonNumber : BbmReason → Nat
  | .presence => 0 | .adopted => 1 | .status => 2 | .full => 3 | .orderOk => 4 | .refused => 5
  | .noAnswer => 6 | .apply => 7

/-- Ride states (R62). -/
def rideStateNumber : RideState → Nat
  | .normal => 0 | .ride => 1 | .depleted => 2 | .returning => 3

/-- Causes of a ride (R63). -/
def rideCauseNumber : RideCause → Nat
  | .line => 0 | .deficit => 1

/-- Tray states (R87). -/
def trayStateNumber : TrayState → Nat
  | .unknown => 0 | .off => 1 | .queued => 2 | .starting => 3 | .on => 4 | .stopping => 5
  | .shedding => 6 | .shed => 7 | .locked => 8 | .fault => 9

/-- Tray fault causes (R87). -/
def trayFaultNumber : TrayFault → Nat
  | .noAnswer => 0 | .refused => 1 | .noGood => 2 | .goodLost => 3 | .absent => 4

/-- Output-seen (R87). -/
def seenNumber : Seen → Nat
  | .on => 0 | .off => 1 | .unknown => 2

/-- Awaited orders (R87). -/
def awaitedNumber : Awaited → Nat
  | .nothing => 0 | .on => 1 | .off => 2

/-- Who queued a tray (R87). -/
def queuedByNumber : QueuedBy → Nat
  | .manager => 0 | .program => 1

/-- Sequencer states (R109). -/
def seqStateNumber : SeqState → Nat
  | .idle => 0 | .running => 1 | .waiting => 2 | .held => 3 | .halted => 4

/-- Origins of a run (R109). -/
def originNumber : Origin → Nat
  | .request => 0 | .autostart => 1

/-- Causes of a halt (R115). -/
def haltCauseNumber : HaltCause → Nat
  | .badStep => 0 | .loop => 1 | .abort => 2 | .shelfStop => 3

/-- Zone states (R123). -/
def zoneStateNumber : ZoneState → Nat
  | .dry => 0 | .suspect => 1 | .wet => 2

/-- Point states (R123). -/
def pointStateNumber : PointState → Nat
  | .dry => 0 | .wet => 1 | .unknown => 2

/-- Causes of a zone state change (R131). -/
def zoneCauseNumber : ZoneCause → Nat
  | .point => 0 | .dry => 1 | .count => 2 | .time => 3 | .clear => 4 | .table => 5

/-- Port states (R141): DISABLED 0, ENABLED 1. -/
def portStateNumber (enabled : Bool) : Nat := if enabled then 1 else 0

/-- Kinds of transaction (R143). -/
def txKindNumber : TxKind → Nat
  | .poll => 0 | .control => 1 | .command => 2

/-- Presence (R141). -/
def presenceNumber : Presence → Nat
  | .new => 0 | .present => 1 | .absent => 2

/-- Page states (R180). -/
def pageStateNumber : PageState → Nat
  | .erased => 0 | .written => 1 | .verified => 2 | .damaged => 3

/-- Kinds of reset (R188). -/
def resetKindNumber : ResetKind → Nat
  | .powerOn => 0 | .line => 1 | .restart => 2

/-- Timer states (R109): STOPPED, RUNNING, FROZEN. -/
def timerStateNumber : Timer → Nat
  | .stopped => 0 | .running _ => 1 | .frozen _ => 2

end Sys2Proof.Machine
end

