-- ==== Sys2Proof/Machine/Orders.lean ====
section
/-! DEFINITION. The part's own orders: the control queue of each downstream port (R147), and the placing
of an order to a tray (R90) or to a battery (R53). -/

namespace Sys2Proof.Machine

/-- How the outcome of a control order reaches its placer, if it still has one (R91, R53, R106). -/
def outcomeTasks (o : ControlOrder) (res : OrderOutcome) : List Task :=
  match o.target with
  | .tray t => [.trayOutcome t o.code res]
  | .bbm k => [.bbmOutcome k o.code o.argument res]
  | .gone => []

/-- The port of a control order's module: trays are on TP, batteries on SP (R139). -/
def targetPort : Target → Port
  | .tray _ => .tp
  | .bbm _ => .sp
  | .gone => .tp

/-- A control queue with an order placed: in the place of the module's queued order, or at the tail
(R147). -/
def queueOrder (o : ControlOrder) (q : List ControlOrder) : List ControlOrder :=
  if q.any fun x => x.roster = o.roster then q.map fun x => if x.roster = o.roster then o else x
  else q ++ [o]

/-- Place a control order: PORT-OFF at once on a DISABLED port (R147). -/
def placeControl (o : ControlOrder) (s : Shelf) : Shelf :=
  let p := targetPort o.target
  if (engine s p).enabled then
    let pe := pollEngine s p
    setPoll p { pe with control := queueOrder o pe.control } s
  else emitAll (outcomeTasks o .portOff) s

/-- The control order for a Roster entry, when that entry is in use for the target's kind and index. -/
def orderFor (s : Shelf) (roster : Nat) (target : Target) (code : Byte) (argument : Nat) :
    Option ControlOrder :=
  let mine := match target with
    | .tray t => rosterIs s roster .tray t
    | .bbm k => rosterIs s roster .bbm k
    | .gone => false
  match rosterAt s roster with
  | some e =>
    if mine then
      some { roster, address := BitVec.ofNat 8 e.address, code, argument, target }
    else none
  | none => none

/-- Order a module; an entry with no module of its kind behind it is told PORT-OFF (log entry 22). -/
def orderModule (roster : Nat) (target : Target) (code : Byte) (argument : Nat) (s : Shelf) : Shelf :=
  match orderFor s roster target code argument with
  | some o => placeControl o s
  | none =>
    emitAll (outcomeTasks { roster, address := 0, code, argument, target } .portOff) s

/-- An order with this code to this target is queued. -/
def isQueued (s : Shelf) (target : Target) (code : Byte) : Bool :=
  (pollEngine s (targetPort target)).control.any fun o => o.target = target && o.code = code

/-- An order with this code to this target is in flight: it is the order in progress (R147). -/
def isInFlight (s : Shelf) (target : Target) (code : Byte) : Bool :=
  (pollEngine s (targetPort target)).inProgress.any fun x =>
    x.order.target = target && x.order.code = code

/-- An order with this code to this target is queued or in flight. -/
def isPlaced (s : Shelf) (target : Target) (code : Byte) : Bool :=
  isQueued s target code || isInFlight s target code

/-- An order whose tray has been taken out of use, or moved to another Roster entry (R106). -/
def forgetOrder (t : Nat) (o : ControlOrder) : ControlOrder :=
  if o.target = .tray t then { o with target := .gone } else o

/-- The outcomes of a tray's orders will be discarded (R106). An order still queued stays queued and is sent (R106
speaks of the one in flight alone), and none of these orders is counted any more where R90 asks for an OUTPUT-OFF
queued or in flight (`placeOff`; log entry 55). -/
def forgetOrders (t : Nat) (s : Shelf) : Shelf :=
  let pe := s.pollTp
  { s with
    pollTp := { pe with
      control := pe.control.map (forgetOrder t)
      inProgress := pe.inProgress.map fun x => { x with order := forgetOrder t x.order } } }

/-! ### Trays (R90) -/

/-- Order OUTPUT-ON (R90). -/
def placeOn (t : Nat) (s : Shelf) : Shelf :=
  match trayAt s t with
  | some e => orderModule e.roster (.tray t) codeOutputOn 0 s
  | none => s

/-- Order OUTPUT-OFF, unless one is queued, or is in flight with no OUTPUT-ON queued behind it (R90; log
entry 17). One placed before an apply renewed the tray's record does not count (`forgetOrders`; log entry 55). -/
def placeOff (t : Nat) (s : Shelf) : Shelf :=
  match trayAt s t with
  | some e =>
    if isQueued s (.tray t) codeOutputOff ||
        (isInFlight s (.tray t) codeOutputOff && !isQueued s (.tray t) codeOutputOn) then s
    else orderModule e.roster (.tray t) codeOutputOff 0 s
  | none => s

/-! ### Batteries (R53, R57, R64, R75) -/

/-- Order a battery. -/
def placeBbm (k : Nat) (code : Byte) (argument : Nat) (s : Shelf) : Shelf :=
  match bbmAt s k with
  | some e => orderModule e.roster (.bbm k) code argument s
  | none => s

/-- Order a battery, unless an order with that code is queued or in flight (R55, R64, R66). -/
def placeBbmOnce (k : Nat) (code : Byte) (s : Shelf) : Shelf :=
  if isPlaced s (.bbm k) code then s else placeBbm k code 0 s

/-- Order DISCHARGE to every usable battery in IDLE or CHARGING (R64), in ascending index (log entry 60). -/
def dischargeBatteries (s : Shelf) : Shelf :=
  (usableBbms s).foldl
    (fun s k =>
      if (vget s.bbms k).state = .idle ∨ (vget s.bbms k).state = .charging then
        placeBbmOnce k codeDischarge s
      else s) s

/-- Order HOLD to every battery in DISCHARGING and to every battery to which a DISCHARGE is queued or in
flight (R75, R80), in ascending index (log entry 60). -/
def holdBatteries (s : Shelf) : Shelf :=
  (bbmsInUse s).foldl
    (fun s k =>
      if (vget s.bbms k).state = .discharging ∨ isPlaced s (.bbm k) codeDischarge then
        placeBbm k codeHold 0 s
      else s) s

end Sys2Proof.Machine
end

