-- ==== Sys2Proof/Machine/Trays.lean ====
section
/-! DEFINITION. The Tray Controller: tray records, the start queue and the restore stack that follow tray
states (R76, R92), every transition of a tray (R87 to R105), admission (R93, R94), and the rack
manager's orders to trays (R102, R103). -/

namespace Sys2Proof.Machine

/-! ### Records, queue and stack -/

/-- A tray in this state stands on the restore stack (R76). -/
def onStack (st : TrayState) : Bool := st = .shedding || st = .shed

/-- A tray takes a state: it joins or leaves the start queue (R92) and the restore stack (R76) with it. -/
def moveTray (t : Nat) (new : TrayState) (f : Tray → Tray) (b : Bay) : Bay :=
  if t < Config.trayCount then
    { trays := vset b.trays t { f (vget b.trays t) with state := new }
      queue :=
        if new = .queued then (if t ∈ b.queue then b.queue else b.queue ++ [t])
        else b.queue.filter fun x => x ≠ t
      stack :=
        if onStack new then (if t ∈ b.stack then b.stack else t :: b.stack)
        else b.stack.filter fun x => x ≠ t }
  else b

/-- A tray's run-time fields change, and not its state. -/
def editTray (t : Nat) (f : Tray → Tray) (s : Shelf) : Shelf :=
  { s with
    bay := { s.bay with
      trays := vmod s.bay.trays t fun r => { f r with state := r.state } } }

/-- The second data word of TRAY-STATE (R105). -/
def trayNoticeWord (s : Shelf) (t : Nat) (new : TrayState) : Nat :=
  match new with
  | .fault => (((vget s.bay.trays t).fault).map trayFaultNumber).getD 255
  | .locked => ((((trayAt s t).map (·.zone)).getD none)).getD 255
  | _ => ((trayAt s t).map (·.shedRank)).getD 0

/-- TRAY-STATE, at each entry to FAULT, LOCKED or SHED (R105). -/
def trayNotice (t : Nat) (old new : TrayState) (s : Shelf) : Shelf :=
  if new = .fault ∨ new = .locked ∨ new = .shed then
    post srcTray t ntTrayState (twoItems (trayStateNumber old) (trayStateNumber new))
      (trayNoticeWord s t new) s
  else s

/-- What follows from a changed start queue or restore stack, from a tray that left STARTING, entered
QUEUED or became SHED, and from adoption becoming complete (R92, R93, R120). Where the change that completes adoption
also gives a new H0, no rule says whether the test of a pending autostart, with the walk of its run, or the charge
evaluation is first. DESIGN CHOICE: both come after the admission evaluation, and the autostart first, whatever
`chargeFirst` gives (log entry 72). -/
def afterTray (before : Shelf) (old new : TrayState) (s : Shelf) : Shelf :=
  let s :=
    if before.bay.queue.head? ≠ s.bay.queue.head? then admissionDue (postpone .charge s) else s
  let s := if before.bay.stack ≠ s.bay.stack then admissionDue (emit .stackChanged s) else s
  let s :=
    if new = .queued ∨ new = .shed ∨ (old = .starting ∧ new ≠ .starting) then admissionDue s else s
  if !adoptionComplete before && adoptionComplete s then
    admissionDue (postpone .autostartTest s)
  else s

/-- A tray state change (R105): the record, the lists, the notice, and what the change is handed to. `f`
sets the run-time fields that the transition sets. -/
def trayTo (t : Nat) (new : TrayState) (f : Tray → Tray) (s : Shelf) : Shelf :=
  let old := trayState s t
  let set := fun r =>
    let r := f r
    { r with
      stateTime := s.shelfTime
      fault := if new = .fault then r.fault else none
      queuedBy := if new = .queued then r.queuedBy else none }
  let moved := { s with bay := moveTray t new set s.bay }
  afterTray s old new (changed [.tray] (trayNotice t old new moved))

/-! ### Transitions -/

/-- Entry to FAULT (R96): from STARTING or ON the tray is ordered off unless its output was seen off. -/
def faultTray (t : Nat) (cause : TrayFault) (s : Shelf) : Shelf :=
  let r := vget s.bay.trays t
  let faulted := trayTo t .fault
    (fun r => { r with fault := some cause, awaited := .nothing, startTimer := .stopped }) s
  if (r.state = .starting ∨ r.state = .on) ∧ r.seen ≠ .off then placeOff t faulted else faulted

/-- A good indication completes a start (R95). -/
def trayGood (t : Nat) (goodTime : Time) (s : Shelf) : Shelf :=
  trayTo t .on
    (fun r => { r with
      startTimer := .stopped, awaited := .nothing
      duration := forwardInterval r.enableTime goodTime }) s

/-- A stop request (R97), and the shelf stop of a tray in SHEDDING (R104): the tray goes to STOPPING. -/
def stopTray (t : Nat) (s : Shelf) : Shelf :=
  let stopped := fun s =>
    trayTo t .stopping (fun r => { r with awaited := .off, startTimer := .stopped }) s
  match trayState s t with
  | .starting | .on => placeOff t (stopped s)
  | .shedding => stopped s
  | _ => s

/-- A QUEUED tray is withdrawn (R103, R104, R118). -/
def withdrawTray (t : Nat) (s : Shelf) : Shelf :=
  if trayState s t = .queued then trayTo t .off id s else s

/-- A push on the restore stack adds 1 to the shed count of the open summary (R74). -/
def countShed (s : Shelf) : Shelf :=
  { s with
    ride := { s.ride with
      openSummary := s.ride.openSummary.map fun x => { x with shedCount := satInc x.shedCount } } }

/-- An ON tray is shed, or a STARTING one is stopped at an entry to RIDE (R98). -/
def shedTray (t : Nat) (s : Shelf) : Shelf :=
  if trayState s t = .on ∨ trayState s t = .starting then
    placeOff t (trayTo t .shedding (fun r => { r with awaited := .off, startTimer := .stopped })
      (countShed s))
  else s

/-- The lock of R100 without its order. -/
def lockTrayOnly (t : Nat) (s : Shelf) : Shelf :=
  if trayState s t = .locked then s
  else trayTo t .locked (fun r => { r with awaited := .nothing, startTimer := .stopped }) s

/-- A tray's zone is WET: the tray is locked, and ordered off unless its output was seen off (R100). -/
def lockTray (t : Nat) (s : Shelf) : Shelf :=
  if trayState s t = .locked then s
  else if (vget s.bay.trays t).seen = .off then lockTrayOnly t s
  else placeOff t (lockTrayOnly t s)

/-- A LOCKED tray is released, and sent no order (R100, R130). -/
def releaseTray (t : Nat) (s : Shelf) : Shelf :=
  if trayState s t = .locked then trayTo t .off id s else s

/-- CLEAR-TRAY of a tray in FAULT (R101). -/
def clearTray (t : Nat) (s : Shelf) : Shelf :=
  placeOff t (trayTo t .off (fun r => { r with awaited := .nothing }) s)

/-- An admission request takes an OFF tray to QUEUED (R92). -/
def requestAdmission (t : Nat) (by_ : QueuedBy) (s : Shelf) : Shelf :=
  if (trayAt s t).isSome ∧ trayState s t = .off then
    trayTo t .queued (fun r => { r with queuedBy := some by_ }) s
  else s

/-- The shelf stop reaches a tray (R104). -/
def shelfStopTray (t : Nat) (s : Shelf) : Shelf :=
  match trayState s t with
  | .starting | .on | .shedding => stopTray t s
  | .queued => withdrawTray t s
  | .shed => trayTo t .off id s
  | _ => s

/-! ### Reports, lines and absence -/

/-- The bits of a status word that the Tray Controller reads (R163): OUTPUT-ON, and POWER-GOOD below. R163 says that
bit 2, FAULT, is read for a tray too, but no rule of the trays gives it an effect, and it has none here (log
entry 68). -/
def bitOutputOn (word : Nat) : Bool := word.testBit 4
/-- POWER-GOOD (R163). -/
def bitPowerGood (word : Nat) : Bool := word.testBit 5

/-- Output-seen takes a value; a change is handed to the Balance Unit (R88). -/
def setSeen (t : Nat) (seen : Seen) (s : Shelf) : Shelf :=
  if (vget s.bay.trays t).seen = seen then s
  else changed [.tray] (editTray t (fun r => { r with seen }) s)

/-- A tray adopted ON is shed in DEPLETED, or stopped while the shelf stop condition is active (R89), as a
change of its own after the report's (R27 does not say which; log entries 41 and 48). -/
def adoptedOn (t : Nat) (s : Shelf) : Shelf :=
  if s.shelfStop then emit (.shelfStopTray t) s
  else if s.ride.state = .depleted then emit (.shed t) s
  else s

/-- A status word of a tray's report (R88, R89, R95, R96, R97). -/
def trayStatus (t word : Nat) (sampleTime : Time) (s : Shelf) : Shelf :=
  let s := setSeen t (if bitOutputOn word then .on else .off) s
  let r := vget s.bay.trays t
  match r.state with
  | .unknown =>
    if bitOutputOn word && bitPowerGood word then adoptedOn t (trayTo t .on id s)
    else trayTo t .off id s
  | .starting =>
    if bitPowerGood word && isRunning r.startTimer then trayGood t sampleTime s else s
  | .on => if bitPowerGood word then s else faultTray t .goodLost s
  | _ => s

/-- An edge of a tray's TRAY-GOOD line (R95, R96). -/
def trayLineEdge (t : Nat) (rising : Bool) (edgeTime : Time) (s : Shelf) : Shelf :=
  let r := vget s.bay.trays t
  match r.state with
  | .starting => if rising && isRunning r.startTimer then trayGood t edgeTime s else s
  | .on => if rising then s else faultTray t .goodLost s
  | _ => s

/-- The absence of a tray's Roster module (R88, R96). -/
def trayAbsent (t : Nat) (s : Shelf) : Shelf :=
  let s := setSeen t .unknown s
  match trayState s t with
  | .unknown => trayTo t .off id s
  | .queued => withdrawTray t s
  | .starting | .on => faultTray t .absent s
  | _ => s

/-! ### Outcomes of orders -/

/-- The OUTPUT-ON of a STARTING tray is acknowledged OK (R95). -/
def startAcknowledged (t : Nat) (s : Shelf) : Shelf :=
  let now := s.shelfTime
  let timeout := ((trayAt s t).map (·.startTimeout)).getD 0
  let s := editTray t
    (fun r => { r with
      awaited := .nothing, enableTime := now, startTimer := .running (now + msTime timeout) }) s
  if (goodLineOf s t).any (lineActive s) then trayGood t now s else s

/-- The order a code names, as awaited (R90). -/
def awaitedOf (code : Byte) : Awaited :=
  if code = codeOutputOn then .on else if code = codeOutputOff then .off else .nothing

/-- The fault that a failed outcome gives (R91). -/
def outcomeFault : OrderOutcome → TrayFault
  | .ack _ => .refused
  | .noAnswer => .noAnswer
  | .portOff => .absent

/-- The outcome of a tray's order, acted on when its kind is the awaited one (R90, R91). -/
def trayOutcome (t : Nat) (code : Byte) (o : OrderOutcome) (s : Shelf) : Shelf :=
  let r := vget s.bay.trays t
  if (trayAt s t).isNone ∨ r.awaited = .nothing ∨ r.awaited ≠ awaitedOf code then s
  else
    match r.state with
    | .starting =>
      if o = .ack ackOk then startAcknowledged t s else faultTray t (outcomeFault o) s
    | .stopping =>
      if o = .ack ackOk then trayTo t .off (fun r => { r with awaited := .nothing }) s
      else faultTray t (outcomeFault o) s
    | .shedding =>
      if o = .ack ackOk then trayTo t .shed (fun r => { r with awaited := .nothing }) s
      else faultTray t (outcomeFault o) s
    | _ => s

/-! ### Admission (R93, R94) -/

/-- The candidate of an admission evaluation (R93). -/
def candidate (s : Shelf) : Option Nat :=
  if s.shelfStop || !adoptionComplete s then none
  else
    match s.ride.state with
    | .normal => s.bay.queue.head?
    | .returning => s.bay.stack.head?
    | .ride | .depleted => none

/-- A candidate may be admitted: QUEUED or SHED, with room in the start window and headroom for its
need (R94, R78). -/
def admissible (s : Shelf) (t : Nat) : Bool :=
  (trayState s t = .queued || trayState s t = .shed) &&
    (traysIn s .starting).length < (policy s).startWindow &&
    (trayNeed s t : Int) ≤ s.balance.h

/-- Admission of a tray (R94). -/
def admitTray (t : Nat) (s : Shelf) : Shelf :=
  placeOn t (trayTo t .starting (fun r => { r with awaited := .on, startTimer := .stopped }) s)

/-- One try of an admission evaluation: a candidate is admitted and another try follows, or the evaluation
ends (R94). -/
def admissionTry (s : Shelf) : Shelf :=
  match candidate s with
  | some t =>
    if admissible s t then admissionDue (admitTray t s) else { s with admitDue := false }
  | none => { s with admitDue := false }

/-! ### The rack manager's orders (R102, R103) -/

/-- What an OUTPUT-ON is answered, by the first test of R102 that holds, for an in-use tray. -/
def outputOnAnswer (s : Shelf) (t : Nat) : Byte :=
  match trayState s t with
  | .locked => ackLocked
  | .fault => ackFault
  | st =>
    if s.shelfStop then ackDenied
    else
      match st with
      | .unknown | .stopping => ackBusy
      | .queued | .starting | .on => ackOk
      | .shedding | .shed => ackRide
      | _ => if rideNormal s then ackQueued else ackRide

/-- An intercepted OUTPUT-ON for a tray's address (R102), for the Trays entry of its kind index (log entry 61). -/
def interceptOn (address : Byte) (t : Nat) (s : Shelf) : Shelf :=
  match trayAt s t with
  | none => answerOrder address codeOutputOn ackNoModule s
  | some _ =>
    let status := outputOnAnswer s t
    let s := answerOrder address codeOutputOn status s
    if status = ackQueued then requestAdmission t .manager s else s

/-- An intercepted OUTPUT-OFF for a tray's address (R103), for the Trays entry of its kind index (log entry 61). -/
def interceptOff (address : Byte) (t : Nat) (s : Shelf) : Shelf :=
  match trayAt s t with
  | none => answerOrder address codeOutputOff ackNoModule s
  | some _ =>
    let s := answerOrder address codeOutputOff ackOk s
    match trayState s t with
    | .queued => withdrawTray t s
    | .starting | .on | .shedding => stopTray t s
    | .shed => trayTo t .off id s
    | _ => s

end Sys2Proof.Machine
end

