-- ==== Sys2Proof/Machine/Guard.lean ====
section
/-! DEFINITION. The Guard: the decision of each ORDER of the rack manager (R150, R151) and the relaying of
an order (R148). -/

namespace Sys2Proof.Machine

/-- The in-use Roster entry with a module address, and its number (R150). -/
def moduleAt (s : Shelf) (address : Nat) : Option (Nat × RosterEntry) :=
  (List.range Config.rosterCount).findSome? fun r =>
    match rosterAt s r with
    | some e => if e.address = address then some (r, e) else none
    | none => none

/-- A relayed order goes to its port's command queue, or is refused (R148). -/
def relayOrder (r : Nat) (p : Port) (address code : Byte) (argument : Nat) (s : Shelf) : Shelf :=
  let pe := pollEngine s p
  if !(engine s p).enabled then answerOrder address code ackPortOff s
  else if Config.commandDepth ≤ pe.command.length then answerOrder address code ackBusy s
  else setPoll p { pe with command := pe.command ++ [⟨r, address, code, argument⟩] } s

/-- The action of the in-use Guard entry with a code and a kind (R150, R151). -/
def guardAction (s : Shelf) (code : Byte) (kind : ModuleKind) : Option GuardAction :=
  (List.range 32).findSome? fun i =>
    match guardAt s i with
    | some e => if e.code = code ∧ e.kind = kind then some e.action else none
    | none => none

/-- The PSM whose parameters entry names a Roster entry (R151). -/
def psmOf (s : Shelf) (r : Nat) : Option Nat :=
  (List.range Config.psmCount).find? fun j => (psmAt s j).any fun e => e.roster = r

/-- SUPPLY-CHECK refuses an order for this Roster entry (R151). -/
def supplyShort (s : Shelf) (r : Nat) : Bool :=
  match psmOf s r with
  | some j => 0 < vget s.balance.g j && trialHeadroom s j < 0
  | none => false

/-- What a Guard action decides: a status to answer, or none to relay (R151). -/
def guardAnswer (s : Shelf) (r : Nat) (action : GuardAction) : Option Byte :=
  match action with
  | .pass => none
  | .supplyCheck => if supplyShort s r then some ackShort else none
  | .rideBlock => if rideNormal s then none else some ackRide
  | .deny => some ackDenied

/-- An order for a module passes the Guard table (R150, R151). -/
def guardTable (r : Nat) (e : RosterEntry) (address code : Byte) (argument : Nat) (s : Shelf) :
    Shelf :=
  match (guardAction s code e.kind).bind (guardAnswer s r) with
  | some status => answerOrder address code status s
  | none => relayOrder r e.port address code argument s

/-- The Guard decides an ORDER to an address of 1 to 62 (R150). An OUTPUT-ON or OUTPUT-OFF to a tray's address is for
the Trays entry of the Roster entry's kind index, whatever Roster entry that Trays entry names (log entry 61). -/
def decideOrder (address code : Byte) (argument : Nat) (s : Shelf) : Shelf :=
  match moduleAt s address.toNat with
  | none => answerOrder address code ackNoModule s
  | some (r, e) =>
    if e.kind = .tray ∧ code = codeOutputOn then interceptOn address e.index s
    else if e.kind = .tray ∧ code = codeOutputOff then interceptOff address e.index s
    else if e.kind = .bbm ∧ (code = codeDischarge ∨ code = codeHold ∨ code = codeCharge) then
      answerOrder address code ackDenied s
    else guardTable r e address code argument s

end Sys2Proof.Machine
end

