-- ==== Sys2Proof/Machine/Ride.lean ====
section
/-! DEFINITION. The drive lines (R11, R12) and the Ride-Through Controller: ride states and what their
changes hand on (R62 to R66, R75 to R82), the energy account (R67 to R70), projection and shedding (R71
to R74), summaries and notices (R83, R85). -/

namespace Sys2Proof.Machine

/-! ### Drive lines -/

/-- The other physical level. -/
def otherLevel : Level → Level
  | .high => .low
  | .low => .high

/-- The condition under which a drive line is at its active level (R11). -/
def driveActive (s : Shelf) (e : DriveEntry) : Bool :=
  match e.role with
  | .unused => false
  | .valve => zoneWet s e.index
  | .leakAlarm => anyZoneWet s
  | .rideActive => !rideNormal s

/-- The level a drive line is driven to (R11). -/
def driveLevel (s : Shelf) (d : Nat) : Level :=
  let e := driveAt s d
  if driveActive s e then e.active else otherLevel e.active

/-- Every drive line at the level its entry calls for under the zone and ride states of the moment. -/
def setDrives (s : Shelf) : Shelf := { s with drives := Vector.ofFn fun d => driveLevel s d }

/-! ### The energy account -/

/-- Change the Ride-Through Controller's fields; a change of E_rem or E_cap is handed to the Program
Sequencer (R113). -/
def setRide (f : Ride → Ride) (s : Shelf) : Shelf :=
  let ride := f s.ride
  let told := { s with ride }
  if ride.eRem ≠ s.ride.eRem ∨ ride.eCap ≠ s.ride.eCap then postpone .seqTest told else told

/-- Re-anchoring (R67). -/
def reanchor (s : Shelf) : Shelf :=
  let e := storedEnergy s
  setRide (fun r => { r with eRem := min r.eCap e, r := 0 }) s

/-- An update of a battery's energy signal re-anchors E_rem in NORMAL (R67). -/
def energyUpdate (s : Shelf) : Shelf := if rideNormal s then reanchor s else s

/-- E_cap is recomputed and E_rem clamped to it; in NORMAL E_rem is re-anchored (R67, R70). -/
def recomputeCapacity (s : Shelf) : Shelf :=
  let cap := energyCapacity s
  energyUpdate (setRide (fun r => { r with eCap := cap, eRem := min r.eRem cap }) s)

/-- The account without a lost battery's share (R69). -/
def lossOf (k : Nat) (r : Ride) : Ride :=
  let a := min (vget r.shares k) r.eAnchor
  { r with
    eRem := if r.eAnchor = 0 then r.eRem else r.eRem - a * r.eRem / r.eAnchor
    eAnchor := r.eAnchor - a
    shares := vset r.shares k 0 }

/-- The loss of a battery in RIDE, DEPLETED or RETURNING (R69). -/
def batteryLost (k : Nat) (s : Shelf) : Shelf := if rideNormal s then s else setRide (lossOf k) s

/-- The orders that follow a battery's entry to a state during a ride (R66). -/
def rideOrders (k : Nat) (s : Shelf) : Shelf :=
  match s.ride.state, (vget s.bbms k).state with
  | .ride, .idle | .ride, .charging => placeBbmOnce k codeDischarge s
  | .depleted, .discharging | .returning, .discharging => placeBbmOnce k codeHold s
  | _, _ => s

/-- Out of the usable states: ABSENT or FAULT (R62). -/
def unusableState (st : BbmState) : Bool := st = .absent || st = .fault

/-- A BBM state change is handed to the Ride-Through Controller (R54, R66, R67, R69). -/
def rideBattery (k : Nat) (old new : BbmState) (s : Shelf) : Shelf :=
  let s := if !unusableState old && unusableState new then batteryLost k s else s
  let s := if unusableState old || unusableState new then recomputeCapacity s else s
  rideOrders k s

/-! ### Ride states -/

/-- The part drops a pending restart (R170). -/
def dropRestart (s : Shelf) : Shelf :=
  let clear := fun (f : TxFrame) => { f with restartDone := false }
  { s with
    restart := none
    replies := s.replies.map clear
    replyWait := s.replyWait.map clear
    engUp := { s.engUp with buffer := s.engUp.buffer.map clear, shifter := s.engUp.shifter.map clear } }

/-- A RUNNING timer becomes FROZEN with the time remaining (R116). -/
def freeze (now : Time) : Timer → Timer
  | .running expiry => .frozen (expiry - now)
  | t => t

/-- A FROZEN timer becomes RUNNING with the time remaining (R116). -/
def thaw (now : Time) : Timer → Timer
  | .frozen left => .running (now + left)
  | t => t

/-- The ride state leaves NORMAL: a WAITING sequencer becomes HELD (R116). -/
def holdSequencer (s : Shelf) : Shelf :=
  if s.seq.state = .waiting then
    { s with
      seq := { s.seq with
        state := .held
        stepTimer := freeze s.shelfTime s.seq.stepTimer
        delayTimer := freeze s.shelfTime s.seq.delayTimer } }
  else s

/-- The ride state leaves NORMAL (R59, R65, R116, R170). -/
def leaveNormal (s : Shelf) : Shelf :=
  emit .chargeZero (holdSequencer (dropRestart s))

/-- The ride state becomes NORMAL: after the admission evaluation the Module Monitor and the Program
Sequencer act (R65), in the order the event gives where the sequencer resumes (R116; log entry 3). A pending
autostart is tested (R120) after both of them, whatever order the event gives (log entry 67). All of them stand behind
a record of the same event that already waits for the Ride-Through Controller (DESIGN CHOICE: log entry 75). -/
def reachNormal (s : Shelf) : Shelf :=
  let s :=
    if s.ambient.chargeFirst then postpone .seqResume (postpone .charge s)
    else postpone .charge (postpone .seqResume s)
  postpone .autostartTest s

/-- A change of the ride state (R65). -/
def rideTo (new : RideState) (f : Ride → Ride) (s : Shelf) : Shelf :=
  let old := s.ride.state
  let s := setDrives (setRide (fun r => { f r with state := new }) s)
  let s := if old = .normal ∧ new ≠ .normal then leaveNormal s else s
  let s := if old ≠ .normal ∧ new = .normal then reachNormal s else s
  admissionDue s

/-- A new summary (R64). -/
def newSummary (entry : Time) (cause : RideCause) (anchor : Nat) : Summary :=
  { entry, cause, anchor, returnTime := none, normalTime := none, used := none, shedCount := 0,
    returns := 0, smallestT := 65535, depleted := false }

/-- Change the open summary. -/
def editSummary (f : Summary → Summary) (r : Ride) : Ride :=
  { r with openSummary := r.openSummary.map f }

/-- Every tray in STARTING is stopped, in ascending index (R64, R81). -/
def shedStarting (s : Shelf) : Shelf := emitAll ((traysIn s .starting).map Task.shed) s

/-- Entry to RIDE from NORMAL, for a record with D (R63, R64). -/
def enterRide (line : Bool) (d : Nat) (s : Shelf) : Shelf :=
  let cause := if line then RideCause.line else .deficit
  let share := fun k => if usable s k then batteryEnergy s k else 0
  let now := s.shelfTime
  let s := emit (.postRideEnter d) (shedStarting (dischargeBatteries s))
  rideTo .ride
    (fun r => { r with
      eAnchor := r.eRem
      shares := Vector.ofFn fun k => share k
      tick := some (now + BitVec.ofNat 32 Config.tickPeriod)
      qualify := none
      openSummary := some (newSummary now cause r.eRem) }) s

/-- A second loss: entry to RIDE from RETURNING (R81). -/
def secondLoss (d : Nat) (s : Shelf) : Shelf :=
  let now := s.shelfTime
  let s := emit (.postRideEnter d) (shedStarting (dischargeBatteries s))
  rideTo .ride
    (fun r => editSummary (fun x => { x with returns := satInc x.returns })
      { r with tick := some (now + BitVec.ofNat 32 Config.tickPeriod) }) s

/-- RIDE-ENTER (R85). -/
def postRideEnter (d : Nat) (s : Shelf) : Shelf :=
  let cause := (s.ride.openSummary.map fun x => rideCauseNumber x.cause).getD 0
  let returns := (s.ride.openSummary.map (·.returns)).getD 0
  post srcRide 0 ntRideEnter (twoItems cause (min returns 255)) (sat16 d) s

/-- RIDE-DEPLETED (R85). -/
def postDepleted (trays : Nat) (s : Shelf) : Shelf :=
  post srcRide 0 ntRideDepleted trays ((s.ride.openSummary.map (·.shedCount)).getD 0) s

/-- Entry to DEPLETED (R75). -/
def enterDepleted (s : Shelf) : Shelf :=
  let on := onByRank s
  let s := emit (.postDepleted on.length) (emitAll (on.map Task.shed) (holdBatteries s))
  rideTo .depleted
    (fun r => editSummary (fun x => { x with depleted := true }) { r with tick := none }) s

/-- Entry to NORMAL (R82). -/
def enterNormal (s : Shelf) : Shelf :=
  let now := s.shelfTime
  let used := s.ride.eAnchor - s.ride.eRem
  let shedCount := (s.ride.openSummary.map (·.shedCount)).getD 0
  let stored := storedEnergy s
  let s := rideTo .normal
    (fun r => { r with
      closedSummary := r.openSummary.map fun x =>
        { x with normalTime := some now, used := some used }
      openSummary := none
      eRem := min r.eCap stored, r := 0
      eAnchor := 0, shares := Vector.replicate 6 0
      qualify := none, tick := none }) s
  post srcRide 0 ntRideNormal shedCount (sat16 (used / 1000)) s

/-- A change of the restore stack is tested in RETURNING (R76, R82). -/
def stackChanged (s : Shelf) : Shelf :=
  if s.ride.state = .returning ∧ s.bay.stack = [] then enterNormal s else s

/-- Entry to RETURNING (R80). -/
def enterReturning (s : Shelf) : Shelf :=
  let now := s.shelfTime
  let s := rideTo .returning
    (fun r => editSummary (fun x => { x with returnTime := some now })
      { r with tick := none, qualify := none }) (holdBatteries s)
  emit .stackChanged
    (post srcRide 0 ntRideReturn s.bay.stack.length (sat16 (s.balance.sGrid - s.balance.m)) s)

/-- The qualify timer in RIDE and DEPLETED (R79). -/
def qualifyStep (returnOk : Bool) (s : Shelf) : Shelf :=
  { s with
    ride := { s.ride with
      qualify :=
        if returnOk then (if s.ride.qualify.isSome then s.ride.qualify else some s.shelfTime)
        else none } }

/-- A record is handed to the Ride-Through Controller (R63, R79, R81). -/
def rideRecord (deficit line returnOk : Bool) (d : Nat) (s : Shelf) : Shelf :=
  match s.ride.state with
  | .normal => if deficit then enterRide line d s else s
  | .returning => if deficit then secondLoss d s else s
  | .ride | .depleted => qualifyStep returnOk s

/-! ### The tick -/

/-- The debit of one tick (R68). -/
def debit (d : Nat) (r : Ride) : Ride :=
  { r with eRem := r.eRem - (r.r + d) / 100, r := (r.r + d) % 100 }

/-- T of R71. -/
def projectT (eUse dProj : Nat) : Nat := if dProj = 0 then 65535 else min (eUse / dProj) 65535

/-- Overload shedding (R72): the trays to shed, and D_proj after, which stops at 0 where the allocation of a
tray is greater (log entry 53). -/
def overloadShed (s : Shelf) (bMax : Nat) : List Nat → Nat → List Nat × Nat
  | [], dProj => ([], dProj)
  | t :: rest, dProj =>
    if bMax < dProj then
      let more := overloadShed s bMax rest (dProj - trayAllocation s t)
      (t :: more.1, more.2)
    else ([], dProj)

/-- A keep time asks for its tray to be shed at this projection: it is greater than T, or it is 0 (R73; log
entry 56). -/
def keepTimeFails (keepTime t : Nat) : Bool := t < keepTime || keepTime = 0

/-- The tray that the keep-time test sheds, if any (R73). -/
def keepTimeShed (s : Shelf) (t : Nat) : List Nat :=
  match onByRank s with
  | [] => []
  | tray :: _ => if (trayAt s tray).any fun e => keepTimeFails e.keepTime t then [tray] else []

/-- The projection and the shedding of a tick (R71, R72, R73). -/
def projectAndShed (d eUse : Nat) (s : Shelf) : Shelf :=
  let dProj := d - total (traysIn s .shedding) (trayAllocation s)
  let bMax := maxDischarge s
  let t := projectT eUse dProj
  let heavy := overloadShed s bMax (onByRank s) dProj
  let shed := if bMax < dProj then heavy.1 else keepTimeShed s t
  emitAll (shed.map Task.shed)
    (setRide
      (fun r => editSummary (fun x => { x with smallestT := min x.smallestT t })
        { r with eUse, dProj := heavy.2, bMax, t }) s)

/-- One energy tick (R68, R71, R75). -/
def energyTick (s : Shelf) : Shelf :=
  let d := s.balance.d
  let s := setRide
    (fun r => { debit d r with
      tick := r.tick.map fun x => x + BitVec.ofNat 32 Config.tickPeriod }) s
  let eUse := s.ride.eRem - (policy s).energyReserve
  if eUse = 0 then enterDepleted (setRide (fun r => { r with eUse := 0 }) s)
  else projectAndShed d eUse s

end Sys2Proof.Machine
end

