-- ==== Sys2Proof/Machine/Modules.lean ====
section
/-! DEFINITION. The Module Monitor: PSM evaluation (R44 to R48), BBM states, adoption and order outcomes
(R50 to R54), and charge management (R55 to R59). -/

namespace Sys2Proof.Machine

/-! ### Power supply modules -/

/-- The input of a PSM is present (R45). -/
def inputPresent (r : Psm) : Bool := !r.lineActive && !r.inputHold && r.status.any (·.inputOk)

/-- The first FAILED test of R45 that holds, in the order of R48's reasons. -/
def failedReason (r : Psm) (temperature voltage : Band) : Option PsmReason :=
  if r.status.any (·.fault) then some .fault
  else if inputPresent r && r.status.any fun c => !c.outputOk then some .output
  else if temperature = .critHigh then some .temperature
  else if voltage = .critHigh || (inputPresent r && voltage = .critLow) then some .voltage
  else none

/-- The reason of a change to INPUT-LOST or OK, by what made the evaluation (R48). A band that an apply of the Sample
Map changed (R23) may take a supply from FAILED to INPUT-LOST, and no reason of R48's table fits that change: INPUT
leaves applies out, and APPLY speaks of an apply that changed the PSM entry. DESIGN CHOICE: INPUT (log entry 66). A
FAILED supply whose band left CRIT-HIGH under a kind that R20 does not give the Module Monitor may leave FAILED by an
INACTIVE delivery or a withdrawal of its line, and no reason of the table fits that change either. DESIGN CHOICE:
REPORT where it becomes OK, and LINE where it becomes INPUT-LOST although no line delivery took its input (log entry
73). -/
def triggerReason (trigger : PsmTrigger) (ok : Bool) : PsmReason :=
  match trigger with
  | .apply => .apply
  | .line => if ok then .report else .line
  | .report | .presence => if ok then .report else .input
  | .band => if ok then .band else .input

/-- The evaluation of R45 with the reason of R48: the first test that holds gives the state. -/
def evaluatePsm (presence : Presence) (r : Psm) (temperature voltage : Band)
    (trigger : PsmTrigger) : PsmState × PsmReason :=
  let reason := fun (x : PsmReason) => if trigger = .apply then PsmReason.apply else x
  if presence = .absent then (.absent, reason .presence)
  else
    match failedReason r temperature voltage with
    | some x => (.failed, reason x)
    | none =>
      if inputPresent r then (.ok, triggerReason trigger true)
      else (.inputLost, triggerReason trigger false)

/-- Change a PSM record's fields. -/
def editPsm (i : Nat) (f : Psm → Psm) (s : Shelf) : Shelf := { s with psms := vmod s.psms i f }

/-- A PSM state change: the record, the notice and the hand-on (R48). -/
def psmTo (i : Nat) (new : PsmState) (reason : PsmReason) (cause : Cause) (s : Shelf) : Shelf :=
  let old := (vget s.psms i).state
  let s := editPsm i (fun r => { r with state := new, reason, stateTime := s.shelfTime }) s
  changed [cause]
    (post srcPsm i ntPsmState (twoItems (psmStateNumber old) (psmStateNumber new))
      (psmReasonNumber reason) s)

/-- The Module Monitor evaluates a PSM; giving the state it has is no change (R45, R46, R48). -/
def checkPsm (i : Nat) (trigger : PsmTrigger) (s : Shelf) : Shelf :=
  match psmAt s i with
  | none => s
  | some e =>
    let x := evaluatePsm (ownedPresence s e.roster .psm i) (vget s.psms i)
      (vget s.signals e.temperature).band (vget s.signals e.voltage).band trigger
    if x.1 = (vget s.psms i).state then s
    else psmTo i x.1 x.2 (if trigger = .line then .psmLine else .psmState) s

/-- ABSENT or FAILED: the states that an ACTIVE delivery of the INPUT-LOSS line does not change (R46). -/
def keptByLine (st : PsmState) : Bool := st = .absent || st = .failed

/-- A delivery from a PSM's INPUT-LOSS line (R46; log entry 16): the line state and the input hold, and the
evaluation, which an ACTIVE delivery to an ABSENT or FAILED PSM does not make. -/
def psmLine (i : Nat) (active : Bool) (s : Shelf) : Shelf :=
  if (psmAt s i).isNone then s
  else
    let told := editPsm i
      (fun r => { r with lineActive := active, inputHold := r.inputHold || active }) s
    if active && keptByLine (vget s.psms i).state then told else checkPsm i .line told

/-- The bits of a status word that the Module Monitor reads (R163). -/
def bitInputOk (word : Nat) : Bool := word.testBit 0
/-- OUTPUT-OK (R163). -/
def bitOutputOk (word : Nat) : Bool := word.testBit 1
/-- FAULT (R163). -/
def bitFault (word : Nat) : Bool := word.testBit 2
/-- FULL (R163). -/
def bitFull (word : Nat) : Bool := word.testBit 3

/-- A PSM's status word: the copy and the input hold, before the evaluation (R47). -/
def psmStatusWord (word : Nat) (r : Psm) : Psm :=
  { r with
    status := some ⟨bitInputOk word, bitOutputOk word, bitFault word⟩
    inputHold := if bitInputOk word then r.inputHold && r.lineActive else true }

/-- A PSM's Roster module is ABSENT (R47). -/
def psmAbsent (i : Nat) (s : Shelf) : Shelf :=
  if (psmAt s i).isNone then s
  else
    checkPsm i .presence (editPsm i (fun r => { r with status := none, inputHold := true }) s)

/-! ### Battery backup modules -/

/-- BBM-STATE and the hand-ons of a BBM state change (R54, R55). -/
def tellBbmState (k : Nat) (old new : BbmState) (reason : BbmReason) (s : Shelf) : Shelf :=
  postpone .charge
    (rideBattery k old new
      (changed [.bbmState]
        (post srcBbm k ntBbmState (twoItems (bbmStateNumber old) (bbmStateNumber new))
          (bbmReasonNumber reason) s)))

/-- A BBM record takes new values: a state change is posted and handed on, a change of the acknowledged
rate is handed to the Balance Unit, and a change of FULL gives a charge evaluation (R54, R55, R58). -/
def putBbm (k : Nat) (reason : BbmReason) (f : Bbm → Bbm) (s : Shelf) : Shelf :=
  let old := vget s.bbms k
  let new := f old
  let changes := old.state ≠ new.state
  let new := if changes then { new with stateTime := s.shelfTime } else new
  let s := { s with bbms := vset s.bbms k new }
  let s := if old.full ≠ new.full then postpone .charge s else s
  let s := if old.acknowledged ≠ new.acknowledged then changed [.charge] s else s
  if changes then tellBbmState k old.state new.state reason s else s

/-- The state a report gives an adopted BBM (R51). -/
def adoptedState (s : Shelf) (k : Nat) (fault : Bool) : BbmState :=
  if fault then .fault
  else
    match bbmAt s k with
    | some e =>
      if bandKnown s e.discharge && 0 < (vget s.signals e.discharge).value then .discharging else .idle
    | none => .idle

/-- Adoption by a report: its status word, where it carries one (R51; log entry 40), with the reason ADOPTED
whether or not it gives FAULT (R54; log entry 51). -/
def adoptBbm (k : Nat) (word : Option Nat) (s : Shelf) : Shelf :=
  let fault := word.any bitFault
  let state := adoptedState s k fault
  putBbm k .adopted
    (fun r => { r with
      state
      fault := if fault then some .status else none
      seen := true
      full := (word.map bitFull).getD r.full
      acknowledged := 0
      ordered := none }) s

/-- A status word after adoption (R52): its FULL first, then its FAULT, each a change of its own (log entry
50). -/
def bbmStatusWord (k word : Nat) (s : Shelf) : Shelf :=
  let full := bitFull word
  let s := putBbm k .full
    (fun r =>
      if r.state = .charging && full then { r with full, state := .idle, acknowledged := 0 }
      else { r with full }) s
  let r := vget s.bbms k
  if bitFault word then
    if r.state = .fault then s
    else putBbm k .status (fun r => { r with state := .fault, fault := some .status }) s
  else if r.state = .fault ∧ r.fault = some .status then adoptBbm k (some word) s
  else s

/-- A report of a BBM's Roster module: adoption where seen is clear, whatever the state, a FAULT made by an order
included (log entry 49), and its status words (R51, R52). -/
def bbmReport (k : Nat) (words : List Nat) (s : Shelf) : Shelf :=
  if (bbmAt s k).isNone then s
  else if (vget s.bbms k).seen then words.foldl (fun s w => bbmStatusWord k w s) s
  else words.tail.foldl (fun s w => bbmStatusWord k w s) (adoptBbm k words.head? s)

/-- The BBM's Roster module is ABSENT (R52). -/
def bbmAbsent (k : Nat) (s : Shelf) : Shelf :=
  if (bbmAt s k).isNone then s
  else
    putBbm k .presence
      (fun r => { r with
        state := .absent, fault := none, seen := false, full := false, acknowledged := 0 }) s

/-- The record after an order acknowledged OK (R53). -/
def acknowledgedBbm (normal : Bool) (code : Byte) (argument : Nat) (r : Bbm) : Bbm :=
  let go := fun (st : BbmState) => if r.state = .fault then BbmState.fault else st
  if code = codeDischarge then { r with state := go .discharging, acknowledged := 0 }
  else if code = codeHold then { r with state := go .idle, acknowledged := 0, ordered := some 0 }
  else if argument = 0 then { r with state := go .idle, acknowledged := 0 }
  else { r with state := go .charging, acknowledged := if normal then argument else 0 }

/-- A failed order makes a BBM FAULT, unless it is in FAULT already (R53). -/
def failBbm (k : Nat) (cause : BbmFault) (reason : BbmReason) (s : Shelf) : Shelf :=
  if (vget s.bbms k).state = .fault then s
  else putBbm k reason (fun r => { r with state := .fault, fault := some cause }) s

/-- The outcome of a battery's order (R53). It acts on the record as it stands, a record that an apply has restarted
or given to another Roster entry since the order was placed included (log entry 59). -/
def bbmOutcome (k : Nat) (code : Byte) (argument : Nat) (o : OrderOutcome) (s : Shelf) : Shelf :=
  if (bbmAt s k).isNone ∨ (vget s.bbms k).state = .absent then s
  else
    match o with
    | .ack status =>
      if status = ackOk then
        putBbm k .orderOk (acknowledgedBbm (rideNormal s) code argument) s
      else failBbm k .refused .refused s
    | .noAnswer => failBbm k .noAnswer .noAnswer s
    | .portOff => s

/-! ### Charge management -/

/-- A BBM is eligible for charge (R56). -/
def chargeEligible (s : Shelf) (k : Nat) : Bool :=
  let r := vget s.bbms k
  (bbmAt s k).isSome && r.seen && (r.state = .idle || r.state = .charging) && !r.full

/-- The eligible BBMs, ascending. -/
def eligibleBbms (s : Shelf) : List Nat := (List.range Config.bbmCount).filter (chargeEligible s)

/-- A BBM's maximum charge. -/
def maxChargeOf (s : Shelf) (k : Nat) : Nat := ((bbmAt s k).map (·.maxCharge)).getD 0

/-- The charge budget Ch (R56). -/
def chargeBudgetOf (s : Shelf) : Nat :=
  min (total (eligibleBbms s) (maxChargeOf s))
    (s.balance.h0 - ((policy s).chargeFloor : Int) - (headNeed s : Int)).toNat

/-- The new rate of a BBM, if it has one (R56). -/
def newRate (s : Shelf) (k : Nat) : Option Nat :=
  let r := vget s.bbms k
  if chargeEligible s k then
    some (min (maxChargeOf s k) (chargeBudgetOf s / (eligibleBbms s).length))
  else if (bbmAt s k).isSome && r.seen && (r.state = .idle || r.state = .charging) then some 0
  else none

/-- The distance between two figures. -/
def distance (a b : Nat) : Nat := (a - b) + (b - a)

/-- A new rate is ordered (R57). -/
def rateOrdered (step rate : Nat) (last : Option Nat) : Bool :=
  match last with
  | none => true
  | some old => (step ≤ distance rate old && rate ≠ old) || (rate = 0 && old ≠ 0)

/-- Place the CHARGE orders that R57 asks for, in ascending index (log entry 60). -/
def orderRate (rates : List (Nat × Nat)) (s : Shelf) : Shelf :=
  rates.foldl
    (fun s (k, rate) =>
      if rateOrdered (policy s).chargeStep rate (vget s.bbms k).ordered then
        placeBbm k codeCharge rate
          { s with bbms := vmod s.bbms k fun r => { r with ordered := some rate } }
      else s) s

/-- Every in-use BBM in DISCHARGING is ordered HOLD, unless one is placed (R55), in ascending index (log entry
60). -/
def holdDischarging (s : Shelf) : Shelf :=
  (bbmsInUse s).foldl
    (fun s k => if (vget s.bbms k).state = .discharging then placeBbmOnce k codeHold s else s) s

/-- The BBMs with a new rate, and the rates (R56). -/
def newRates (s : Shelf) : List (Nat × Nat) :=
  (List.range Config.bbmCount).filterMap fun k => (newRate s k).map fun rate => (k, rate)

/-- A charge evaluation (R55, R56, R57). -/
def chargeEvaluation (s : Shelf) : Shelf :=
  if rideNormal s && !s.balance.deficit then
    let s := holdDischarging s
    orderRate (newRates s) { s with chargeBudget := chargeBudgetOf s }
  else s

/-- The ride state has left NORMAL: every rate becomes 0, and an allocation that changes is handed to the
balance (R59). -/
def chargeZero (s : Shelf) : Shelf :=
  let before := chargeAllocation s
  let s := { s with bbms := s.bbms.map fun r => { r with acknowledged := 0, ordered := some 0 } }
  if before = 0 then s else changed [.charge] s

end Sys2Proof.Machine
end

