-- ==== Sys2Proof/Machine/Signals.lean ====
section
/-! DEFINITION. The Signal Screen: conversion (R15), bands (R17 to R19), samples, staleness (R21) and the
handing on of value updates and band changes (R20, R22). -/

namespace Sys2Proof.Machine

/-! ### Conversion and bands -/

/-- A raw field value converted with gain and offset, and clamped (R15). -/
def convert (raw gain : Nat) (offset : Int) : Nat :=
  let x : Int := ((raw * gain + 128) / 256 : Nat) + offset
  min x.toNat 65535

/-- The raw band of a value (R17). -/
def rawBand (l : LimitSet) (v : Nat) : Band :=
  if v < l.cl then .critLow
  else if v < l.lw then .low
  else if l.ch < v then .critHigh
  else if l.hw < v then .high
  else .normal

/-- How far a band is from NORMAL (R17). -/
def bandDistance : Band → Nat
  | .critLow | .critHigh => 2
  | .low | .high => 1
  | .normal | .unknown => 0

/-- A band is on the high side (R17). -/
def highSide : Band → Bool
  | .high | .critHigh => true
  | _ => false

/-- A band is on the low side (R17). -/
def lowSide : Band → Bool
  | .low | .critLow => true
  | _ => false

/-- The farther from NORMAL of two bands of one side (R18). -/
def farther (a b : Band) : Band := if bandDistance a < bandDistance b then b else a

/-- A band no farther from NORMAL than the current one (R18). -/
def noFarther (current b : Band) : Band := if bandDistance current < bandDistance b then current else b

/-- The candidate band of a sample value (R18). -/
def candidateBand (l : LimitSet) (current : Band) (v : Nat) : Band :=
  let raw := rawBand l v
  if highSide current && bandDistance raw < bandDistance current && !lowSide raw then
    noFarther current (farther raw (rawBand l (min (v + l.h) 65535)))
  else if lowSide current && bandDistance raw < bandDistance current && !highSide raw then
    noFarther current (farther raw (rawBand l (v - l.h)))
  else raw

/-- A candidate band applied to a signal record (R19). -/
def agree (n : Nat) (c : Band) (g : Signal) : Signal :=
  if c = g.band then { g with pending := none, count := 0 }
  else
    let count := if g.pending = some c then g.count + 1 else 1
    if n ≤ count then { g with band := c, pending := none, count := 0 }
    else { g with pending := some c, count }

/-- A sample of a signal (R14, R19, R21). -/
def sampleSignal (l : LimitSet) (v : Nat) (time : Time) (g : Signal) : Signal :=
  let h := { g with value := v, last := time, stale := false }
  if g.band = .unknown then { h with band := rawBand l v, pending := none, count := 0 }
  else agree l.n (candidateBand l g.band v) h

/-- A signal becomes STALE (R21). -/
def makeStale (g : Signal) : Signal :=
  { g with band := .unknown, pending := none, count := 0, stale := true }

/-! ### Band changes and their hand-on -/

/-- SIGNAL-BAND (R22). -/
def bandNotice (n : Nat) (old : Band) (notify : Bool) (s : Shelf) : Shelf :=
  let g := vget s.signals n
  if notify && old ≠ g.band then
    post srcSignal n ntSignalBand (twoItems (bandNumber old) (bandNumber g.band)) g.value s
  else s

/-- A signal takes a new record, with the notice of R22. -/
def putSignal (n : Nat) (notify : Bool) (f : Signal → Signal) (s : Shelf) : Shelf :=
  let old := (vget s.signals n).band
  bandNotice n old notify { s with signals := vmod s.signals n f }

/-- What the Signal Screen hands on: signals with a value update, and signals with a band change, each
with its kind (R20). -/
structure HandOn where
  updates : List (Nat × SignalKind)
  changes : List (Nat × SignalKind)
  deriving DecidableEq, Repr

/-- Value updates of this kind go to the Balance Unit (R20). -/
def updateToBalance (k : SignalKind) : Bool := k = .electrical || k = .power

/-- Band changes of this kind go to the Balance Unit (R20). -/
def changeToBalance (k : SignalKind) : Bool := k = .electrical || k = .temperature || k = .power

/-- Band changes of this kind go to the Module Monitor (R20). -/
def changeToMonitor (k : SignalKind) : Bool := k = .electrical || k = .temperature

/-- A hand-on list names a signal with a kind that goes to the receiver. -/
def names (sent : SignalKind → Bool) (l : List (Nat × SignalKind)) (n : Nat) : Bool :=
  l.any fun x => x.1 = n && sent x.2

/-- A value update or band change of the signal goes to the Balance Unit (R26). -/
def readingChanged (h : HandOn) (n : Nat) : Bool :=
  names updateToBalance h.updates n || names changeToBalance h.changes n

/-- The kinds of input change that the signals of in-use PSMs and BBMs give (R26, R28). -/
def signalCauses (s : Shelf) (h : HandOn) : List Cause :=
  let psms := (List.range Config.psmCount).filterMap (psmAt s)
  let bbms := (List.range Config.bbmCount).filterMap (bbmAt s)
  (if psms.any fun e => names changeToBalance h.changes e.temperature then [.psmTemperature] else []) ++
  (if psms.any fun e => readingChanged h e.voltage || readingChanged h e.current then [.psmReading]
    else []) ++
  (if bbms.any fun e => readingChanged h e.discharge then [.bbmReading] else [])

/-- The in-use PSMs that a band change of a voltage or temperature signal evaluates (R45). -/
def psmsWithBand (s : Shelf) (h : HandOn) : List Nat :=
  (List.range Config.psmCount).filter fun i =>
    (psmAt s i).any fun e =>
      names changeToMonitor h.changes e.temperature || names changeToMonitor h.changes e.voltage

/-- A value update of an in-use battery's energy signal (R20, R67). -/
def energyTouched (s : Shelf) (h : HandOn) : Bool :=
  (List.range Config.bbmCount).any fun k =>
    (bbmAt s k).any fun e =>
      names (fun x => x = .energy) h.updates e.energy

/-- A band change of kind LEAK (R20). -/
def leakTouched (h : HandOn) : Bool := h.changes.any fun x => x.2 = .leak

/-- PSMs are evaluated one after another by the Module Monitor (R45), in ascending index (R48 gives no order; log
entry 60, and log entry 71 for the sender of a report). -/
def checkPsms (trigger : PsmTrigger) (is : List Nat) (s : Shelf) : Shelf :=
  is.foldl (fun s i => checkPsm i trigger s) s

/-- Value updates and band changes are handed on (R20): to the Module Monitor, the Ride-Through
Controller, the Balance Unit and the Leak Zone Unit (log entry 28). The PSM states that a report gives
are one change with it, and so are those within an apply (R177); those that a band change gives
otherwise are the Module Monitor's own (R27; log entry 43). -/
def handOnSignals (h : HandOn) (trigger : PsmTrigger) (s : Shelf) : Shelf :=
  let psms := psmsWithBand s h
  let atOnce : Bool := trigger = .report || s.applying.isSome
  let s := if atOnce then checkPsms trigger psms s else s
  let s := if energyTouched s h then energyUpdate s else s
  let s := changed (signalCauses s h) s
  let s := if !atOnce && psms ≠ [] then emit (.psmBands psms) s else s
  if leakTouched h then emit .zones s else s

/-! ### Staleness -/

/-- One signal becomes STALE, if it is not, as fed by an entry, whose notify flag is read as it stands (R21,
R22; log entry 44). -/
def staleSignal (n : Nat) (notify : Bool) (s : Shelf) : Shelf :=
  if (vget s.signals n).stale then s else putSignal n notify makeStale s

/-- The signals fed from a Roster entry, with their entries (R21). -/
def fedFrom (s : Shelf) (r : Nat) : List SampleEntry :=
  ((List.range Config.signalCount).filterMap (sampleAt s)).filter fun e => e.roster = r

/-- The band changes between two states, over the signals of some entries. -/
def changesOver (before after : Shelf) (es : List SampleEntry) : List (Nat × SignalKind) :=
  (es.filter fun e => (vget before.signals e.signal).band ≠ (vget after.signals e.signal).band).map
    fun e => (e.signal, e.kind)

/-- Signals become STALE together, in the order of their Sample Map entries (log entry 47), and their band
changes are handed on together (R21, R125). -/
def staleAll (es : List SampleEntry) (s : Shelf) : Shelf :=
  let after := es.foldl (fun s e => staleSignal e.signal e.notify s) s
  handOnSignals ⟨[], changesOver s after es⟩ .band after

/-- A signal's stale time has passed since its last sample (R21): the stale time of the limit set that its
entry names now, whether or not a sample has come since an apply changed the entry (R23 leaves it open;
log entry 44). A signal that has not been sampled since a reset of the part does not go stale by time (R21). R23,
items 1 and 3, reset a signal's band and keep its time of last sample, and no rule says whether it may go stale by
that time before its next sample. DEDUCED: it counts as never sampled, as R20 reads a band UNKNOWN with STALE
clear, and so the band must be known (log entry 69). -/
def staleDue (s : Shelf) (n : Nat) : Bool :=
  match feeding s n with
  | none => false
  | some e =>
    let g := vget s.signals n
    let stale := (limitsAt s e.limitSet).stale
    stale ≠ 0 && !g.stale && g.band ≠ .unknown && reached s.shelfTime (g.last + msTime stale)

/-! ### Reports -/

/-- The in-use Sample Map entry for a Roster entry and field id (R14). -/
def sampleFor (s : Shelf) (r fieldId : Nat) : Option SampleEntry :=
  ((List.range Config.signalCount).filterMap (sampleAt s)).find? fun e =>
    e.roster = r && e.fieldId = fieldId

/-- The samples of a report, in report order (R14). -/
def samplesOf (s : Shelf) (r : Nat) (pairs : List (Nat × Nat)) : List (SampleEntry × Nat) :=
  pairs.filterMap fun p => if p.1 = 1 then none else (sampleFor s r p.1).map fun e => (e, p.2)

/-- One sample is applied (R14, R15). -/
def applySample (e : SampleEntry) (raw : Nat) (time : Time) (s : Shelf) : Shelf :=
  putSignal e.signal e.notify
    (sampleSignal (limitsAt s e.limitSet) (convert raw e.gain e.offset) time) s

/-- The samples of a report are applied in report order; the band changes they make are gathered (R14,
R19). -/
def applySamples (time : Time) : List (SampleEntry × Nat) → Shelf × List (Nat × SignalKind) →
    Shelf × List (Nat × SignalKind)
  | [], x => x
  | (e, raw) :: rest, (s, changes) =>
    let after := applySample e raw time s
    let here :=
      if (vget s.signals e.signal).band = (vget after.signals e.signal).band then []
      else [(e.signal, e.kind)]
    applySamples time rest (after, changes ++ here)

/-- The status words of a report, in report order (R14). -/
def statusWords (pairs : List (Nat × Nat)) : List Nat :=
  pairs.filterMap fun p => if p.1 = 1 then some p.2 else none

/-- The status words of a report reach the owner of the sender's kind (R139). -/
def deliverStatus (e : RosterEntry) (r : Nat) (words : List Nat) (time : Time) (s : Shelf) : Shelf :=
  match e.kind with
  | .psm =>
    if (psmAt s e.index).any fun x => x.roster = r then
      words.foldl (fun s w => editPsm e.index (psmStatusWord w) s) s
    else s
  | .bbm =>
    if (bbmAt s e.index).any fun x => x.roster = r then bbmReport e.index words s else s
  | .tray =>
    if (trayAt s e.index).any fun x => x.roster = r then
      words.foldl (fun s w => trayStatus e.index w time s) s
    else s
  | .leakNode => s

/-- A PSM whose report carried a status word, or ended its absence, is evaluated (R47). Any other report
evaluates it for the band changes alone (`handOnSignals`), so a state that R46 kept stays (R45). It stands before the
PSMs that the report evaluates for a band change (log entry 71). -/
def evaluateReporter (e : RosterEntry) (r : Nat) (words : List Nat) (s : Shelf) : Shelf :=
  match e.kind with
  | .psm =>
    if ((psmAt s e.index).any fun x => x.roster = r) &&
        (words ≠ [] || (vget s.psms e.index).state = .absent) then
      checkPsm e.index .report s
    else s
  | _ => s

/-- A REPORT is taken whole: its samples, then its status words and what they hand on, as one change
(R14, R27). Of several PSMs that one report evaluates, no rule says which is first. DESIGN CHOICE: the sender, where
its status word or the end of its absence evaluates it, stands first whatever its index, and the PSMs whose
voltage or temperature band the report changed follow in ascending index (log entry 71). -/
def takeReport (r : Nat) (pairs : List (Nat × Nat)) (time : Time) (s : Shelf) : Shelf :=
  match rosterAt s r with
  | none => s
  | some e =>
    let samples := samplesOf s r pairs
    let sampled := applySamples time samples (s, [])
    let h : HandOn := ⟨samples.map fun x => (x.1.signal, x.1.kind), sampled.2⟩
    handOnSignals h .report
      (evaluateReporter e r (statusWords pairs)
        (deliverStatus e r (statusWords pairs) time sampled.1))

end Sys2Proof.Machine
end

