-- ==== Sys2Proof/Machine/Lines.lean ====
section
/-! DEFINITION. The Sense Line Unit: filtering and acceptance (R4), edges and captures (R3, R7), what a
line delivers to its owner (R6), and the changes of an apply to a line's entry (R5). -/

namespace Sys2Proof.Machine

/-- Change what is kept for one sense line. -/
def editLine (l : Nat) (f : SenseLine → SenseLine) (s : Shelf) : Shelf :=
  { s with lines := vmod s.lines l f }

/-! ### Delivery -/

/-- The reactions to a shelf stop that becomes active, in the order the event gives (R104, R119; log
entry 3). -/
def stopTasks (s : Shelf) : List Task :=
  let trays := (traysInUse s).map Task.shelfStopTray
  if s.ambient.programFirst then .seqShelfStop :: trays else trays ++ [.seqShelfStop]

/-- The shelf stop condition follows the SHELF-STOP lines (R6, R104, R93, R120). -/
def followShelfStop (s : Shelf) : Shelf :=
  let now := stopLineActive s
  if now = s.shelfStop then s
  else if now then emitAll (stopTasks s) { s with shelfStop := true }
  else admissionDue (postpone .autostartTest { s with shelfStop := false })

/-- A delivery to the owner of a line's role: the logical state, and the edge time where the change is an
edge (R2, R6). -/
def deliverLine (e : SenseEntry) (l : Nat) (active : Bool) (edge : Option Time) (s : Shelf) : Shelf :=
  match e.role with
  | .unused => s
  | .inputLoss => psmLine e.index active s
  | .leak => emit .zones s
  | .trayGood =>
    match edge with
    | some t => if goodLineOf s e.index = some l then trayLineEdge e.index active t s else s
    | none => s
  | .shelfStop => followShelfStop s

/-! ### Captures -/

/-- An edge qualifies for capture (R3). -/
def qualifies (select : EdgeSelect) (rising : Bool) : Bool :=
  match select with
  | .rising => rising
  | .falling => !rising
  | .both => true

/-- The capture record after a qualifying edge (R7). -/
def capture (rising : Bool) (time : Time) (c : Capture) : Capture :=
  { latest := time, previous := c.latest, edge := some (if rising then .rising else .falling)
    captured := true, missed := c.missed || c.captured }

/-! ### Acceptance -/

/-- A filter history with no candidate (R4). -/
def clearHistory : FilterHistory := ⟨none, 0, 0⟩

/-- The accepted level becomes `level`: an edge with this time, or a first acceptance (R4, R6, R7). -/
def acceptLevel (l : Nat) (level : Level) (time : Time) (s : Shelf) : Shelf :=
  let e := senseAt s l
  let first := (vget s.lines l).accepted.isNone
  let active : Bool := level = e.active
  let taken := fun (r : SenseLine) =>
    { r with
      accepted := some level, history := clearHistory
      capture := if !first && qualifies e.edge active then capture active time r.capture
        else r.capture }
  deliverLine e l active (if first then none else some time) (editLine l taken s)

/-- A sample is the third of three that agree on a level other than the accepted one (R4). -/
def completes (r : SenseLine) (level : Level) : Bool :=
  r.accepted ≠ some level && r.history.candidate = some level && 2 ≤ r.history.count

/-- The filter history after a sample that completes nothing (R4). -/
def filterStep (level : Level) (now : Time) (r : SenseLine) : FilterHistory :=
  if r.accepted = some level then clearHistory
  else if r.history.candidate = some level then { r.history with count := r.history.count + 1 }
  else ⟨some level, 1, now⟩

/-- A line is due for its next sample: a filter period has passed since the last (R4; log entry 27). -/
def sampleDue (s : Shelf) (l : Nat) : Bool :=
  let period := (senseAt s l).period
  s.sampling && period ≠ 0 &&
    match (vget s.lines l).lastSample with
    | none => true
    | some t => reached s.shelfTime (t + BitVec.ofNat 32 period)

/-- A line is watched continuously, the filter OFF (R4). -/
def watched (s : Shelf) (l : Nat) : Bool := s.sampling && (senseAt s l).period = 0

/-- One sample of a filtered line (R4). -/
def takeSample (l : Nat) (level : Level) (s : Shelf) : Shelf :=
  let r := vget s.lines l
  let s := editLine l (fun r => { r with lastSample := some s.shelfTime }) s
  if completes r level then acceptLevel l level r.history.first s
  else editLine l (fun r => { r with history := filterStep level s.shelfTime r }) s

/-- FILTER-SAMPLE (R4). -/
def filterSample (l : Nat) (level : Level) (s : Shelf) : Shelf :=
  if sampleDue s l then takeSample l level s else s

/-- The sample or change that completes an acceptance, for a line that has an accepted level or for one
that has none (R4, R6). -/
def acceptance (first : Bool) (l : Nat) (level : Level) (s : Shelf) : Shelf :=
  let r := vget s.lines l
  if r.accepted.isNone ≠ first then s
  else if watched s l then
    if r.accepted = some level then s else acceptLevel l level s.shelfTime s
  else if sampleDue s l && completes r level then takeSample l level s
  else s

/-! ### Applies (R5) -/

/-- A line's role or role index changed: the former owner treats the line as INACTIVE (R5). -/
def withdrawLine (old : SenseEntry) (s : Shelf) : Shelf :=
  match old.role with
  | .inputLoss => psmLine old.index false s
  | .shelfStop => followShelfStop s
  | .unused | .leak | .trayGood => s

/-- An entry's role or role index differs (R5). -/
def ownerChanged (old new : SenseEntry) : Bool := old.role ≠ new.role || old.index ≠ new.index

/-- The first part of a change of a sense line's entry: a new filter period clears the history, and a
former owner is told (R5). The time of the last sample is forgotten with the history, so the first sample of the
new period may come at any time (log entry 27). -/
def withdrawSense (l : Nat) (old : SenseEntry) (s : Shelf) : Shelf :=
  let new := senseAt s l
  let s :=
    if old.period ≠ new.period then
      editLine l (fun r => { r with history := clearHistory, lastSample := none }) s
    else s
  if ownerChanged old new then withdrawLine old s else s

/-- The second part: a new owner, or a new logical state, is given as an initial state (R5, R6). -/
def deliverSense (l : Nat) (old : SenseEntry) (s : Shelf) : Shelf :=
  let new := senseAt s l
  let active := lineActive s l
  let was : Bool := (vget s.lines l).accepted = some old.active
  if ownerChanged old new || was ≠ active then deliverLine new l active none s else s

end Sys2Proof.Machine
end

