-- ==== Sys2Proof/Machine/Zones.lean ====
section
/-! DEFINITION. The Leak Zone Unit: point states (R124), zone evaluation and the confirm timer (R126,
R127), the latch (R129), clearing (R132), applies and start-up (R135, R136). -/

namespace Sys2Proof.Machine

/-! ### Points -/

/-- The state of a listed point of a zone (R124). -/
def pointState (s : Shelf) (z : Nat) : PointRef → PointState
  | .signal n =>
    match feeding s n with
    | none => .unknown
    | some e =>
      if e.kind = .leak then
        match (vget s.signals n).band with
        | .low | .critLow => .wet
        | .normal | .high | .critHigh => .dry
        | .unknown => .unknown
      else .unknown
  | .line l =>
    if (senseAt s l).role = .leak ∧ (senseAt s l).index = z then
      if lineActive s l then .wet else .dry
    else .unknown

/-- The states of a zone's listed points (R124). -/
def pointStates (s : Shelf) (z : Nat) : List PointState :=
  match zoneAt s z with
  | none => []
  | some e => e.points.map (pointState s z)

/-! ### Changes -/

/-- Change a zone record. -/
def editZone (z : Nat) (f : Zone → Zone) (s : Shelf) : Shelf := { s with zones := vmod s.zones z f }

/-- The zone epoch moved on by 1, wrapping (R126). -/
def epochUp (x : Zone) : Zone := { x with epoch := x.epoch + 1 }

/-- ZONE-STATE (R131). -/
def zoneNotice (z : Nat) (old new : ZoneState) (cause : ZoneCause) (s : Shelf) : Shelf :=
  post srcZone z ntZoneState (twoItems (zoneStateNumber old) (zoneStateNumber new))
    (twoItems (vget s.zones z).epoch.toNat (zoneCauseNumber cause)) s

/-- A zone state change is handed on (R129, R130): locks at an entry to WET, releases on leaving it, and
the drive lines. -/
def tellZone (z : Nat) (old new : ZoneState) (cause : ZoneCause) (s : Shelf) : Shelf :=
  let s := zoneNotice z old new cause s
  let s := if new = .wet then emitAll ((zoneTrays s z).map Task.lockTray) s else s
  let s := if old = .wet ∧ new ≠ .wet then emitAll ((zoneTrays s z).map Task.releaseTray) s else s
  if old = .wet ∨ new = .wet then setDrives s else s

/-- A zone takes a new record; a change of its state is posted and handed on. -/
def putZone (z : Nat) (cause : ZoneCause) (f : Zone → Zone) (s : Shelf) : Shelf :=
  let old := vget s.zones z
  let new := f old
  let s := editZone z (fun _ => new) s
  if old.state = new.state then s else tellZone z old.state new.state cause s

/-- The number of points in a state. -/
def countPoints (st : PointState) (ps : List PointState) : Nat := (ps.filter fun p => p = st).length

/-- The state an evaluation gives (R126). -/
def zoneNext (state : ZoneState) (wet unknown confirmCount : Nat) : ZoneState :=
  match state with
  | .wet => .wet
  | .dry | .suspect =>
    if confirmCount ≤ wet then .wet
    else if wet = 0 ∧ unknown = 0 then .dry
    else .suspect

/-- The record an evaluation gives over the listed points (R126, R127, R128, R129). -/
def evaluateZone (e : ZoneEntry) (ps : List PointState) (now : Time) (x : Zone) : Zone :=
  let wet := countPoints .wet ps
  let unknown := countPoints .unknown ps
  let state := zoneNext x.state wet unknown e.confirmCount
  let rises : Bool := x.state ≠ .wet && x.wet = 0 && 0 < wet
  let firstWet := if rises then now else x.firstWet
  let timer :=
    if state ≠ .suspect ∨ wet = 0 then Timer.stopped
    else if !rises then x.timer
    else if e.confirmTime = 0 then .stopped
    else .running (now + msTime e.confirmTime)
  let moved : Bool := state ≠ x.state || wet ≠ x.wet || unknown ≠ x.unknown
  { state, points := ps, wet, unknown, timer, firstWet
    latch := if x.state ≠ .wet ∧ state = .wet then now else x.latch
    epoch := if moved then x.epoch + 1 else x.epoch }

/-- The cause of the change an evaluation makes (R131). -/
def evaluationCause (new : ZoneState) : ZoneCause :=
  match new with
  | .wet => .count
  | .suspect => .point
  | .dry => .dry

/-- One zone evaluation (R126). -/
def zoneEvaluation (z : Nat) (s : Shelf) : Shelf :=
  match zoneAt s z with
  | none => s
  | some e =>
    let new := evaluateZone e (pointStates s z) s.shelfTime (vget s.zones z)
    putZone z (evaluationCause new.state) (fun _ => new) s

/-- The in-use zones with a changed point (R125). -/
def zonesTouched (s : Shelf) : List Nat :=
  (List.range Config.zoneCount).filter fun z =>
    (zoneAt s z).isSome && pointStates s z ≠ (vget s.zones z).points

/-- Each zone with a changed point is evaluated (R125), in ascending order, the model's choice (log entry 60). -/
def zonesChanged (s : Shelf) : Shelf := emitAll ((zonesTouched s).map Task.zoneEval) s

/-- The confirm timer of a zone expires: the zone becomes WET with cause TIME (R127, R129). -/
def confirmExpiry (z : Nat) (s : Shelf) : Shelf :=
  let now := s.shelfTime
  putZone z .time
    (fun x => epochUp { x with state := .wet, timer := .stopped, latch := now }) s

/-- CLEAR-ZONE, once every test has passed (R132). -/
def clearZone (z : Nat) (s : Shelf) : Shelf :=
  putZone z .clear (fun x => epochUp { x with state := .dry }) s

/-- Point states, counts, timer and first-wet time as after power-on reset (R135). -/
def emptyZone (n : Nat) (x : Zone) : Zone :=
  { x with
    points := List.replicate n .dry, wet := 0, unknown := 0, timer := .stopped, firstWet := 0 }

/-- The change of a latched Zones entry (R135): the record, and an evaluation of an entry in use. The epoch
moves whatever the entry was and becomes. -/
def applyZone (z : Nat) (old : Option ZoneEntry) (s : Shelf) : Shelf :=
  match old, zoneAt s z with
  | some _, some _ => emit (.zoneEval z) (editZone z epochUp s)
  | none, some e =>
    emit (.zoneEval z)
      (editZone z (fun x => epochUp { emptyZone e.points.length x with state := .dry }) s)
  | some _, none =>
    editZone z
      (fun x => epochUp
        { x with state := .dry, points := [], wet := 0, unknown := 0, timer := .stopped }) s
  | none, none => editZone z epochUp s

/-- A zone at the placing of the tables (R136): an entry in use is evaluated, and a zone kept without an
entry becomes DRY. -/
def placeZone (z : Nat) (s : Shelf) : Shelf :=
  match zoneAt s z with
  | some _ => zoneEvaluation z s
  | none =>
    let moved := fun (x : Zone) => x.state ≠ .dry ∨ x.wet ≠ 0 ∨ x.unknown ≠ 0
    putZone z .table
      (fun x =>
        let y := { x with state := .dry, points := [], wet := 0, unknown := 0, timer := .stopped }
        if moved x then epochUp y else y) s

end Sys2Proof.Machine
end

