-- ==== Sys2Proof/Machine/Sequencer.lean ====
section
/-! DEFINITION. The Program Sequencer: the walk (R110 to R114), ends and halts (R115), holding and resuming
(R116), starting, aborting and autostart (R117 to R120). -/

namespace Sys2Proof.Machine

/-- Change the sequencer record. -/
def setSeq (f : Sequencer → Sequencer) (s : Shelf) : Shelf := { s with seq := f s.seq }

/-- The sequencer IDLE with a last outcome: pointer none, timers STOPPED (R112, R115). -/
def idleWith (o : RunOutcome) (q : Sequencer) : Sequencer :=
  { q with
    state := .idle, pointer := none, stepTimer := .stopped, delayTimer := .stopped
    outcome := some o }

/-- A run halts (R115). The HALTED last outcome carries the notice's source index as its step (R109 does not say
which step; log entry 62). -/
def haltRun (cause : HaltCause) (source word : Nat) (s : Shelf) : Shelf :=
  post srcProgram source ntProgramHalt (haltCauseNumber cause) word
    (setSeq (idleWith (.halted cause source)) s)

/-- An END step ends the run (R112, R115). -/
def endRun (step : Nat) (s : Shelf) : Shelf :=
  post srcProgram step ntProgramEnd (s.seq.entry.getD 0) s.seq.stepsTaken
    (setSeq (idleWith (.ended step)) s)

/-- The step at the pointer completes and names the step to follow (R110). -/
def completeStep (named : Nat) (s : Shelf) : Shelf :=
  let at_ := s.seq.pointer.getD 0
  let count := s.seq.runCount + 1
  let s := setSeq
    (fun q => { q with
      state := .running, runCount := count, stepTimer := .stopped, delayTimer := .stopped }) s
  if Config.loopLimit ≤ count then haltRun .loop at_ named s
  else if (stepAt s named).isSome then emit (.seqEnter named) s
  else haltRun .badStep at_ named s

/-- The condition of a waiting step (R113). -/
def stepCondition (s : Shelf) (e : StepEntry) : Bool :=
  match e.kind with
  | .awaitTrays =>
    (traysOfSet e.traySet).all fun t =>
      (trayAt s t).isNone || (trayState s t ≠ .queued && trayState s t ≠ .starting)
  | .awaitHeadroom => (e.argument : Int) ≤ s.balance.h
  | .awaitEnergy => e.argument * s.ride.eCap / 100 ≤ s.ride.eRem
  | .delay => e.argument = 0
  | .start | .branchZone | .finish => false

/-- A timer set at entry to a waiting step, for a number of milliseconds, none for 0 (R114). -/
def timerFor (now : Time) (ms : Nat) : Timer :=
  if ms = 0 then .stopped else .running (now + msTime ms)

/-- A step waits (R110, R114). In a ride state other than NORMAL, which no run finds here, it is HELD at once (R116; log
entry 39). -/
def waitAt (e : StepEntry) (s : Shelf) : Shelf :=
  let now := s.shelfTime
  let step := if e.kind = .delay then Timer.stopped else timerFor now e.timeout
  let delay := if e.kind = .delay then timerFor now e.argument else Timer.stopped
  let s := setSeq
    (fun q => { q with state := .waiting, runCount := 0, stepTimer := step, delayTimer := delay }) s
  if rideNormal s then s else holdSequencer s

/-- A step is entered and carried out under the rule of its kind (R110 to R113). -/
def enterStep (n : Nat) (s : Shelf) : Shelf :=
  match stepAt s n with
  | none => s
  | some e =>
    let s := setSeq
      (fun q => { q with
        state := .running, pointer := some n, stepsTaken := satInc q.stepsTaken }) s
    match e.kind with
    | .start => emit (.seqStart (traysOfSet e.traySet)) s
    | .branchZone => completeStep (if zoneWet s e.argument then e.alternate else e.next) s
    | .finish => endRun n s
    | .awaitTrays | .awaitHeadroom | .awaitEnergy | .delay =>
      if stepCondition s e then completeStep e.next s else waitAt e s

/-- A START step asks for its trays one by one, an admission evaluation after each (R111). The ride state is NORMAL
throughout: a record with DEFICIT that these requests give reaches the Ride-Through Controller after the walk
(`rideTurnOf`; log entry 39), so no tray enters QUEUED in RIDE (R93). -/
def startTrays (trays : List Nat) (s : Shelf) : Shelf :=
  if s.seq.state ≠ .running then s
  else
    match trays with
    | [] =>
      match s.seq.pointer.bind (stepAt s) with
      | some e => completeStep e.next s
      | none => s
    | t :: rest => postponeFirst (.seqStart rest) (requestAdmission t .program s)

/-- The step at the pointer, when the sequencer is WAITING at it. -/
def waitingStep (s : Shelf) : Option StepEntry :=
  if s.seq.state = .waiting then s.seq.pointer.bind (stepAt s) else none

/-- The waiting step tests its condition again (R113). -/
def testStep (s : Shelf) : Shelf :=
  match waitingStep s with
  | some e => if e.kind ≠ .delay ∧ stepCondition s e then completeStep e.next s else s
  | none => s

/-- The sequencer resumes on NORMAL (R116). No rule orders this resume and a record with DEFICIT of the same event that
still waits for the Ride-Through Controller as the ride state becomes NORMAL. DESIGN CHOICE: the record is taken first,
so that the resume finds RIDE, and the sequencer stays HELD and tests nothing (log entry 75). -/
def resumeSequencer (s : Shelf) : Shelf :=
  if s.seq.state = .held ∧ rideNormal s then
    testStep (setSeq
      (fun q => { q with
        state := .waiting
        stepTimer := thaw s.shelfTime q.stepTimer
        delayTimer := thaw s.shelfTime q.delayTimer }) s)
  else s

/-- The step timer expires (R114). -/
def stepExpiry (s : Shelf) : Shelf :=
  match waitingStep s with
  | some e => completeStep e.alternate s
  | none => s

/-- The delay timer expires (R113). -/
def delayExpiry (s : Shelf) : Shelf :=
  match waitingStep s with
  | some e => completeStep e.next s
  | none => s

/-- A run starts at an entry step (R117, R120). -/
def startRun (entry : Nat) (origin : Origin) (s : Shelf) : Shelf :=
  let s := setSeq
    (fun q => { q with
      state := .running, entry := some entry, origin := some origin, runCount := 0
      stepsTaken := 0, outcome := none, autostart := none }) s
  if (stepAt s entry).isSome then emit (.seqEnter entry) s
  else haltRun .badStep entry entry s

/-- The trays that an abort withdraws, from the head of the start queue (R118). -/
def programTrays (s : Shelf) : List Nat :=
  s.bay.queue.filter fun t => (vget s.bay.trays t).queuedBy = some .program

/-- A run is aborted: its queued trays are withdrawn, then it halts (R118, R119). -/
def abortRun (cause : HaltCause) (s : Shelf) : Shelf :=
  let trays := programTrays s
  emit (.seqHalt cause (s.seq.pointer.getD 0) trays.length) (emitAll (trays.map Task.withdraw) s)

/-- The shelf stop reaches the sequencer (R119). -/
def seqShelfStop (s : Shelf) : Shelf := if s.seq.state = .idle then s else abortRun .shelfStop s

/-- The autostart condition is tested (R120). -/
def autostartTest (s : Shelf) : Shelf :=
  match s.seq.autostart with
  | some entry => if autostartCondition s then startRun entry .autostart s else s
  | none => s

end Sys2Proof.Machine
end

