-- ==== Sys2Proof/Machine/Ports.lean ====
section
/-! DEFINITION. The downstream ports: presence (R144), reports and TELEMETRY copies (R145), the life of a
transaction (R143, R147, R148), the poll search (R142), the transaction arbiter (R146), and enabling and
disabling a port (R152, R153). -/

namespace Sys2Proof.Machine

/-! ### Presence -/

/-- Change what the Poll Engine keeps for a Roster entry. -/
def editModule (r : Nat) (f : Module → Module) (s : Shelf) : Shelf :=
  { s with modules := vmod s.modules r f }

/-- A module's absence reaches the owner of its kind, where the owner's entry names the Roster entry: the Module
Monitor for a PSM or BBM, the Tray Controller for a tray, none for a LEAK-NODE (R139). -/
def tellOwner (e : RosterEntry) (r : Nat) (s : Shelf) : Shelf :=
  match e.kind with
  | .psm => if (psmAt s e.index).any fun x => x.roster = r then psmAbsent e.index s else s
  | .bbm => if (bbmAt s e.index).any fun x => x.roster = r then bbmAbsent e.index s else s
  | .tray => if (trayAt s e.index).any fun x => x.roster = r then trayAbsent e.index s else s
  | .leakNode => s

/-- A change to ABSENT of the module that an entry gives is handed to its owner and to the Signal Screen (R139,
R144), the Signal Screen's change after the owner's (R27; log entry 43). -/
def tellAbsent (e : RosterEntry) (r : Nat) (s : Shelf) : Shelf :=
  emit (.signalsStale r) (tellOwner e r s)

/-- Every signal fed from a Roster entry becomes STALE (R21). -/
def signalsStale (r : Nat) (s : Shelf) : Shelf := staleAll (fedFrom s r) s

/-- PORT-ERROR for a module absent by misses (R144). -/
def absentNotice (e : RosterEntry) (r : Nat) (s : Shelf) : Shelf :=
  post srcPort (portNumber e.port) ntPortError (twoItems 0 r) e.address s

/-- The module that an entry gives becomes ABSENT, by misses or otherwise (R144, R153, R154). PORT-ERROR is
posted ahead of the notices of its owners; R144 gives no order (log entry 63). -/
def moduleAbsentAs (e : RosterEntry) (r : Nat) (missed : Bool) (s : Shelf) : Shelf :=
  if (vget s.modules r).presence = .absent then editModule r (fun m => { m with misses := 0 }) s
  else
    let s := editModule r (fun m => { m with presence := .absent, misses := 0 }) s
    tellAbsent e r (if missed then absentNotice e r s else s)

/-- The module of a Roster entry as it stands becomes ABSENT (R144, R153); an entry not in use has none. -/
def moduleAbsent (r : Nat) (missed : Bool) (s : Shelf) : Shelf :=
  match rosterAt s r with
  | some e => moduleAbsentAs e r missed s
  | none => s

/-- A failed transaction is a miss for its target (R144). -/
def countMiss (r : Nat) (s : Shelf) : Shelf :=
  if 3 ≤ (vget s.modules r).misses + 1 then
    emit (.moduleAbsent r true) (editModule r (fun m => { m with misses := 0 }) s)
  else editModule r (fun m => { m with misses := m.misses + 1 }) s

/-! ### Reports -/

/-- Offer a TELEMETRY copy: the oldest is discarded when the class is full (R167). -/
def offerTelemetry (f : Frame) (s : Shelf) : Shelf :=
  if s.telemetry.length < Config.telemetryDepth then { s with telemetry := s.telemetry ++ [f] }
  else
    { s with telemetry := s.telemetry.tail ++ [f], telemetryDrops := satInc s.telemetryDrops }

/-- The forward interval has passed since the last copy (R145). -/
def forwardDue (e : RosterEntry) (m : Module) (now : Time) : Bool :=
  match m.lastCopy with
  | none => true
  | some t => reached now (t + msTime e.interval)

/-- The TELEMETRY copy of an answered report, where one is due (R145). -/
def copyReport (r : Nat) (payload : List Byte) (s : Shelf) : Shelf :=
  match rosterAt s r with
  | some e =>
    if e.forward && forwardDue e (vget s.modules r) s.shelfTime then
      offerTelemetry
        { address := 0, kind := kindTelemetry
          payload := be8 e.address ++ beTime s.shelfTime ++ payload.take 54 }
        (editModule r (fun m => { m with lastCopy := some s.shelfTime }) s)
    else s
  | none => s

/-! ### Transactions -/

/-- Change a port's Poll Engine by a function. -/
def editPoll (p : Port) (f : PollEngine → PollEngine) (s : Shelf) : Shelf :=
  setPoll p (f (pollEngine s p)) s

/-- Change a port's Port Engine by a function. -/
def editEngine (p : Port) (f : PortEngine → PortEngine) (s : Shelf) : Shelf :=
  setEngine p (f (engine s p)) s

/-- A frame is discarded as stray (R143). -/
def countStray (p : Port) (s : Shelf) : Shelf :=
  editEngine p (fun e => { e with stray := satInc e.stray }) s

/-- A POLL ends answered with a REPORT (R144, R145): presence, then the report and its copy. A module left unlisted
since the POLL was begun becomes PRESENT too (log entry 64). -/
def pollAnswered (r : Nat) (payload : List Byte) (s : Shelf) : Shelf :=
  let s := editModule r (fun m => { m with presence := .present, misses := 0 }) s
  copyReport r payload (takeReport r (reportPairs payload) s.shelfTime s)

/-- The transaction in flight ends answered by a frame (R143, R144, R147, R148). -/
def endAnswered (p : Port) (tx : Transaction) (f : Frame) (s : Shelf) : Shelf :=
  let pe := pollEngine s p
  let s := setPoll p { pe with inFlight := none } s
  if tx.discarded then s
  else
    let status := f.payload.getD 1 0
    match tx.kind with
    | .poll => pollAnswered tx.roster f.payload s
    | .control =>
      let s := editModule tx.roster (fun m => { m with misses := 0 }) s
      match pe.inProgress with
      | some x =>
        emitAll (outcomeTasks x.order (.ack status))
          (setPoll p { pe with inFlight := none, inProgress := none } s)
      | none => s
    | .command =>
      answerOrder tx.address (tx.code.getD 0) status
        (editModule tx.roster (fun m => { m with misses := 0 }) s)

/-- The transaction in flight ends failed (R143, R144, R147, R148): the outcome of an order first, then
the miss. -/
def endFailed (p : Port) (tx : Transaction) (s : Shelf) : Shelf :=
  let pe := pollEngine s p
  let s := setPoll p { pe with inFlight := none } s
  if tx.discarded then s
  else
    match tx.kind with
    | .poll => countMiss tx.roster s
    | .control =>
      match pe.inProgress with
      | some x =>
        if 3 ≤ x.attempt then
          countMiss tx.roster
            (emitAll (outcomeTasks x.order .noAnswer)
              (setPoll p { pe with inFlight := none, inProgress := none } s))
        else countMiss tx.roster s
      | none => countMiss tx.roster s
    | .command =>
      countMiss tx.roster (answerOrder tx.address (tx.code.getD 0) ackNoAnswer s)

/-- A frame is the reply that a transaction awaits (R143). -/
def isReply (tx : Transaction) (f : Frame) : Bool :=
  f.address = tx.address &&
    match tx.kind with
    | .poll => f.kind = kindReport
    | .control | .command =>
      f.kind = kindOrderAck && f.payload.length = 2 && f.payload.head? = tx.code

/-- A REPORT that is damaged for a transaction's purpose (R143). -/
def isMalformedReport (f : Frame) : Bool := f.kind = kindReport && !reportWhole f.payload

/-- What a downstream port's receive queue delivers is judged (R143; log entry 15). -/
def judge (p : Port) (x : RxEntry) (s : Shelf) : Shelf :=
  match (pollEngine s p).inFlight with
  | some tx =>
    if isRunning tx.timer then
      match x with
      | .damage => endFailed p tx s
      | .frame f =>
        if isMalformedReport f then
          endFailed p tx (editEngine p (fun e => { e with damaged := satInc e.damaged }) s)
        else if isReply tx f then endAnswered p tx f s
        else countStray p s
    else countStray p s
  | none => countStray p s

/-! ### Polling (R142) -/

/-- The module of an in-use list position whose Roster entry is in use on the port. -/
def pollTarget (s : Shelf) (p : Port) (i : Nat) : Option Nat :=
  match pollAt s p i with
  | some r => if (rosterAt s r).any fun e => e.port = p then some r else none
  | none => none

/-- The poll source is available (R142, R146). -/
def pollAvailable (s : Shelf) (p : Port) : Bool :=
  !isRunning (pollEngine s p).emptyTimer && (List.range 32).any fun i => (pollTarget s p i).isSome

/-- The circular search for the next due position, at most `n` steps from a position: the position found
with its module, and the pass number after (R142). -/
def pollSearch (s : Shelf) (p : Port) : Nat → Nat → Nat → Option (Nat × Nat) × Nat
  | 0, _, pass => (none, pass)
  | n + 1, at_, pass =>
    let next := (at_ + 1) % 32
    let pass := if next = 0 then (pass + 1) % 8 else pass
    match pollTarget s p next with
    | some r =>
      if (vget s.modules r).presence ≠ .absent ∨ pass = 0 then (some (next, r), pass)
      else pollSearch s p n next pass
    | none => pollSearch s p n next pass

/-! ### The transaction arbiter (R146) -/

/-- A transaction begins: its frame is loaded, and moves to the idle shifter (R143, R162). -/
def beginTx (p : Port) (tx : Transaction) (f : Frame) (s : Shelf) : Shelf :=
  editEngine p (fun e => { e with shifter := some ⟨f, false⟩, began := s.shelfTime })
    (editPoll p
      (fun x => { x with
        inFlight := some tx
        nonPollRun := if tx.kind = .poll then 0 else min (x.nonPollRun + 1) 3 }) s)

/-- An ORDER frame (R163). -/
def orderFrame (address code : Byte) (argument : Nat) : Frame :=
  { address, kind := kindOrder, payload := code :: be16 argument }

/-- The address byte of a Roster entry. -/
def rosterAddress (s : Shelf) (r : Nat) : Byte :=
  BitVec.ofNat 8 (((rosterAt s r).map (·.address)).getD 0)

/-- A poll is taken, or the pass is found empty (R142): whether a transaction began, and the state. -/
def tryPoll (p : Port) (s : Shelf) : Bool × Shelf :=
  if pollAvailable s p then
    let pe := pollEngine s p
    match pollSearch s p 32 pe.position pe.pass with
    | (some (i, r), pass) =>
      let address := rosterAddress s r
      (true, beginTx p
        { kind := .poll, roster := r, address, code := none, attempt := none, timer := .stopped,
          discarded := false }
        { address, kind := kindPoll, payload := [] }
        (editPoll p (fun x => { x with position := i, pass }) s))
    | (none, pass) =>
      let expiry := s.shelfTime + msTime (engine s p).settings.replyTimeout
      (false, editPoll p (fun x => { x with pass, emptyTimer := .running expiry }) s)
  else (false, s)

/-- An attempt of a control order begins (R147). -/
def beginAttempt (p : Port) (x : Progress) (s : Shelf) : Shelf :=
  beginTx p
    { kind := .control, roster := x.order.roster, address := x.order.address, code := some x.order.code,
      attempt := some x.attempt, timer := .stopped, discarded := false }
    (orderFrame x.order.address x.order.code x.order.argument)
    (editPoll p (fun e => { e with inProgress := some x }) s)

/-- A relayed order is sent (R148). -/
def beginCommand (p : Port) (o : RelayedOrder) (s : Shelf) : Shelf :=
  beginTx p
    { kind := .command, roster := o.roster, address := o.address, code := some o.code,
      attempt := none, timer := .stopped, discarded := false }
    (orderFrame o.address o.code o.argument) s

/-- The sources after the first: an attempt, the control queue, the command queue, a poll (R146). -/
def arbitrateOrders (p : Port) (s : Shelf) : Shelf :=
  let pe := pollEngine s p
  match pe.inProgress, pe.control, pe.command with
  | some x, _, _ => beginAttempt p { x with attempt := x.attempt + 1 } s
  | none, o :: rest, _ =>
    beginAttempt p ⟨o, 1⟩ (setPoll p { pe with control := rest } s)
  | none, [], o :: rest => beginCommand p o (setPoll p { pe with command := rest } s)
  | none, [], [] => (tryPoll p s).2

/-- A downstream port chooses its next transaction, when it is ENABLED with none in flight (R146). -/
def arbitrate (p : Port) (s : Shelf) : Shelf :=
  let e := engine s p
  if p ≠ .up ∧ e.enabled ∧ (pollEngine s p).inFlight = none ∧ e.buffer = none ∧ e.shifter = none then
    if (pollEngine s p).nonPollRun = 3 then
      match tryPoll p s with
      | (true, s) => s
      | (false, s) => arbitrateOrders p s
    else arbitrateOrders p s
  else s

/-! ### Enabling and disabling (R152, R153) -/

/-- The miss count of every module on a port becomes 0 (R152). -/
def clearMisses (p : Port) (s : Shelf) : Shelf :=
  (modulesOn s p).foldl (fun s r => editModule r (fun m => { m with misses := 0 }) s) s

/-- A downstream port is enabled (R152). -/
def enablePort (p : Port) (s : Shelf) : Shelf :=
  let settings := portEntry s p
  clearMisses p
    (editPoll p
      (fun x => { x with position := 31, pass := 7, nonPollRun := 0, emptyTimer := .stopped })
      (editEngine p
        (fun e => { e with
          enabled := true, settings, assembling := none, rx := [], buffer := none
          shifter := none }) s))

/-- The outcome of what was in flight or in progress at a disable (R153, item 1). -/
def abandonFlight (pe : PollEngine) (s : Shelf) : Shelf :=
  let s :=
    match pe.inProgress with
    | some x => emitAll (outcomeTasks x.order .portOff) s
    | none => s
  match pe.inFlight with
  | some tx =>
    if tx.kind = .command ∧ !tx.discarded then
      answerOrder tx.address (tx.code.getD 0) ackPortOff s
    else s
  | none => s

/-- Relayed orders are answered PORT-OFF (R153, item 3; R154). -/
def refuseRelayed (os : List RelayedOrder) (s : Shelf) : Shelf :=
  os.foldl (fun s o => answerOrder o.address o.code ackPortOff s) s

/-- Of these modules, those that are not ABSENT become ABSENT (R140, R153, item 5; R187), in ascending order of
their Roster entries (log entry 60). -/
def absentAll (rs : List Nat) (s : Shelf) : Shelf :=
  emitAll ((rs.filter fun r => (vget s.modules r).presence ≠ .absent).map fun r =>
    Task.moduleAbsent r false) s

/-- A downstream port is disabled (R153; log entry 23). -/
def disablePort (p : Port) (s : Shelf) : Shelf :=
  let pe := pollEngine s p
  let s := setPoll p
    { pe with
      inFlight := none, inProgress := none, control := [], command := [], emptyTimer := .stopped } s
  let s := editEngine p
    (fun e => { e with
      enabled := false, assembling := none, rx := [], buffer := none, shifter := none }) s
  let s := abandonFlight pe s
  let s := emitAll (pe.control.flatMap fun o => outcomeTasks o .portOff) s
  absentAll (modulesOn s p) (refuseRelayed pe.command s)

end Sys2Proof.Machine
end

