-- ==== Sys2Proof/Machine/Tables.lean ====
section
/-! DEFINITION. The working tables as a whole: validation (R9, R11, R13, R16, R43, R49, R86, R108, R122,
R139, R140, R151, R158, R172), the edit window (R174, R175, R179), and what READ-TABLE returns (R173). -/

namespace Sys2Proof.Machine

/-! ### Validation -/

/-- The record of entry `i` in a table as it would stand. -/
def recordOf (recs : List Record) (i : Nat) : Record := recs.getD i []

/-- An entry's in-use flag is set. -/
def flagged (r : Record) : Bool := field8 r 0 = 1

/-- Another in-use entry of the table has the same key as entry `i`. -/
def sharesKey (recs : List Record) (i : Nat) (key : Record → Nat) : Bool :=
  (List.range recs.length).any fun j =>
    j ≠ i && flagged (recordOf recs j) && key (recordOf recs j) = key (recordOf recs i)

/-- A field of an in-use entry that may be out of use: out of use passes, any other flag fails (log
entry 26). -/
def usedEntryFails (r : Record) (fails : Bool) : Bool :=
  if field8 r 0 = 0 then false else if flagged r then fails else true

/-- Port entries (R158): ranges, and pulse mode for TP alone. -/
def portFails (recs : List Record) (i : Nat) : Bool :=
  match decodePort (recordOf recs i) with
  | some e => e.pulse && i ≠ 2
  | none => true

/-- Roster entries (R139). -/
def rosterFails (recs : List Record) (i : Nat) : Bool :=
  let r := recordOf recs i
  (match decodeRoster r with
    | some e => e.port ≠ kindPort e.kind
    | none => true) ||
    sharesKey recs i (fun x => field8 x 1) || sharesKey recs i (fun x => field8 x 3 * 256 + field8 x 4)

/-- Poll list positions (R140): a Roster entry is named once in each list of 32. -/
def pollFails (recs : List Record) (i : Nat) : Bool :=
  let r := recordOf recs i
  (decodePoll r).isNone ||
    (List.range recs.length).any fun j =>
      j ≠ i && j / 32 = i / 32 && flagged (recordOf recs j) && field8 (recordOf recs j) 1 = field8 r 1

/-- Sample Map entries (R13). -/
def sampleFails (recs : List Record) (i : Nat) : Bool :=
  (decodeSample (recordOf recs i)).isNone || sharesKey recs i (fun x => field8 x 3) ||
    sharesKey recs i (fun x => field8 x 1 * 256 + field8 x 2)

/-- Another sense line has the same role and role index, whatever its other fields hold (R9, R176). -/
def sharesLine (recs : List Record) (i : Nat) : Bool :=
  (List.range Config.senseCount).any fun j =>
    j ≠ i && (recordOf recs j).take 2 = (recordOf recs i).take 2

/-- Line entries (R9, R11). -/
def lineFails (recs : List Record) (i : Nat) : Bool :=
  if i < Config.senseCount then
    match decodeSense (recordOf recs i) with
    | some e => (e.role = .inputLoss || e.role = .trayGood) && sharesLine recs i
    | none => true
  else (decodeDrive (recordOf recs i)).isNone

/-- PSM parameters entries (R43). -/
def psmFails (s : Shelf) (recs : List Record) (i : Nat) : Bool :=
  match decodePsm (recordOf recs i) with
  | some e =>
    !rosterIs s e.roster .psm i || e.voltage = e.current || sharesKey recs i (fun x => field8 x 1)
  | none => true

/-- BBM parameters entries (R49). -/
def bbmFails (s : Shelf) (recs : List Record) (i : Nat) : Bool :=
  match decodeBbm (recordOf recs i) with
  | some e =>
    !rosterIs s e.roster .bbm i || e.energy = e.discharge || sharesKey recs i (fun x => field8 x 1)
  | none => true

/-- Trays entries (R86). -/
def trayFails (s : Shelf) (recs : List Record) (i : Nat) : Bool :=
  match decodeTray (recordOf recs i) with
  | some e =>
    !rosterIs s e.roster .tray i || sharesKey recs i (fun x => field8 x 1) ||
      sharesKey recs i (fun x => field8 x 10)
  | none => true

/-- Zones entries (R122). -/
def zoneFails (recs : List Record) (i : Nat) : Bool :=
  match decodeZone (recordOf recs i) with
  | some e =>
    !decide e.points.Nodup || (e.confirmTime = 0 && e.points.length < e.confirmCount)
  | none => true

/-- A code and kind of the built-in intercepts (R150). -/
def builtIn (kind : ModuleKind) (code : Byte) : Bool :=
  (kind = .tray && (code = codeOutputOn || code = codeOutputOff)) ||
    (kind = .bbm && (code = codeCharge || code = codeDischarge || code = codeHold))

/-- Guard entries (R151). -/
def guardFails (recs : List Record) (i : Nat) : Bool :=
  match decodeGuard (recordOf recs i) with
  | some e =>
    builtIn e.kind e.code || (e.action = .supplyCheck && e.kind ≠ .psm) ||
      sharesKey recs i (fun x => field8 x 1 * 256 + field8 x 2)
  | none => true

/-- Entry `i` of table `t` fails a check, or takes part in a conflict, in the table as it would stand;
other tables are taken as they stand (R176). -/
def entryFails (s : Shelf) (t : Nat) (recs : List Record) (i : Nat) : Bool :=
  let r := recordOf recs i
  if t = tPolicy then (decodePolicy r).isNone
  else if t = tPort then portFails recs i
  else if t = tRoster then usedEntryFails r (rosterFails recs i)
  else if t = tPoll then usedEntryFails r (pollFails recs i)
  else if t = tSample then usedEntryFails r (sampleFails recs i)
  else if t = tLimits then (decodeLimits r).isNone
  else if t = tLine then lineFails recs i
  else if t = tPsm then usedEntryFails r (psmFails s recs i)
  else if t = tBbm then usedEntryFails r (bbmFails s recs i)
  else if t = tTrays then usedEntryFails r (trayFails s recs i)
  else if t = tZones then usedEntryFails r (zoneFails recs i)
  else if t = tSequence then usedEntryFails r (decodeStep r).isNone
  else usedEntryFails r (guardFails recs i)

/-- A whole table passes its validation (R186). -/
def tableValid (s : Shelf) (t : Nat) (recs : List Record) : Bool :=
  (List.range (tableSize t)).all fun i => !entryFails s t recs i

/-! ### The edit window -/

/-- The expiry of the idle timer, restarted now (R175). -/
def idleTimer (s : Shelf) : Timer := .running (s.shelfTime + BitVec.ofNat 32 Config.editIdle)

/-- Change the open window. -/
def editWindow (f : Window → Window) (s : Shelf) : Shelf := { s with window := s.window.map f }

/-- The latched record of an entry, if the open window holds one (R174). -/
def latchedAt (w : Window) (i : Nat) : Option Record :=
  if w.first ≤ i ∧ i < w.first + w.count then (w.latched.getD (i - w.first) none) else none

/-- The entries with a latched record, ascending (R176). -/
def latchedEntries (w : Window) : List Nat :=
  (List.range w.count).filterMap fun j =>
    if (w.latched.getD j none).isSome then some (w.first + j) else none

/-- The table as it would stand after the apply (R176). -/
def tableAfter (s : Shelf) (w : Window) : List Record :=
  (List.range (tableSize w.table)).map fun i => (latchedAt w i).getD (recordAt s w.table i)

/-- The lowest-numbered latched entry that fails (R176). -/
def firstFailing (s : Shelf) (w : Window) : Option Nat :=
  (latchedEntries w).find? fun i => entryFails s w.table (tableAfter s w) i

/-- A range lies in a table, with a count of 1 to `most` (R173, R175). -/
def rangeIn (table first count most : Nat) : Bool :=
  table ≤ 12 && 1 ≤ count && count ≤ most && first + count ≤ tableSize table

/-- The records of a range with the latched mask, as READ-TABLE carries them (R173). -/
def readRange (s : Shelf) (table first count : Nat) : List Byte :=
  let latched := fun i =>
    match s.window with
    | some w => if w.table = table then latchedAt w i else none
    | none => none
  let is := (List.range count).map fun j => first + j
  let mask := bitSet ((List.range count).filter fun j => (latched (first + j)).isSome)
  be8 table ++ be8 first ++ be8 count ++ be8 mask ++
    (is.map fun i => (latched i).getD (recordAt s table i)).flatten

/-- The result of a request: its status and the data of its answer. -/
abbrev Answer := Byte × List Byte

/-- READ-TABLE (R173). -/
def readTable (table first count : Nat) (s : Shelf) : Answer :=
  if rangeIn table first count (mostPerRead.getD table 0) then
    (stDone, readRange s table first count)
  else (stInvalid, [])

/-- EDIT-OPEN (R175). -/
def openWindow (table first count : Nat) (s : Shelf) : Byte × Shelf :=
  if !rangeIn table first count 8 then (stInvalid, s)
  else if s.window.isSome then (stBusy, s)
  else if rangeProtected s table first count then (stProtected, s)
  else
    (stDone,
      { s with
        window := some
          { table, first, count, latched := List.replicate count none, idle := idleTimer s } })

/-- EDIT-WRITE (R175): the idle timer restarts whatever the answer. -/
def writeWindow (entry : Nat) (record : Record) (s : Shelf) : Byte × Shelf :=
  match s.window with
  | none => (stNoWindow, s)
  | some w =>
    let restarted := { w with idle := idleTimer s }
    if entry < w.first ∨ w.first + w.count ≤ entry then
      (stNoWindow, { s with window := some restarted })
    else if record.length ≠ recordLength w.table then
      (stInvalid, { s with window := some restarted })
    else
      (stDone,
        { s with
          window := some
            { restarted with latched := w.latched.set (entry - w.first) (some record) } })

/-- EDIT-DISCARD (R179). -/
def discardWindow (s : Shelf) : Byte × Shelf :=
  match s.window with
  | none => (stNoWindow, s)
  | some _ => (stDone, { s with window := none })

/-- The idle timer expires (R179). -/
def expireWindow (s : Shelf) : Shelf :=
  match s.window with
  | none => s
  | some w =>
    post srcTable w.table ntEditExpired (twoItems w.first w.count) (latchedEntries w).length
      { s with window := none }

end Sys2Proof.Machine
end

