-- ==== Sys2Proof/Machine/Reads.lean ====
section
/-! DEFINITION. The data of the read answers, each under the layout scheme of R163 (log entry 24): READ-LINE
(R8), READ-SIGNAL (R24), READ-BALANCE (R41), READ-MODULE (R61), READ-RIDE (R84), READ-TRAY and READ-QUEUE
(R107), READ-PROGRAM (R121), READ-ZONE (R134), READ-POLL (R155) and READ-PORT (R169). -/

namespace Sys2Proof.Machine

/-- A timer: its state, then its expiry, its time remaining or 0 (R163). -/
def beTimer (t : Timer) : List Byte :=
  be8 (timerStateNumber t) ++
    match t with
    | .stopped => be32 0
    | .running x => beTime x
    | .frozen x => beTime x

/-- A range of a first item and a count of 1 to `most` lies below `size` (R24, R107, R155). -/
def rangeOk (first count most size : Nat) : Bool := 1 ≤ count && count ≤ most && first + count ≤ size

/-- A logical state, or a line state: ACTIVE 0, INACTIVE 1 (R3, R44, R164). -/
def activeNumber (active : Bool) : Nat := if active then 0 else 1

/-! ### READ-LINE (R8) -/

/-- A sense line's fields (R8). -/
def senseData (s : Shelf) (l : Nat) : List Byte :=
  let e := senseAt s l
  let r := vget s.lines l
  encodeSense e ++ be8 (levelNumber r.accepted) ++ be8 (activeNumber (lineActive s l)) ++
    be8 (edgeNumber r.capture.edge) ++ beTime r.capture.latest ++ beTime r.capture.previous ++
    beFlag r.capture.captured ++ beFlag r.capture.missed

/-- A drive line's fields (R8). -/
def driveData (s : Shelf) (d : Nat) : List Byte :=
  let e := driveAt s d
  be8 (driveRoles.idxOf e.role) ++ be8 e.index ++ be8 (levels.idxOf e.active) ++
    be8 (levels.idxOf (vget s.drives d))

/-- CAPTURED and MISSED of a sense line are cleared (R8). -/
def clearCapture (l : Nat) (s : Shelf) : Shelf :=
  editLine l (fun r => { r with capture := { r.capture with captured := false, missed := false } }) s

/-- READ-LINE (R8). -/
def readLine (line : Nat) (s : Shelf) : Answer × Shelf :=
  if line < Config.senseCount then ((stDone, senseData s line), clearCapture line s)
  else if line < Config.senseCount + Config.driveCount then
    ((stDone, driveData s (line - Config.senseCount)), s)
  else ((stInvalid, []), s)

/-! ### READ-SIGNAL (R24) -/

/-- One signal record (R24). -/
def signalData (s : Shelf) (n : Nat) : List Byte :=
  let g := vget s.signals n
  let e := feeding s n
  be16 g.value ++ be8 (bandNumber g.band) ++ beOpt8 (g.pending.map bandNumber) ++ be8 g.count ++
    beTime g.last ++ beFlag g.stale ++ beOpt8 (e.map fun x => signalKinds.idxOf x.kind) ++
    beOpt8 (e.map (·.limitSet))

/-- READ-SIGNAL (R24). -/
def readSignal (first count : Nat) (s : Shelf) : Answer :=
  if rangeOk first count 8 Config.signalCount then
    (stDone, ((List.range count).map fun j => signalData s (first + j)).flatten)
  else (stInvalid, [])

/-! ### READ-BALANCE (R41) -/

/-- The balance record, an entry not in use as 0 with its mark clear (R41). -/
def balanceData (s : Shelf) : List Byte :=
  let b := s.balance
  let psm := fun i (x : List Byte) (none : List Byte) => if (psmAt s i).isSome then x else none
  let p := (List.range Config.psmCount).map fun i =>
    psm i (be16 (vget b.p i) ++ beFlag (vget b.pHeld i)) [0, 0, 0]
  let d := (List.range Config.bbmCount).map fun k =>
    if (bbmAt s k).isSome then be16 (vget b.b k) ++ beFlag (vget b.bHeld k) else [0, 0, 0]
  let g := (List.range Config.psmCount).map fun i => psm i (be16 (vget b.g i)) [0, 0]
  p.flatten ++ d.flatten ++ g.flatten ++ be32 b.m ++ be32 b.sGrid ++ be16 b.q ++ be32 b.sAdm ++
    be32 b.k ++ be32 b.c ++ beInt32 b.h0 ++ beInt32 b.h ++ be32 b.d ++ beFlag b.held ++
    beFlag b.overcommit ++ beFlag b.deficit ++ be16 (bitSet (b.causes.map causeNumber)) ++
    beTime b.time ++ be16 b.count

/-! ### READ-MODULE (R61) -/

/-- A PSM's record (R61). -/
def psmData (s : Shelf) (i : Nat) : List Byte :=
  let r := vget s.psms i
  be8 (psmStateNumber r.state) ++ be8 (psmReasonNumber r.reason) ++
    beItem (r.status.map fun c => beFlag c.inputOk ++ beFlag c.outputOk ++ beFlag c.fault) ++
    be8 (activeNumber r.lineActive) ++ beFlag r.inputHold ++ beTime r.stateTime

/-- A BBM's record, with the charge figures (R61). -/
def bbmData (s : Shelf) (k : Nat) : List Byte :=
  let r := vget s.bbms k
  be8 (bbmStateNumber r.state) ++ beOpt8 (r.fault.map bbmFaultNumber) ++ beFlag r.full ++
    beFlag r.seen ++ beOpt16 r.ordered ++ be16 r.acknowledged ++ beTime r.stateTime ++
    be32 (chargeAllocation s) ++ be16 (headNeed s) ++ be32 s.chargeBudget

/-- READ-MODULE (R61): kind PSM 0 or BBM 1. -/
def readModule (kind index : Nat) (s : Shelf) : Answer :=
  if 1 < kind ∨ 5 < index then (stInvalid, [])
  else if kind = 0 then
    if (psmAt s index).isSome then (stDone, psmData s index) else (stNoEntry, [])
  else if (bbmAt s index).isSome then (stDone, bbmData s index)
  else (stNoEntry, [])

/-! ### READ-RIDE (R84) -/

/-- A ride summary (R83). -/
def summaryData (x : Summary) : List Byte :=
  beTime x.entry ++ be8 (rideCauseNumber x.cause) ++ be32 x.anchor ++ beOptTime x.returnTime ++
    beOptTime x.normalTime ++ beOpt32 x.used ++ be16 x.shedCount ++ be16 x.returns ++
    be16 x.smallestT ++ beFlag x.depleted

/-- The qualify timer, with its start time when RUNNING (R84). -/
def qualifyData : Option Time → List Byte
  | some t => be8 1 ++ beTime t
  | none => be8 0 ++ be32 0

/-- What READ-RIDE carries (R84). -/
def rideData (s : Shelf) : List Byte :=
  let r := s.ride
  be8 (rideStateNumber r.state) ++ be32 r.eRem ++ be8 r.r ++ be32 r.eCap ++ be32 r.eAnchor ++
    be32 r.eUse ++ be32 r.dProj ++ be32 r.bMax ++ be16 r.t ++ qualifyData r.qualify ++
    be8 (if r.tick.isSome then 1 else 0) ++ beList (s.bay.stack.map be8) ++
    beItem (r.closedSummary.map summaryData) ++ beItem (r.openSummary.map summaryData)

/-! ### READ-TRAY and READ-QUEUE (R107) -/

/-- A tray's place in the start queue or the restore stack, counted from 0 at the head or the top, or none
(R107; log entry 54). -/
def trayPlace (s : Shelf) (t : Nat) : Option Nat :=
  if t ∈ s.bay.queue then some (s.bay.queue.idxOf t)
  else if t ∈ s.bay.stack then some (s.bay.stack.idxOf t)
  else none

/-- One tray, in use or not (R107). -/
def trayData (s : Shelf) (t : Nat) : List Byte :=
  let r := vget s.bay.trays t
  beItem (if (trayAt s t).isSome then
    some (be8 (trayStateNumber r.state) ++ beOpt8 (r.fault.map trayFaultNumber) ++
      be8 (seenNumber r.seen) ++ be8 (awaitedNumber r.awaited) ++ beTimer r.startTimer ++
      beTime r.enableTime ++ beTime r.duration ++ beOpt8 (r.queuedBy.map queuedByNumber) ++
      beTime r.stateTime ++ beOpt8 (trayPlace s t))
    else none)

/-- READ-TRAY (R107). -/
def readTray (first count : Nat) (s : Shelf) : Answer :=
  if rangeOk first count 8 Config.trayCount then
    (stDone, ((List.range count).map fun j => trayData s (first + j)).flatten)
  else (stInvalid, [])

/-- What READ-QUEUE carries (R107). -/
def queueData (s : Shelf) : List Byte :=
  beList (s.bay.queue.map be8) ++ be16 (headNeed s) ++ be8 (traysIn s .starting).length ++
    be8 (policy s).startWindow ++ beFlag (adoptionComplete s) ++ beFlag s.shelfStop

/-! ### READ-PROGRAM (R121) -/

/-- How the last run stopped (R109): ENDED 0 with its step, or HALTED 1 with cause and step. -/
def outcomeData : RunOutcome → List Byte
  | .ended step => be8 0 ++ be8 step
  | .halted cause step => be8 1 ++ be8 (haltCauseNumber cause) ++ be8 step

/-- The kind of the step at the pointer, and the trays it still waits for (R121). -/
def pointerData (s : Shelf) : List Byte :=
  match s.seq.pointer.bind (stepAt s) with
  | none => []
  | some e =>
    be8 (stepKinds.idxOf e.kind) ++
      if e.kind = .awaitTrays then
        be24 (bitSet ((traysOfSet e.traySet).filter fun t =>
          (trayAt s t).isSome && (trayState s t = .queued || trayState s t = .starting)))
      else []

/-- What READ-PROGRAM carries (R121). -/
def programData (s : Shelf) : List Byte :=
  let q := s.seq
  be8 (seqStateNumber q.state) ++ beOpt8 q.pointer ++ beOpt8 q.entry ++
    beOpt8 (q.origin.map originNumber) ++ be8 q.runCount ++ be16 q.stepsTaken ++ beTimer q.stepTimer ++
    beTimer q.delayTimer ++ beItem (q.outcome.map outcomeData) ++ beFlag q.autostart.isSome ++
    pointerData s

/-! ### READ-ZONE (R134) -/

/-- The points of a zone with their states, as a list (R134). -/
def pointData (e : ZoneEntry) (x : Zone) : List Byte :=
  beList (List.zipWith (fun p st => bePoint p ++ be8 (pointStateNumber st)) e.points x.points)

/-- What READ-ZONE carries for a zone in use (R134). -/
def zoneData (s : Shelf) (z : Nat) (e : ZoneEntry) : List Byte :=
  let x := vget s.zones z
  (encodeZone e).drop 1 ++ be8 (zoneStateNumber x.state) ++ be8 x.wet ++ be8 x.unknown ++
    be8 x.epoch.toNat ++ pointData e x ++ beTimer x.timer ++ beTime x.firstWet ++ beTime x.latch ++
    beList ((zoneTrays s z).map fun t => be8 t ++ be8 (trayStateNumber (trayState s t)))

/-- READ-ZONE (R134). -/
def readZone (zone : Nat) (s : Shelf) : Answer :=
  if 7 < zone then (stInvalid, [])
  else
    match zoneAt s zone with
    | none => (stNoEntry, [])
    | some e => (stDone, zoneData s zone e)

/-! ### READ-POLL (R155) -/

/-- The transaction in flight (R155). -/
def flightData (tx : Transaction) : List Byte :=
  be8 (txKindNumber tx.kind) ++ [tx.address] ++ beOpt8 (tx.code.map BitVec.toNat) ++
    beOpt8 tx.attempt ++ beTimer tx.timer

/-- The order in progress with its attempt number (R155): the attempt last begun, also while the next one waits (log
entry 65). R155 lists no other field of it; the model sends its Roster entry, address, code and argument, the
argument in 2 bytes, before the attempt number (log entry 24). -/
def progressData (x : Progress) : List Byte :=
  be8 x.order.roster ++ [x.order.address, x.order.code] ++ be16 x.order.argument ++ be8 x.attempt

/-- One position of a poll list (R155): its flag, the Roster entry that it holds, in use or not, and the presence and
miss count of that entry's module, none where the entry is not in use (log entry 24). -/
def positionData (s : Shelf) (p : Port) (i : Nat) : List Byte :=
  let r := positionRoster s p i
  let m := (rosterAt s r).map fun _ => vget s.modules r
  beFlag (pollAt s p i).isSome ++ be8 r ++ beOpt8 (m.map fun x => presenceNumber x.presence) ++
    beOpt8 (m.map (·.misses))

/-- What READ-POLL carries (R155). -/
def pollData (s : Shelf) (p : Port) (first count : Nat) : List Byte :=
  let e := engine s p
  let x := pollEngine s p
  be8 (portStateNumber e.enabled) ++ be8 e.settings.replyTimeout ++ be8 x.position ++ be8 x.pass ++
    be8 x.nonPollRun ++ beTimer x.emptyTimer ++ beItem (x.inFlight.map flightData) ++
    beItem (x.inProgress.map progressData) ++
    be8 x.control.length ++ beItem (x.control.head?.map fun o => [o.address, o.code]) ++
    be8 x.command.length ++ beItem (x.command.head?.map fun o => [o.address, o.code]) ++
    be16 e.stray ++ ((List.range count).map fun j => positionData s p (first + j)).flatten

/-- READ-POLL (R155): SP 1 and TP 2 alone. -/
def readPoll (port first count : Nat) (s : Shelf) : Answer :=
  match named ports port with
  | some p =>
    if p ≠ .up ∧ rangeOk first count 8 32 then (stDone, pollData s p first count)
    else (stInvalid, [])
  | none => (stInvalid, [])

/-! ### READ-PORT (R169) -/

/-- The lengths that READ-PORT carries for UP alone (R169). -/
def upData (s : Shelf) : List Byte :=
  be8 s.replies.length ++ be8 s.notices.length ++ be8 s.telemetry.length ++ be8 s.replyWait.length ++
    be16 s.telemetryDrops

/-- What READ-PORT carries (R169). -/
def portData (s : Shelf) (p : Port) : List Byte :=
  let e := engine s p
  encodePort e.settings ++ recordAt s tPort (portNumber p) ++ be8 (portStateNumber e.enabled) ++
    be16 e.damaged ++ be16 e.overruns ++ beFlag e.overrun ++ be8 e.rx.length ++ be16 e.stray ++
    if p = .up then upData s else []

/-- READ-PORT (R169): the OVERRUN mark is cleared. -/
def readPort (port : Nat) (s : Shelf) : Answer × Shelf :=
  match named ports port with
  | some p =>
    ((stDone, portData s p), editEngine p (fun e => { e with overrun := false }) s)
  | none => ((stInvalid, []), s)

end Sys2Proof.Machine
end

