-- ==== Sys2Proof/Machine/Apply.lean ====
section
/-! DEFINITION. EDIT-APPLY: its decision (R176), the replacement of the working entries, and the side
effects of each table (R5, R12, R23, R39, R60, R106, R135, R154, R172, R177). -/

namespace Sys2Proof.Machine

/-! ### Roster and Poll lists (R154, R23) -/

/-- The module of a Roster entry is no longer the module it was (R154). -/
def moduleGone (old new : Option RosterEntry) : Bool :=
  match old, new with
  | some a, some b =>
    a.address ≠ b.address || a.port ≠ b.port || a.kind ≠ b.kind || a.index ≠ b.index
  | some _, none => true
  | none, _ => false

/-- A Roster entry holds a module that it did not hold before (R154). -/
def moduleCame (old new : Option RosterEntry) : Bool := new.isSome && (old.isNone || moduleGone old new)

/-- A transaction in flight to a removed module goes on, and its outcome is discarded (R154). -/
def discardFlight (r : Nat) (pe : PollEngine) : PollEngine :=
  { pe with
    inFlight := pe.inFlight.map fun tx => if tx.roster = r then { tx with discarded := true } else tx }

/-- A relayed order in flight to a removed module is answered PORT-OFF now (R149, R154; log entry 21). -/
def answerFlight (r : Nat) (pe : PollEngine) (s : Shelf) : Shelf :=
  match pe.inFlight with
  | some tx =>
    if tx.roster = r ∧ tx.kind = .command ∧ !tx.discarded then
      answerOrder tx.address (tx.code.getD 0) ackPortOff s
    else s
  | none => s

/-- A placer is told PORT-OFF, before its module's absence (R154). -/
def tellPortOff (s : Shelf) (o : ControlOrder) : Shelf :=
  match o.target with
  | .tray t => trayOutcome t o.code .portOff s
  | .bbm k => bbmOutcome k o.code o.argument .portOff s
  | .gone => s

/-- The orders of a removed module leave its old port's queues with PORT-OFF (R154): the placers are told first, the
control order before the order in progress; then a relayed order in flight is answered, and after it the queued
relayed orders (R154 gives no order; log entry 21). -/
def removeOrders (p : Port) (r : Nat) (s : Shelf) : Shelf :=
  let pe := pollEngine s p
  let mine := pe.control.filter fun o => o.roster = r
  let progress := (pe.inProgress.toList.filter fun x => x.order.roster = r).map (·.order)
  let relayed := pe.command.filter fun o => o.roster = r
  let s := setPoll p
    (discardFlight r
      { pe with
        control := pe.control.filter fun o => o.roster ≠ r
        command := pe.command.filter fun o => o.roster ≠ r
        inProgress := pe.inProgress.filter fun x => x.order.roster ≠ r }) s
  refuseRelayed relayed (answerFlight r pe ((mine ++ progress).foldl tellPortOff s))

/-- A removed module is ABSENT to its owners, and its signals are STALE (R23, R154). -/
def removeModule (r : Nat) (old : RosterEntry) (s : Shelf) : Shelf :=
  staleAll (fedFrom s r) (moduleAbsentAs old r false (removeOrders old.port r s))

/-- The module that a latched Roster entry no longer holds is removed (R154). -/
def removeOld (old : List Record) (r : Nat) (s : Shelf) : Shelf :=
  match decodeRoster (recordOf old r) with
  | some e => if moduleGone (some e) (rosterAt s r) then removeModule r e s else s
  | none => s

/-- The module that a latched Roster entry newly holds is NEW (R154). -/
def admitNew (old : List Record) (r : Nat) (s : Shelf) : Shelf :=
  if moduleCame (decodeRoster (recordOf old r)) (rosterAt s r) then
    editModule r (fun _ => resetModule) s
  else s

/-- The changes of the latched Roster entries (R154): every module removed is ABSENT to its owners, with its
signals STALE, before any entry's new module is NEW. Several are removed in ascending order (log entry 60). -/
def applyRoster (old : List Record) (latched : List Nat) (s : Shelf) : Shelf :=
  latched.foldl (fun s r => admitNew old r s) (latched.foldl (fun s r => removeOld old r s) s)

/-- Modules that no position lists become ABSENT (R140). A POLL of one that is in flight completes as usual, and makes
it PRESENT if it is answered (R144; log entry 64). -/
def absentUnlisted (s : Shelf) : Shelf := absentAll ((rostersInUse s).filter (unlisted s)) s

/-! ### Sample Map and Limit Sets (R23) -/

/-- The entry that fed a signal in an earlier table. -/
def feedingIn (recs : List Record) (n : Nat) : Option SampleEntry :=
  recs.findSome? fun r =>
    match decodeSample r with
    | some e => if e.signal = n then some e else none
    | none => none

/-- A signal reset by an apply (R23). -/
def resetBySource (g : Signal) : Signal :=
  { g with band := .unknown, value := 0, pending := none, count := 0, stale := false }

/-- Clear a signal's pending band and count (R23). -/
def clearPending (g : Signal) : Signal := { g with pending := none, count := 0 }

/-- Two entries feed a signal from the same source (R23). -/
def sameSource (a b : SampleEntry) : Bool :=
  a.roster = b.roster && a.fieldId = b.fieldId && a.kind = b.kind

/-- The change of one signal by a Sample Map apply (R23, items 1 to 3). -/
def applySignal (old : List Record) (n : Nat) (s : Shelf) : Shelf :=
  match feedingIn old n, feeding s n with
  | none, none => s
  | none, some e => putSignal n e.notify resetBySource s
  | some a, none => putSignal n a.notify resetBySource s
  | some a, some b =>
    if a = b then s
    else if sameSource a b then putSignal n b.notify clearPending s
    else putSignal n b.notify resetBySource s

/-- The kinds under which a signal's band change is handed on at a Sample Map apply: that of the entry that fed
it and that of the entry that feeds it (R23 names neither; log entry 45). -/
def kindsOf (old : List Record) (s : Shelf) (n : Nat) : List (Nat × SignalKind) :=
  ((feedingIn old n).toList ++ (feeding s n).toList).map fun e => (n, e.kind)

/-- The side effects of a Sample Map apply (R23), signal after signal (log entry 47). -/
def applySampleMap (old : List Record) (s : Shelf) : Shelf :=
  let signals := List.range Config.signalCount
  let after := signals.foldl (fun s n => applySignal old n s) s
  let moved := signals.filter fun n => (vget s.signals n).band ≠ (vget after.signals n).band
  handOnSignals ⟨[], moved.flatMap (kindsOf old s)⟩ .band after

/-- The entries whose limit set an apply changed (R23, item 4). -/
def limitedBy (old : List Record) (s : Shelf) : List SampleEntry :=
  ((List.range Config.signalCount).filterMap (sampleAt s)).filter fun e =>
    recordOf old e.limitSet ≠ recordAt s tLimits e.limitSet

/-- The side effects of a Limit Sets apply (R23, item 4). -/
def applyLimits (old : List Record) (s : Shelf) : Shelf :=
  let es := limitedBy old s
  let s := es.foldl (fun s e => { s with signals := vmod s.signals e.signal clearPending }) s
  staleAll (es.filter fun e => staleDue s e.signal) s

/-! ### Line (R5, R12) -/

/-- The side effects of a Line apply: withdrawals, initial states, and the drive lines (R5, R12). Of several
lines changed, all the former owners are told first, then the initial states are given, each in
ascending order of the lines (R5 gives no order; log entry 46). -/
def applyLines (old : List Record) (latched : List Nat) (s : Shelf) : Shelf :=
  let before := fun l => (decodeSense (recordOf old l)).getD defaultSense
  let sense := latched.filter fun l => l < Config.senseCount
  let s := sense.foldl (fun s l => withdrawSense l (before l) s) s
  setDrives (sense.foldl (fun s l => deliverSense l (before l) s) s)

/-! ### PSM and BBM parameters (R39, R60) -/

/-- A PSM's held P_i becomes 0 (R39). -/
def dropOutput (i : Nat) (s : Shelf) : Shelf :=
  { s with balance := { s.balance with p := vset s.balance.p i 0 } }

/-- A PSM taken out of use (R60). -/
def dropPsm (i : Nat) (s : Shelf) : Shelf :=
  let s := if (vget s.psms i).state = .absent then s else psmTo i .absent .apply .psmState s
  editPsm i (fun _ => resetPsm) s

/-- The change of one latched PSM parameters entry (R60). -/
def applyPsm (old : List Record) (i : Nat) (s : Shelf) : Shelf :=
  match decodePsm (recordOf old i), psmAt s i with
  | none, none => s
  | some _, none => dropPsm i s
  | none, some _ => checkPsm i .apply (dropOutput i (editPsm i (fun _ => resetPsm) s))
  | some a, some b =>
    let s := if a.voltage ≠ b.voltage ∨ a.current ≠ b.current then dropOutput i s else s
    let s :=
      if a.roster ≠ b.roster ∨ a.voltage ≠ b.voltage ∨ a.temperature ≠ b.temperature then
        editPsm i (fun r => { r with status := none, inputHold := true }) s
      else s
    checkPsm i .apply s

/-- A BBM record as after reset, ABSENT where its module is (R50). -/
def freshBbm (presence : Presence) : Bbm :=
  { resetBbm with state := if presence = .absent then .absent else .idle }

/-- The discharge signal of a BBM is newly named (R39). -/
def markUnread (k : Nat) (s : Shelf) : Shelf :=
  { s with balance := { s.balance with bUnread := vset s.balance.bUnread k true } }

/-- The change of one latched BBM parameters entry (R60, R39). -/
def applyBbm (old : List Record) (k : Nat) (s : Shelf) : Shelf :=
  match decodeBbm (recordOf old k), bbmAt s k with
  | none, none => s
  | some _, none =>
    let s := putBbm k .apply (fun _ => { resetBbm with state := .absent }) s
    { s with bbms := vset s.bbms k resetBbm }
  | some a, some e =>
    let s := if a.discharge ≠ e.discharge then markUnread k s else s
    putBbm k .apply (fun _ => freshBbm (ownedPresence s e.roster .bbm k)) s
  | none, some e =>
    putBbm k .apply (fun _ => freshBbm (ownedPresence s e.roster .bbm k))
      (markUnread k { s with bbms := vset s.bbms k resetBbm })

/-! ### Trays (R106) -/

/-- A tray's record starts afresh, and the outcomes of its orders are discarded (R106). For a tray taken out of use
no tray state change is handed on, which R105 and R106 leave open; the apply's record has an AWAIT-TRAYS step tested
all the same (log entry 74). -/
def renewTray (t : Nat) (s : Shelf) : Shelf :=
  let forgotten := forgetOrders t s
  let fresh := { forgotten with bay := moveTray t .unknown (fun _ => resetTray) forgotten.bay }
  afterTray forgotten (trayState s t) .unknown fresh

/-- A tray in use with a new Roster entry starts afresh (R106); the state or output-seen it so leaves is a change
handed on with the apply (R28). -/
def moveToRoster (t : Nat) (s : Shelf) : Shelf :=
  let r := vget s.bay.trays t
  renewTray t (if r.state ≠ .unknown ∨ r.seen ≠ .unknown then changed [.tray] s else s)

/-- The change of a tray that keeps its Roster entry (R106). -/
def applyKeptTray (t : Nat) (a b : TrayEntry) (s : Shelf) : Shelf :=
  let s :=
    if a.zone ≠ b.zone then
      if b.zone.any (zoneWet s) then lockTray t s else releaseTray t s
    else s
  if (a.allocation ≠ b.allocation ∨ a.inrush ≠ b.inrush) ∧ s.bay.queue.head? = some t then
    postpone .charge s
  else s

/-- The change of one latched Trays entry (R106). -/
def applyTray (old : List Record) (t : Nat) (s : Shelf) : Shelf :=
  match decodeTray (recordOf old t), trayAt s t with
  | none, none => s
  | some _, none => renewTray t s
  | none, some b => if b.zone.any (zoneWet s) then lockTray t (renewTray t s) else renewTray t s
  | some a, some b =>
    if a.roster ≠ b.roster then
      if b.zone.any (zoneWet s) then lockTray t (moveToRoster t s) else moveToRoster t s
    else applyKeptTray t a b s

/-- No in-use tray of an earlier Trays table is UNKNOWN (R89). -/
def adoptionWas (old : List Record) (s : Shelf) : Bool :=
  (List.range Config.trayCount).all fun t =>
    (decodeTray (recordOf old t)).isNone || trayState s t ≠ .unknown

/-- The side effects of a Trays apply (R106). -/
def applyTrays (old : List Record) (latched : List Nat) (s : Shelf) : Shelf :=
  let was := adoptionWas old s
  let s := latched.foldl (fun s t => applyTray old t s) s
  if !was && adoptionComplete s then admissionDue (postpone .autostartTest s) else s

/-! ### All tables (R177) -/

/-- The side effects of an apply, by the owner of the table (R177), several latched entries in ascending order (log
entry 60). -/
def applyEffects (t : Nat) (old : List Record) (latched : List Nat) (s : Shelf) : Shelf :=
  if t = tPolicy then admissionDue (postpone .charge s)
  else if t = tRoster then
    emit .zones (absentUnlisted (applyRoster old latched s))
  else if t = tPoll then emit .zones (absentUnlisted s)
  else if t = tSample then emit .zones (applySampleMap old s)
  else if t = tLimits then applyLimits old s
  else if t = tLine then emit .zones (applyLines old latched s)
  else if t = tPsm then
    postpone .charge (recomputeCapacity (latched.foldl (fun s i => applyPsm old i s) s))
  else if t = tBbm then
    postpone .charge (recomputeCapacity (latched.foldl (fun s k => applyBbm old k s) s))
  else if t = tTrays then applyTrays old latched s
  else if t = tZones then
    latched.foldl (fun s z => applyZone z (decodeZone (recordOf old z)) s) s
  else s

/-- The cause of an apply's own: APPLY for the four tables of R39, none for the others (R28; log entry 19). -/
def applyCauses (t : Nat) : List Cause :=
  if t = tPolicy ∨ t = tPsm ∨ t = tBbm ∨ t = tTrays then [.apply] else []

/-- The side effects of an apply, or of the placing of the tables, end with one recomputation (R39, R40). Its
causes name every kind handed on with the change (R28): what the side effects gathered, and the change's own. -/
def endApply (s : Shelf) : Shelf :=
  match s.applying with
  | none => s
  | some cs =>
    let s := cs.foldl addCause { s with applying := none }
    if s.causes = [] then s else recompute s.causes s

/-- The latched records replace the working entries, the window closes, and the side effects follow
(R176, step 5). -/
def replaceEntries (w : Window) (s : Shelf) : Shelf :=
  let old := vget s.tables w.table
  emitAll [.applied w.table old (latchedEntries w), .endApply]
    { s with
      tables := vset s.tables w.table (tableAfter s w)
      window := none
      applying := some (applyCauses w.table) }

/-- EDIT-APPLY (R176). -/
def applyWindow (s : Shelf) : Answer × Shelf :=
  match s.window with
  | none => ((stNoWindow, []), s)
  | some w =>
    let restarted := { s with window := some { w with idle := idleTimer s } }
    if rangeProtected s w.table w.first w.count then ((stProtected, []), restarted)
    else if latchedEntries w = [] then ((stDone, []), { s with window := none })
    else
      match firstFailing s w with
      | some i => ((stInvalid, be8 i), restarted)
      | none => ((stDone, []), replaceEntries w s)

end Sys2Proof.Machine
end

