-- ==== Sys2Proof/Machine/Memory.lean ====
section
/-! DEFINITION. The one addressed memory: the configuration store's 16,384 bytes (R180), as a list of
cells in one canonical form, with reads and writes of bytes, pages and images. -/

namespace Sys2Proof.Machine

/-- What an unlisted byte reads as: the erased value (R180; log entry 11). -/
def erasedByte : Byte := 0xFF

/-- The number of bytes of the store. -/
def storeSize : Nat := 16384

/-- Addresses strictly rise from above `low`, stay within the store, and no cell holds the erased
value. -/
def cellsFrom (low : Nat) : List Host.Cell → Bool
  | [] => true
  | (a, b) :: rest => low ≤ a && a < storeSize && b ≠ erasedByte && cellsFrom (a + 1) rest

/-- The canonical form of the store's data. -/
abbrev Memory.wf (cells : List Host.Cell) : Bool := cellsFrom 0 cells

/-- One byte of the store. -/
def readByte (cells : List Host.Cell) (a : Nat) : Byte :=
  match cells with
  | [] => erasedByte
  | (k, b) :: rest => if k = a then b else readByte rest a

/-- The cell for a byte, where it needs one. -/
def cellOf (a : Nat) (b : Byte) : List Host.Cell := if b = erasedByte then [] else [(a, b)]

/-- The cells with one byte set, in rising order of address. -/
def setCell (a : Nat) (b : Byte) : List Host.Cell → List Host.Cell
  | [] => cellOf a b
  | (k, c) :: rest =>
    if a < k then cellOf a b ++ (k, c) :: rest
    else if a = k then cellOf a b ++ rest
    else (k, c) :: setCell a b rest

/-- Write one byte of the store; an address outside it holds none. -/
def writeByte (cells : List Host.Cell) (a : Nat) (b : Byte) : List Host.Cell :=
  if a < storeSize then setCell a b cells else cells

/-- Write bytes from an address on. -/
def writeBytes (cells : List Host.Cell) (a : Nat) : List Byte → List Host.Cell
  | [] => cells
  | b :: rest => writeBytes (writeByte cells a b) (a + 1) rest

/-- Read `n` bytes from an address on. -/
def readBytes (cells : List Host.Cell) (a n : Nat) : List Byte :=
  (List.range n).map fun i => readByte cells (a + i)

/-- Set `n` bytes from an address on to the erased value (R184). -/
def eraseBytes (cells : List Host.Cell) (a n : Nat) : List Host.Cell :=
  cells.filter fun c => c.1 < a || a + n ≤ c.1

/-- The address of byte 0 of a page (R180). -/
def pageAddress (row page : Nat) : Nat := 256 * row + 32 * page

/-- The number of a page among all pages. -/
def pageIndex (row page : Nat) : Nat := 8 * row + page

/-- A page's 32 bytes (R180). -/
def readPage (cells : List Host.Cell) (row page : Nat) : List Byte :=
  readBytes cells (pageAddress row page) 32

end Sys2Proof.Machine
end

