-- ==== Sys2Proof/Machine/Storage.lean ====
section
/-! DEFINITION. The configuration store: protection (R182), the decision of each request (R183),
completion (R184), and the damage of a reset (R185). -/

namespace Sys2Proof.Machine

/-! ### Rows and pages -/

/-- A page's state (R180). -/
def pageState (st : Store) (row page : Nat) : PageState := vget st.pages (pageIndex row page)

/-- Set the state of the pages of some rows. -/
def setRowPages (rows : List Nat) (p : PageState) (v : Vector PageState 512) :
    Vector PageState 512 :=
  rows.foldl (fun v row => (List.range 8).foldl (fun v j => vset v (pageIndex row j) p) v) v

/-- The rows of an operation's scope (R183). -/
def scopeRows (action : StoreAction) (row : Nat) : List Nat :=
  match action with
  | .eraseRow => [row]
  | .eraseBlock => (List.range 8).map fun j => row + j
  | .eraseAll => List.range 64
  | .write | .verify => []

/-! ### Protection (R182) -/

/-- The first row a level protects (R182). -/
def protectedFrom (level : Nat) : Nat := 64 - 16 * level

/-- A row is protected against a write or a ROW or BLOCK erase, SVC not asserted (R182). -/
def rowProtected (level row : Nat) : Bool := row = 0 || protectedFrom level ≤ row

/-- The scope of an erase or a write is protected (R182). -/
def scopeProtected (svc : Bool) (level : Nat) (action : StoreAction) (row : Nat) : Bool :=
  !svc &&
    match action with
    | .eraseAll => 1 ≤ level
    | .eraseRow | .write => rowProtected level row
    | .eraseBlock => (scopeRows .eraseBlock row).any (rowProtected level)
    | .verify => false

/-! ### Requests (R183) -/

/-- The time an operation takes, in milliseconds (R183). -/
def operationTime : StoreAction → Nat
  | .eraseRow => 20
  | .eraseBlock => 40
  | .eraseAll => 80
  | .write => 3
  | .verify => 1

/-- The operation is put in flight (R183). -/
def startOperation (action : StoreAction) (row page : Nat) (data : List Byte) (s : State) : State :=
  { s with
    store := { s.store with
      op := some { action, row, page, data, ends := s.shelfTime + msTime (operationTime action) } } }

/-- The scope an erase names (R183). -/
def eraseAction (scope : Nat) : Option StoreAction :=
  named [StoreAction.eraseRow, .eraseBlock, .eraseAll] scope

/-- The arguments of a STORE-ERASE are in range (R183). -/
def eraseInRange (action : StoreAction) (row : Nat) : Bool :=
  match action with
  | .eraseAll => true
  | .eraseBlock => row ≤ 63 && row % 8 = 0
  | _ => row ≤ 63

/-- STORE-ERASE (R183). -/
def storeErase (scope row : Nat) (s : State) : Byte × State :=
  match eraseAction scope with
  | none => (stInvalid, s)
  | some action =>
    if !eraseInRange action row then (stInvalid, s)
    else if s.store.op.isSome then (stBusy, s)
    else if !rideNormal s.toShelf then (stRide, s)
    else if scopeProtected s.ambient.svc s.level action row then (stProtected, s)
    else (stStarted, startOperation action row 0 [] s)

/-- STORE-WRITE (R183): the row's write count rises with the answer STARTED. -/
def storeWrite (row page : Nat) (data : List Byte) (s : State) : Byte × State :=
  if 63 < row ∨ 7 < page then (stInvalid, s)
  else if s.store.op.isSome then (stBusy, s)
  else if !rideNormal s.toShelf then (stRide, s)
  else if scopeProtected s.ambient.svc s.level .write row then (stProtected, s)
  else if pageState s.store row page = .damaged then (stDamaged, s)
  else if Config.writeLimit ≤ vget s.store.counts row then (stWorn, s)
  else
    (stStarted,
      startOperation .write row page data
        { s with store := { s.store with counts := vmod s.store.counts row fun n => n + 1 } })

/-- STORE-VERIFY (R183). -/
def storeVerify (row page : Nat) (s : State) : Byte × State :=
  if 63 < row ∨ 7 < page then (stInvalid, s)
  else if s.store.op.isSome then (stBusy, s)
  else if pageState s.store row page = .damaged then (stDamaged, s)
  else if pageState s.store row page = .erased then (stInvalid, s)
  else (stStarted, startOperation .verify row page [] s)

/-- STORE-READ (R183). -/
def storeRead (row page : Nat) (s : State) : Answer :=
  if 63 < row ∨ 7 < page then (stInvalid, [])
  else if s.store.op.isSome then (stBusy, [])
  else
    (stDone,
      readPage s.store.cells row page ++ be8 (pageStateNumber (pageState s.store row page)) ++
        be8 (vget s.store.counts row))

/-! ### Completion (R184) -/

/-- The bytes a write leaves: bits move only from 1 to 0 (R184). -/
def writtenBytes (old new : List Byte) : List Byte := List.zipWith (· &&& ·) old new

/-- The store after an erase of some rows (R184). -/
def erasedRows (rows : List Nat) (st : Store) : Store :=
  { st with
    cells := rows.foldl (fun c row => eraseBytes c (pageAddress row 0) 256) st.cells
    pages := setRowPages rows .erased st.pages
    counts := rows.foldl (fun v row => vset v row 0) st.counts
    op := none }

/-- The store after a write (R184). -/
def writtenPage (row page : Nat) (data : List Byte) (st : Store) : Store :=
  { st with
    cells := writeBytes st.cells (pageAddress row page) (writtenBytes (readPage st.cells row page) data)
    pages := vset st.pages (pageIndex row page) .written
    op := none }

/-- The store after a verify that found the page PASS or WEAK (R184). -/
def verifiedPage (row page : Nat) (weak : Bool) (st : Store) : Store :=
  { st with
    pages := vset st.pages (pageIndex row page) (if weak then .written else .verified)
    op := none }

/-- The request code of an operation (R166). -/
def actionCode : StoreAction → Nat
  | .eraseRow | .eraseBlock | .eraseAll => 0x10
  | .write => 0x11
  | .verify => 0x12

/-- A write's result differs from the data sent (R184). -/
def writeMismatch (st : Store) (o : StoreOp) : Bool :=
  writtenBytes (readPage st.cells o.row o.page) o.data ≠ o.data

/-- The result of an operation: 0 for success, MISMATCH 1, WEAK 2 (R184; log entry 38). -/
def operationResult (st : Store) (o : StoreOp) (weak : Bool) : Nat :=
  match o.action with
  | .eraseRow | .eraseBlock | .eraseAll => 0
  | .write => if writeMismatch st o then 1 else 0
  | .verify => if weak then 2 else 0

/-- The store after an operation (R184). -/
def completedStore (o : StoreOp) (weak : Bool) (st : Store) : Store :=
  match o.action with
  | .eraseRow | .eraseBlock | .eraseAll => erasedRows (scopeRows o.action o.row) st
  | .write => writtenPage o.row o.page o.data st
  | .verify => verifiedPage o.row o.page weak st

/-- STORE-DONE or STORE-FAILED (R184). -/
def completionNotice (o : StoreOp) (result : Nat) (s : Shelf) : Shelf :=
  let index := if o.action = .eraseAll then 0 else o.row
  let page := match o.action with
    | .write | .verify => o.page
    | _ => 0
  post srcStore index (if result = 0 then ntStoreDone else ntStoreFailed)
    (twoItems (actionCode o.action) page) result s

/-- The operation in flight completes at its end time (R184). -/
def completeOperation (weak : Bool) (s : State) : State :=
  match s.store.op with
  | none => s
  | some o =>
    if reached s.shelfTime o.ends then
      { completionNotice o (operationResult s.store o weak) s.toShelf with
        store := completedStore o weak s.store, pending := s.pending }
    else s

/-! ### Resets (R185) -/

/-- The store after power-on reset or the RESET line: the pages of an operation in flight are DAMAGED
(R185). -/
def damagedStore (st : Store) : Store :=
  match st.op with
  | none => st
  | some o =>
    { st with
      pages :=
        match o.action with
        | .write | .verify => vset st.pages (pageIndex o.row o.page) .damaged
        | _ => setRowPages (scopeRows o.action o.row) .damaged st.pages
      op := none }

end Sys2Proof.Machine
end

