-- ==== Sys2Proof/Machine/Startup.lean ====
section
/-! DEFINITION. Resets and start-up: the values each kind of reset gives (spec/00, R12, R62, R136), the
directory and the images (R181, R186), the placing of the tables, and phases 3 to 5 (R187, R188). -/

namespace Sys2Proof.Machine

/-! ### Loading (R181, R186) -/

/-- The 96 bytes of the directory (R181). -/
def directory (st : Store) : List Byte := readBytes st.cells 0 96

/-- The directory is usable (R181). -/
def directoryUsable (st : Store) : Bool :=
  ((List.range 3).all fun j => pageState st 0 j = .verified) &&
    field16 (directory st) 79 = (crc16 ((directory st).take 79)).toNat

/-- The directory's pages are all ERASED (R186). -/
def directoryErased (st : Store) : Bool := (List.range 3).all fun j => pageState st 0 j = .erased

/-- A directory entry (R181). -/
structure DirEntry where
  first : Nat
  pages : Nat
  length : Nat
  crc : Nat
  deriving DecidableEq, Repr

/-- The directory entry of table `t` (R181). -/
def dirEntry (st : Store) (t : Nat) : DirEntry :=
  let d := (directory st).drop (6 * t)
  ⟨field8 d 0, field8 d 1, field16 d 2, field16 d 4⟩

/-- An entry describes no image (R181). -/
def describesNone (e : DirEntry) : Bool := e.pages = 0 || e.pages = 255

/-- The length of a table's image (R181). -/
def imageLength (t : Nat) : Nat := tableSize t * recordLength t

/-- The bytes of an image (R181). -/
def imageBytes (st : Store) (e : DirEntry) : List Byte :=
  readBytes st.cells (pageAddress e.first 0) e.length

/-- The records of an image, in entry order (R181). -/
def imageRecords (t : Nat) (bytes : List Byte) : List Record :=
  (List.range (tableSize t)).map fun i => (bytes.drop (i * recordLength t)).take (recordLength t)

/-- Every page of an image lies in rows 1 to 63 and is VERIFIED (R186). -/
def imagePagesGood (st : Store) (e : DirEntry) : Bool :=
  1 ≤ e.first && 8 * e.first + e.pages ≤ 512 &&
    (List.range e.pages).all fun j => vget st.pages (8 * e.first + j) = .verified

/-- An image is loadable, apart from its validation (R186). -/
def imageGood (st : Store) (t : Nat) (e : DirEntry) : Bool :=
  imagePagesGood st e && e.length = imageLength t && e.pages = (e.length + 31) / 32 &&
    (crc16 (imageBytes st e)).toNat = e.crc

/-- The load status and the contents of table `t`, checked against the tables loaded before (R186). -/
def loadTable (st : Store) (s : Shelf) (t : Nat) : LoadStatus × List Record :=
  if directoryUsable st then
    let e := dirEntry st t
    if describesNone e then (.default, defaultTable t)
    else
      let recs := imageRecords t (imageBytes st e)
      if imageGood st t e && tableValid s t recs then (.loaded, recs) else (.bad, defaultTable t)
  else if directoryErased st then (.default, defaultTable t)
  else (.bad, defaultTable t)

/-- The order in which the tables are loaded: Port in phase 1, the others ascending (R186). -/
def loadOrder : List Nat := [1, 0, 2, 3, 4, 5, 6, 7, 8, 9, 10, 11, 12]

/-- One table is loaded. -/
def loadInto (st : Store) (s : Shelf) (t : Nat) : Shelf :=
  let x := loadTable st s t
  { s with loads := vset s.loads t x.1, tables := vset s.tables t x.2 }

/-- Phases 1 and 2 load the tables, and UP is enabled with the settings of Port entry 0 (R186). -/
def loadTables (st : Store) (s : Shelf) : Shelf :=
  let s := loadOrder.foldl (loadInto st) s
  editEngine .up (fun e => { e with enabled := true, settings := portEntry s .up }) s

/-- The protect level that phase 3 latches (R187). -/
def latchedLevel (st : Store) : Nat :=
  let byte := field8 (directory st) 78
  if directoryUsable st && byte ≤ 3 then byte else 0

/-! ### The start-up event -/

/-- The in-use trays whose zone is WET (R87). -/
def wetTrays (s : Shelf) : List Nat :=
  (traysInUse s).filter fun t => (trayAt s t).any fun e => e.zone.any (zoneWet s)

/-- The unlisted modules whose Roster kind is TRAY, or those of every other kind (R140). -/
def unlistedBy (trays : Bool) (s : Shelf) : List Nat :=
  (rostersInUse s).filter fun r =>
    unlisted s r && (rosterAt s r).any fun e => decide (e.kind = .tray) = trays

/-- The placing of the working tables in effect (R186): sampling, zones, locks, drive lines, E_cap, and the
unlisted modules but those of trays. Several zones, trays or modules are taken in ascending order (log entry 60). -/
def placeTables (s : Shelf) : Shelf :=
  let s := { s with sampling := true, applying := some [.start] }
  let s := (List.range Config.zoneCount).foldl (fun s z => placeZone z s) s
  let s := (wetTrays s).foldl (fun s t => lockTrayOnly t s) s
  let s := recomputeCapacity (setDrives s)
  absentAll (unlistedBy false s) s

/-- The start-up event over blocks at their reset values (R186 to R188). Every in-use tray is UNKNOWN or LOCKED in
the first recomputation, which `endApply` makes (R40); the unlisted modules of trays become ABSENT after it (R89,
R140; log entry 58). The orders of the locks go out once the ports are enabled (log entry 18). -/
def startUp (kind : ResetKind) (st : Store) (s : Shelf) : Shelf :=
  let s := placeTables (loadTables st s)
  let s := { s with level := latchedLevel st }
  emitAll
    ([.endApply] ++ (unlistedBy true s).map (fun r => Task.moduleAbsent r false) ++ [.startPorts] ++
      (wetTrays s).map Task.placeOff ++ [.startAutostart, .postStarted kind]) s

/-- Phase 4 for one port (R187): its settings in effect are copied from the table (R158), and it is enabled
where its flag is set; otherwise its modules become ABSENT. -/
def startPort (p : Port) (s : Shelf) : Shelf :=
  let s := editEngine p (fun e => { e with settings := portEntry s p }) s
  if (portEntry s p).enable then enablePort p s else absentAll (modulesOn s p) s

/-- Phase 4 (R187), SP before TP, the model's choice (log entry 60). -/
def startPorts (s : Shelf) : Shelf := startPort .tp (startPort .sp s)

/-- Phase 5 (R187, R120). -/
def startAutostart (s : Shelf) : Shelf :=
  let loaded := [tTrays, tSequence, tPolicy, tRoster].all fun t => vget s.loads t = .loaded
  let entry := if loaded then (policy s).autostart else none
  emit .autostartTest (setSeq (fun q => { q with autostart := entry }) s)

/-- The tables with a load status, one bit per table id (R188). -/
def tablesWith (s : Shelf) (x : LoadStatus) : Nat :=
  bitSet ((List.range 13).filter fun t => vget s.loads t = x)

/-- STARTED ends the start-up event, once every other reaction is done (R188). -/
def postStarted (kind : ResetKind) (s : Shelf) : Shelf :=
  if s.deferred = [] then
    post srcPart (resetKindNumber kind) ntStarted (tablesWith s .loaded)
      (tablesWith s .bad + 8192 * s.level + (if s.ambient.svc then 32768 else 0)) s
  else { s with deferred := s.deferred ++ [.postStarted kind] }

/-! ### Resets -/

/-- The drive lines at a RESTART: VALVE and LEAK-ALARM keep their levels (R12). -/
def restartDrives (s : Shelf) : Vector Level 8 :=
  Vector.ofFn fun d =>
    let e := driveAt s d
    if e.role = .valve ∨ e.role = .leakAlarm then vget s.drives d else otherLevel e.active

/-- The zones at a RESTART: the confirm timers stop (R136). -/
def restartZones (s : Shelf) : Vector Zone 8 := s.zones.map fun x => { x with timer := .stopped }

/-- Every block at the values its chapter gives for a kind of reset. -/
def resetBlocks (kind : ResetKind) (s : Shelf) : Shelf :=
  match kind with
  | .powerOn | .line => { resetShelf with ambient := s.ambient }
  | .restart =>
    { resetShelf with
      ambient := s.ambient
      shelfTime := s.shelfTime
      drives := restartDrives s
      zones := restartZones s
      ride := { resetRide with closedSummary := s.ride.closedSummary } }

/-- A reset and the start-up event that follows it (R1, R170, R185, R186). -/
def resetPart (kind : ResetKind) (s : State) : State :=
  let st := if kind = .restart then s.store else damagedStore s.store
  { startUp kind st (resetBlocks kind s.toShelf) with store := st, pending := s.pending }

end Sys2Proof.Machine
end

