-- ==== Sys2Proof/Machine/Requests.lean ====
section
/-! DEFINITION. The Request Handler (R166): the request codes with their argument lengths, and the decision
of each request by the block that owns the state concerned. -/

namespace Sys2Proof.Machine

/-- Request codes (R166). -/
def rqReadTable : Byte := 0x01
def rqEditOpen : Byte := 0x02
def rqEditWrite : Byte := 0x03
def rqEditApply : Byte := 0x04
def rqEditDiscard : Byte := 0x05
def rqStoreErase : Byte := 0x10
def rqStoreWrite : Byte := 0x11
def rqStoreVerify : Byte := 0x12
def rqStoreRead : Byte := 0x13
def rqRestart : Byte := 0x18
def rqReadLine : Byte := 0x20
def rqReadSignal : Byte := 0x21
def rqReadBalance : Byte := 0x28
def rqReadModule : Byte := 0x30
def rqReadRide : Byte := 0x38
def rqReadTray : Byte := 0x40
def rqReadQueue : Byte := 0x41
def rqClearTray : Byte := 0x42
def rqRunProgram : Byte := 0x48
def rqAbortProgram : Byte := 0x49
def rqReadProgram : Byte := 0x4A
def rqReadZone : Byte := 0x50
def rqClearZone : Byte := 0x51
def rqReadPoll : Byte := 0x58
def rqPortEnable : Byte := 0x59
def rqPortDisable : Byte := 0x5A
def rqReadPort : Byte := 0x5B

/-! ### Decisions that change state -/

/-- CLEAR-TRAY (R101). -/
def requestClearTray (tray : Nat) (s : Shelf) : Byte × Shelf :=
  if 23 < tray then (stInvalid, s)
  else if (trayAt s tray).isNone then (stNoEntry, s)
  else if trayState s tray ≠ .fault then (stInvalid, s)
  else (stDone, clearTray tray s)

/-- RUN-PROGRAM (R117). -/
def requestRun (step : Nat) (s : Shelf) : Byte × Shelf :=
  if 31 < step then (stInvalid, s)
  else if !rideNormal s then (stRide, s)
  else if s.seq.state ≠ .idle then (stBusy, s)
  else if s.shelfStop then (stBusy, s)
  else if (stepAt s step).isNone then (stNoEntry, s)
  else (stStarted, startRun step .request s)

/-- ABORT-PROGRAM (R118). -/
def requestAbort (s : Shelf) : Byte × Shelf :=
  if s.seq.state = .idle then (stInvalid, s) else (stDone, abortRun .abort s)

/-- CLEAR-ZONE (R132). -/
def requestClearZone (zone : Nat) (epoch : Byte) (s : Shelf) : Byte × Shelf :=
  if 7 < zone then (stInvalid, s)
  else if (zoneAt s zone).isNone then (stNoEntry, s)
  else if (vget s.zones zone).state ≠ .wet then (stInvalid, s)
  else if (vget s.zones zone).epoch ≠ epoch then (stStaleEpoch, s)
  else if (vget s.zones zone).points.any (· ≠ .dry) then (stNotDry, s)
  else (stDone, clearZone zone s)

/-- PORT-ENABLE (R152). -/
def requestEnable (port : Nat) (s : Shelf) : Byte × Shelf :=
  match named ports port with
  | some p =>
    if p = .up ∨ (engine s p).enabled then (stInvalid, s) else (stDone, enablePort p s)
  | none => (stInvalid, s)

/-- PORT-DISABLE (R153). -/
def requestDisable (port : Nat) (s : Shelf) : Byte × Shelf :=
  match named ports port with
  | some p =>
    if p = .up then (stInvalid, s)
    else if (engine s p).enabled then (stDone, disablePort p s)
    else (stDone, s)
  | none => (stInvalid, s)

/-- What RESTART is answered (R170). -/
def restartAnswer (s : State) : Byte :=
  if !rideNormal s.toShelf then stRide else if s.store.op.isSome then stBusy else stDone

/-! ### Answers -/

/-- Change the blocks, and neither the store nor the waiting commands. -/
def onShelf (f : Shelf → Shelf) (s : State) : State :=
  { f s.toShelf with store := s.store, pending := s.pending }

/-- A request is answered after its effects, in the same event (R166). -/
def respond (code : Byte) (a : Answer) (s : Shelf) : Shelf :=
  emit (.reply (answer code a.1 a.2)) s

/-- A request that changes nothing. -/
def answerWith (code : Byte) (a : Shelf → Answer) (s : State) : State :=
  onShelf (fun s => respond code (a s) s) s

/-- A request that changes the blocks. -/
def actWith (code : Byte) (f : Shelf → Byte × Shelf) (s : State) : State :=
  onShelf (fun s => respond code ((f s).1, []) (f s).2) s

/-- A request that changes the blocks and carries data in its answer. -/
def actAndTell (code : Byte) (f : Shelf → Answer × Shelf) (s : State) : State :=
  onShelf (fun s => respond code (f s).1 (f s).2) s

/-- A store request that starts an operation. -/
def storeWith (code : Byte) (f : State → Byte × State) (s : State) : State :=
  onShelf (respond code ((f s).1, [])) (f s).2

/-- A request that only reads the store. -/
def storeAnswer (code : Byte) (a : State → Answer) (s : State) : State :=
  onShelf (respond code (a s)) s

/-- RESTART (R170): on DONE a restart is pending, and its answer is known by its mark. -/
def handleRestart (s : State) : State :=
  let status := restartAnswer s
  if status = stDone then
    onShelf
      (fun s =>
        placeReply ⟨⟨0, kindAnswer, [rqRestart, stDone]⟩, true⟩ { s with restart := some false }) s
  else onShelf (respond rqRestart (status, [])) s

/-- An argument byte of a request. -/
def arg (args : List Byte) (i : Nat) : Nat := (args.getD i 0).toNat

/-! ### Dispatch -/

/-- The argument length a request code takes, none for a code outside the table; EDIT-WRITE takes its
entry and a record, whose length its owner judges (R166, R175; log entry 29). -/
def lengthFits (code : Byte) (n : Nat) : Bool :=
  if code = rqReadTable ∨ code = rqEditOpen ∨ code = rqReadPoll then n = 3
  else if code = rqEditWrite then 1 ≤ n
  else if code = rqEditApply ∨ code = rqEditDiscard ∨ code = rqRestart ∨ code = rqReadBalance ∨
      code = rqReadRide ∨ code = rqReadQueue ∨ code = rqAbortProgram ∨ code = rqReadProgram then n = 0
  else if code = rqStoreWrite then n = 34
  else if code = rqStoreErase ∨ code = rqStoreVerify ∨ code = rqStoreRead ∨ code = rqReadSignal ∨
      code = rqReadModule ∨ code = rqReadTray ∨ code = rqClearZone then n = 2
  else if code = rqReadLine ∨ code = rqClearTray ∨ code = rqRunProgram ∨ code = rqReadZone ∨
      code = rqPortEnable ∨ code = rqPortDisable ∨ code = rqReadPort then n = 1
  else false

/-- The block that owns the state decides a request with a known code and a fitting length (R166). -/
def dispatch (code : Byte) (args : List Byte) (s : State) : State :=
  if code = rqReadTable then
    answerWith code (readTable (arg args 0) (arg args 1) (arg args 2)) s
  else if code = rqEditOpen then
    actWith code (openWindow (arg args 0) (arg args 1) (arg args 2)) s
  else if code = rqEditWrite then actWith code (writeWindow (arg args 0) args.tail) s
  else if code = rqEditApply then actAndTell code applyWindow s
  else if code = rqEditDiscard then actWith code discardWindow s
  else if code = rqStoreErase then storeWith code (storeErase (arg args 0) (arg args 1)) s
  else if code = rqStoreWrite then
    storeWith code (storeWrite (arg args 0) (arg args 1) (args.drop 2)) s
  else if code = rqStoreVerify then storeWith code (storeVerify (arg args 0) (arg args 1)) s
  else if code = rqStoreRead then storeAnswer code (storeRead (arg args 0) (arg args 1)) s
  else if code = rqRestart then handleRestart s
  else if code = rqReadLine then actAndTell code (readLine (arg args 0)) s
  else if code = rqReadSignal then answerWith code (readSignal (arg args 0) (arg args 1)) s
  else if code = rqReadBalance then answerWith code (fun s => (stDone, balanceData s)) s
  else if code = rqReadModule then answerWith code (readModule (arg args 0) (arg args 1)) s
  else if code = rqReadRide then answerWith code (fun s => (stDone, rideData s)) s
  else if code = rqReadTray then answerWith code (readTray (arg args 0) (arg args 1)) s
  else if code = rqReadQueue then answerWith code (fun s => (stDone, queueData s)) s
  else if code = rqClearTray then actWith code (requestClearTray (arg args 0)) s
  else if code = rqRunProgram then actWith code (requestRun (arg args 0)) s
  else if code = rqAbortProgram then actWith code requestAbort s
  else if code = rqReadProgram then answerWith code (fun s => (stDone, programData s)) s
  else if code = rqReadZone then answerWith code (readZone (arg args 0)) s
  else if code = rqClearZone then
    actWith code (requestClearZone (arg args 0) (args.getD 1 0)) s
  else if code = rqReadPoll then
    answerWith code (readPoll (arg args 0) (arg args 1) (arg args 2)) s
  else if code = rqPortEnable then actWith code (requestEnable (arg args 0)) s
  else if code = rqPortDisable then actWith code (requestDisable (arg args 0)) s
  else actAndTell code (readPort (arg args 0)) s

/-- The Request Handler carries out one REQUEST (R166). -/
def handleRequest (payload : List Byte) (s : State) : State :=
  let code := payload.headD 0
  let args := payload.tail
  if lengthFits code args.length then dispatch code args s
  else answerWith code (fun _ => (stInvalid, [])) s

end Sys2Proof.Machine
end

