-- ==== Sys2Proof/Machine/Tasks.lean ====
section
/-! DEFINITION. The carrying out of the reactions of an event, each by its block (log entries 4 and 5). -/

namespace Sys2Proof.Machine

/-- One reaction is carried out by the block it is for. -/
def perform (task : Task) (s : Shelf) : Shelf :=
  match task with
  | .balance => performBalance s
  | .rideRecord deficit line returnOk d => rideRecord deficit line returnOk d s
  | .stackChanged => stackChanged s
  | .chargeZero => chargeZero s
  | .charge => chargeEvaluation s
  | .seqTest => testStep s
  | .seqResume => resumeSequencer s
  | .seqEnter step => enterStep step s
  | .seqStart trays => startTrays trays s
  | .seqShelfStop => seqShelfStop s
  | .seqHalt cause source word => haltRun cause source word s
  | .withdraw tray => withdrawTray tray s
  | .autostartTest => autostartTest s
  | .shed tray => shedTray tray s
  | .shelfStopTray tray => shelfStopTray tray s
  | .lockTray tray => lockTray tray s
  | .releaseTray tray => releaseTray tray s
  | .placeOff tray => placeOff tray s
  | .trayOutcome tray code o => trayOutcome tray code o s
  | .bbmOutcome bbm code argument o => bbmOutcome bbm code argument o s
  | .moduleAbsent roster missed => moduleAbsent roster missed s
  | .signalsStale roster => signalsStale roster s
  | .psmBands psms => checkPsms .band psms s
  | .zones => zonesChanged s
  | .zoneEval zone => zoneEvaluation zone s
  | .postRideEnter d => postRideEnter d s
  | .postDepleted trays => postDepleted trays s
  | .applied table old latched => applyEffects table old latched s
  | .endApply => endApply s
  | .reply frames => placeReplies frames s
  | .startPorts => startPorts s
  | .startAutostart => startAutostart s
  | .postStarted kind => postStarted kind s

/-- The next reaction: the newest first among those of an event, then the admission evaluation, then
those of the Module Monitor and the Program Sequencer (R37, R65, R93). None when all are done. -/
def nextReaction (s : Shelf) : Option Shelf :=
  match s.raised ++ s.agenda with
  | task :: rest => some (perform task { s with raised := [], agenda := rest })
  | [] =>
    if s.admitDue && s.applying.isNone then some (admissionTry s)
    else
      match s.deferred with
      | task :: rest => some (perform task { s with deferred := rest })
      | [] => none

/-- At most `n` reactions are carried out, until none is left. -/
def runReactions : Nat → Shelf → Shelf
  | 0, s => s
  | n + 1, s =>
    match nextReaction s with
    | some s => runReactions n s
    | none => s

/-- Every reaction of the event is carried out (log entry 5). -/
def react (s : Shelf) : Shelf := runReactions Config.reactionBound s

end Sys2Proof.Machine
end

