-- ==== Sys2Proof/Machine/Upstream.lean ====
section
/-! DEFINITION. The upstream side: the UP receive queue (R161), the Router (R164, R165), the upstream
transmit arbiter (R167), and the beginning and end that every event shares. -/

namespace Sys2Proof.Machine

/-! ### The UP receive queue (R161) -/

/-- The port-error reason OVERRUN, after ABSENT (R144, R161; log entry 25). -/
def reasonOverrun : Nat := 1

/-- An entry is discarded at a full UP receive queue (R161). -/
def overrunUp (s : Shelf) : Shelf :=
  let e := s.engUp
  let counted := { s with engUp := { e with overruns := satInc e.overruns, overrun := true } }
  if e.overrun then counted
  else post srcPort 0 ntPortError reasonOverrun (satInc e.overruns) counted

/-- An entry is offered to the UP receive queue (R161). -/
def offerUp (x : RxEntry) (s : Shelf) : Shelf :=
  if s.engUp.rx.length < Config.rxDepth then
    { s with engUp := { s.engUp with rx := s.engUp.rx ++ [x] } }
  else overrunUp s

/-! ### The Router (R164, R165) -/

/-- A whole frame that the Router discards as stray (R164). -/
def isStrayUp (f : Frame) : Bool :=
  if f.kind = kindOrder then f.payload.length ≠ 3 || f.address.toNat = 0 || 62 < f.address.toNat
  else if f.kind = kindRequest then f.payload = [] || f.address ≠ 0
  else true

/-- The Router may take an entry: the reply wait is empty and no restart is pending (R165, R170). -/
def routerFree (s : Shelf) : Bool := s.replyWait = [] && s.restart = none

/-- An entry is taken by the Router (R165). -/
def takeEntry (x : RxEntry) (s : State) : State :=
  match x with
  | .damage => s
  | .frame f =>
    if isStrayUp f then onShelf (countStray .up) s
    else if f.kind = kindOrder then
      onShelf (decideOrder f.address (f.payload.getD 0 0) (field16 f.payload 1)) s
    else handleRequest f.payload s

/-- An entry arrives on UP: it is taken at once where it is the head and the Router may take it, and
otherwise waits (R161, R165). -/
def arriveUp (x : RxEntry) (s : State) : State :=
  if s.engUp.rx = [] ∧ routerFree s.toShelf then takeEntry x s else onShelf (offerUp x) s

/-- A frame on UP is damaged (R159). -/
def damageUp (s : State) : State :=
  arriveUp .damage
    (onShelf (editEngine .up fun e => { e with damaged := satInc e.damaged, assembling := none }) s)

/-- A frame is received on UP, once that port runs; one that no assembler can find whole is damaged (R159;
log entry 7). -/
def receiveUp (f : Frame) (s : State) : State :=
  if s.engUp.enabled then
    if frameValid f then
      arriveUp (.frame f) (onShelf (editEngine .up fun e => { e with assembling := none }) s)
    else damageUp s
  else s

/-- The Router takes the entries that it may, at most `n`, each with what follows from it (R165). -/
def routeWaiting : Nat → State → State
  | 0, s => s
  | n + 1, s =>
    match s.engUp.rx with
    | x :: rest =>
      if routerFree s.toShelf then
        routeWaiting n
          (onShelf react
            (takeEntry x
              (onShelf (fun s => { s with engUp := { s.engUp with rx := rest } }) s)))
      else s
    | [] => s

/-! ### The upstream transmit arbiter (R162, R167) -/

/-- A frame that is not telemetry raises the non-telemetry run, to at most 4 (R167). -/
def runAfter (s : Shelf) : Nat := min (s.telemetryRun + 1) 4

/-- The oldest TELEMETRY copy is taken (R167). -/
def takeTelemetry (s : Shelf) : Option (TxFrame × Shelf) :=
  match s.telemetry with
  | f :: telemetry => some (⟨f, false⟩, { s with telemetry, telemetryRun := 0 })
  | [] => none

/-- The oldest reply is taken, and the oldest frame of the reply wait moves up (R165). -/
def takeReply (rest : List TxFrame) (s : Shelf) : Shelf :=
  { s with
    replies := rest ++ s.replyWait.take 1, replyWait := s.replyWait.drop 1
    telemetryRun := runAfter s }

/-- The oldest notice is taken (R168). -/
def takeNotice (notices : List Notice) (s : Shelf) : Shelf :=
  { s with notices, telemetryRun := runAfter s }

/-- The next frame to load, and the classes after it is taken (R167). -/
def chooseUp (s : Shelf) : Option (TxFrame × Shelf) :=
  if s.telemetryRun = 4 ∧ s.telemetry ≠ [] then takeTelemetry s
  else
    match s.replies, s.notices with
    | r :: rest, _ => some (r, takeReply rest s)
    | [], n :: rest => some (⟨noticeFrame n, false⟩, takeNotice rest s)
    | [], [] => takeTelemetry s

/-- A loaded frame moves to the shifter when it is IDLE (R162). -/
def moveToShifter (e : PortEngine) : PortEngine :=
  match e.shifter, e.buffer with
  | none, some f => { e with shifter := some f, buffer := none }
  | _, _ => e

/-- The upstream transmit arbiter loads one frame in an event in which the UP buffer is EMPTY and a class
holds a frame (R162, R167; log entry 13). -/
def arbitrateUp (s : Shelf) : Shelf :=
  if s.engUp.enabled ∧ s.engUp.buffer = none then
    match chooseUp s with
    | some (f, after) =>
      { after with engUp := moveToShifter { after.engUp with buffer := some f } }
    | none => s
  else s

/-! ### Events -/

/-- An event begins: shelf time has moved on, and the pins and open orders are the event's (R1; log
entries 1 and 3). -/
def opening (e : Ambient) (s : State) : State :=
  onShelf (fun s => { s with shelfTime := s.shelfTime + e.elapsed, ambient := e }) s

/-- An event ends: its reactions, the Router, the upstream arbiter, the Router again where a place in the
reply queue has opened, and the downstream arbiters (R146, R165, R167). -/
def closing (s : State) : State :=
  onShelf (fun s => arbitrate .tp (arbitrate .sp s))
    (routeWaiting Config.rxDepth (onShelf arbitrateUp (routeWaiting Config.rxDepth (onShelf react s))))

/-- An event that acts on the blocks. -/
def event (e : Ambient) (f : Shelf → Shelf) (s : State) : State :=
  closing (onShelf f (opening e s))

/-- An event that may act on the store as well. -/
def wholeEvent (e : Ambient) (f : State → State) (s : State) : State := closing (f (opening e s))

/-- A REQUEST frame with a code and arguments (R163, R166). -/
def requestFrame (code : Byte) (args : List Byte) : Frame := ⟨0, kindRequest, code :: args⟩

/-- A request of the rack manager arrives (log entry 7). -/
def request (e : Ambient) (code : Byte) (args : List Byte) (s : State) : State :=
  wholeEvent e (receiveUp (requestFrame code args)) s

end Sys2Proof.Machine
end

