-- ==== Sys2Proof/Machine/ActionRequests.lean ====
section
/-! DEFINITION. The rows by which the rack manager acts on the shelf: CLEAR_TRAY (R101), RUN_PROGRAM
(R117), ABORT_PROGRAM (R118), CLEAR_ZONE (R132), PORT_ENABLE (R152) and PORT_DISABLE (R153). -/

namespace Sys2Proof.Machine

/-- CLEAR_TRAY (R101). -/
def execClearTray (e : Ambient) (tray : Byte) (s : State) :
    Host.Outcome State Fault Refusal :=
  .next (request e rqClearTray [tray] s)

/-- RUN_PROGRAM (R117). -/
def execRunProgram (e : Ambient) (step : Byte) (s : State) :
    Host.Outcome State Fault Refusal :=
  .next (request e rqRunProgram [step] s)

/-- ABORT_PROGRAM (R118). -/
def execAbortProgram (e : Ambient) (s : State) :
    Host.Outcome State Fault Refusal := .next (request e rqAbortProgram [] s)

/-- CLEAR_ZONE (R132). -/
def execClearZone (e : Ambient) (zone epoch : Byte) (s : State) :
    Host.Outcome State Fault Refusal :=
  .next (request e rqClearZone [zone, epoch] s)

/-- PORT_ENABLE (R152). -/
def execPortEnable (e : Ambient) (port : Byte) (s : State) :
    Host.Outcome State Fault Refusal :=
  .next (request e rqPortEnable [port] s)

/-- PORT_DISABLE (R153). -/
def execPortDisable (e : Ambient) (port : Byte) (s : State) :
    Host.Outcome State Fault Refusal :=
  .next (request e rqPortDisable [port] s)

end Sys2Proof.Machine
end

