-- ==== Sys2Proof/Machine/Characters.lean ====
section
/-! DEFINITION. The character layer of a port under its settings (R156): the bit rate, the bits of a
character in the order in which they are sent, the receiver's reading of them, and the time that the
gap limit gives (R159). -/

namespace Sys2Proof.Machine

/-- The divisor of the bit rate (R156). -/
def divisor (e : PortSettings) : Nat := (e.d + 1) * 16 + e.f

/-- The bits of a character (R156). -/
def characterBits (e : PortSettings) : Nat :=
  9 + (if e.parity = .none then 0 else 1) + e.stopBits

/-- The data bits of a character, least significant first (R156). -/
def dataBits (b : Byte) : List Bool := (List.range 8).map fun i => b.getLsbD i

/-- The parity bit of some data bits: EVEN makes the number of ones even, ODD makes it odd, and NONE has no
such bit (R156). -/
def parityBit (parity : Parity) (bits : List Bool) : List Bool :=
  match parity with
  | .none => []
  | .even => [bits.foldl xor false]
  | .odd => [!bits.foldl xor false]

/-- The levels of a character as it is sent, high as true: a low start bit, the data bits, the parity bit and
the high stop bits (R156). -/
def characterLevels (e : PortSettings) (b : Byte) : List Bool :=
  false :: dataBits b ++ parityBit e.parity (dataBits b) ++ List.replicate e.stopBits true

/-- The level at a bit's place of a character; past its end the line rests high (R156). -/
def levelAt (levels : List Bool) (i : Nat) : Bool := levels.getD i true

/-- The character that a receiver reads (R156): its data, with an error when the parity bit does not match or
the first stop bit is low. The second stop bit is not checked. -/
def readCharacter (e : PortSettings) (levels : List Bool) : Character :=
  let bits := (List.range 8).map fun i => levelAt levels (1 + i)
  let parity := parityBit e.parity bits
  { data := BitVec.ofNat 8 (bitSet ((List.range 8).filter fun i => levelAt levels (1 + i)))
    error := parity.any (fun p => levelAt levels 9 ≠ p) || !levelAt levels (9 + parity.length) }

/-- The gap limit in cycles of the link clock (R156, R159). -/
def gapCycles (e : PortSettings) : Nat := e.gapLimit * characterBits e * divisor e

/-- Each of the characters has come within the gap limit of the one before it (R159). -/
def inTime (e : PortSettings) (cs : List RxChar) : Bool := cs.all fun c => c.gap ≤ gapCycles e

/-- The characters as the receiver hands them to its frame assembler (R156). -/
def readAll (e : PortSettings) (cs : List RxChar) : List Character :=
  cs.map fun c => readCharacter e c.levels

/-- A frame after its start character as a port with the same settings sends it, one character directly after
another (R156, R162). -/
def sentCharacters (e : PortSettings) (f : Frame) : List RxChar :=
  (frameChecked f ++ frameCheck f).map fun b =>
    ⟨characterLevels e b, characterBits e * divisor e⟩

end Sys2Proof.Machine
end

