-- ==== Sys2Proof/Machine/ResetEvents.lean ====
section
/-! DEFINITION. The reset rows: POWER_ON_RESET (R1), RESET_LINE (R185), RESTART and RESTART_PERFORM
(R170). -/

namespace Sys2Proof.Machine

/-- POWER_ON_RESET (R1, R186). -/
def execPowerOnReset (e : Ambient) (s : State) :
    Host.Outcome State Fault Refusal :=
  .next (wholeEvent e (resetPart .powerOn) s)

/-- RESET_LINE (R185). -/
def execResetLine (e : Ambient) (s : State) :
    Host.Outcome State Fault Refusal :=
  .next (wholeEvent e (resetPart .line) s)

/-- RESTART (R170): the request arrives. -/
def execRestart (e : Ambient) (s : State) :
    Host.Outcome State Fault Refusal := .next (request e rqRestart [] s)

/-- The DONE answer of a pending restart has been sent, or is the frame that the shifter finishes now
(R170). -/
def restartReady (s : Shelf) : Bool :=
  s.restart = some true || (s.restart.isSome && s.engUp.shifter.any (·.restartDone))

/-- The UP transmit-end of R170: a frame is in the shifter and none in the buffer (R162). -/
def upEnds (s : Shelf) : Bool := s.engUp.shifter.isSome && s.engUp.buffer = none

/-- The UP shifter finishes a frame with the buffer EMPTY: it becomes IDLE, and a restart whose DONE answer
has been sent is carried out (R162, R170). -/
def endUp (s : State) : State :=
  if upEnds s.toShelf then
    if restartReady s.toShelf then resetPart .restart s
    else onShelf (editEngine .up fun e => { e with shifter := none }) s
  else s

/-- RESTART_PERFORM (R170): the UP transmit-end at which a pending restart is carried out (log entry
30). -/
def execRestartPerform (e : Ambient) (s : State) :
    Host.Outcome State Fault Refusal :=
  .next (wholeEvent e (fun s => if restartReady s.toShelf then endUp s else s) s)

end Sys2Proof.Machine
end

