-- ==== Sys2Proof/Machine/FrameEvents.lean ====
section
/-! DEFINITION. The rows of the link ports: characters, frames, damage and transmit ends (R156, R159,
R161, R162), what the Router takes from UP (R164, R165), ORDER (R150) and REQUEST_INVALID_CODE (R166). -/

namespace Sys2Proof.Machine

/-- A port hears the character that ends now: UP always, a downstream port while its own shifter is not SENDING
(R156), or became SENDING only now (log entry 9), and no port that does not run. -/
def hears (s : Shelf) (p : Port) : Bool :=
  (engine s p).enabled &&
    (p = .up || (engine s p).shifter = none || (engine s p).began = s.shelfTime)

/-- A port hears the character that ends now, and its frame assembler is ASSEMBLING (R156, R159). -/
def assembles (s : Shelf) (p : Port) : Bool := hears s p && (engine s p).assembling.isSome

/-- The characters after the start character, as the port reads them; none where one came too late, since the
gap limit has then damaged the frame before (R156, R159). -/
def heardCharacters (s : Shelf) (p : Port) (cs : List RxChar) : Option (List Character) :=
  let e := (engine s p).settings
  if assembles s p && inTime e cs then some (readAll e cs) else none

/-- The frame assembler returns to HUNTING (R159). -/
def hunt (p : Port) (s : Shelf) : Shelf := editEngine p (fun e => { e with assembling := none }) s

/-- A frame on a port is damaged (R159): counted, and its mark delivered. -/
def damageOn (p : Port) (s : State) : State :=
  if p = .up then damageUp s
  else
    onShelf
      (fun s => judge p .damage
        (editEngine p (fun e => { e with damaged := satInc e.damaged, assembling := none }) s)) s

/-- A whole frame on a port is delivered (R159, R161). -/
def deliverOn (p : Port) (f : Frame) (s : State) : State :=
  if p = .up then receiveUp f s else onShelf (fun s => judge p (.frame f) (hunt p s)) s

/-- FRAME_RECEIVED (R159): the characters after the start character make a whole frame. -/
def execFrameReceived (e : Ambient) (port : Port) (chars : List RxChar) (s : State) :
    Host.Outcome State Fault Refusal :=
  .next (wholeEvent e
    (fun s =>
      match (heardCharacters s.toShelf port chars).map assemble with
      | some (.whole f) => deliverOn port f s
      | some .more | some .damaged | none => s) s)

/-- FRAME_DAMAGED (R159): the last of the characters after the start character damages the frame. -/
def execFrameDamaged (e : Ambient) (port : Port) (chars : List RxChar) (s : State) :
    Host.Outcome State Fault Refusal :=
  .next (wholeEvent e
    (fun s =>
      if (heardCharacters s.toShelf port chars).any damagedAtEnd then damageOn port s else s) s)

/-- The gap limit has passed since the end of the last character of the frame that a port assembles, its start
character at the earliest (R159; log entry 8). -/
def gapPassed (s : Shelf) (p : Port) : Bool :=
  (engine s p).enabled &&
    ((engine s p).assembling.any fun t => s.ambient.lineQuiet.toNat ≤ (s.shelfTime - t).toNat) &&
    gapCycles (engine s p).settings ≤ 40 * s.ambient.lineQuiet.toNat

/-- GAP_LIMIT_EXPIRY (R159). -/
def execGapLimitExpiry (e : Ambient) (port : Port) (s : State) :
    Host.Outcome State Fault Refusal :=
  .next (wholeEvent e (fun s => if gapPassed s.toShelf port then damageOn port s else s) s)

/-- The reply timer becomes RUNNING at a downstream transmit-end (R143). -/
def startReplyTimer (p : Port) (s : Shelf) : Shelf :=
  let expiry := s.shelfTime + msTime (engine s p).settings.replyTimeout
  editPoll p (fun x => { x with inFlight := x.inFlight.map fun tx => { tx with timer := .running expiry } })
    s

/-- A downstream shifter finishes its frame (R143, R162). -/
def endDown (p : Port) (s : Shelf) : Shelf :=
  if (engine s p).shifter.isSome && (engine s p).buffer = none then
    startReplyTimer p (editEngine p (fun e => { e with shifter := none }) s)
  else s

/-- TRANSMIT_END (R162). -/
def execTransmitEnd (e : Ambient) (port : Port) (s : State) :
    Host.Outcome State Fault Refusal :=
  .next (wholeEvent e (fun s => if port = .up then endUp s else onShelf (endDown port) s) s)

/-- The UP shifter takes the buffered frame as it finishes one (R162); a DONE answer of a restart that it
finished has been sent (R170). -/
def shiftUp (s : Shelf) : Shelf :=
  match s.engUp.shifter, s.engUp.buffer with
  | some f, some next =>
    { s with
      engUp := { s.engUp with shifter := some next, buffer := none }
      restart := if f.restartDone then s.restart.map fun _ => true else s.restart }
  | _, _ => s

/-- SHIFTER_FINISHES_FRAME (R162). -/
def execShifterFinishesFrame (e : Ambient) (s : State) :
    Host.Outcome State Fault Refusal := .next (event e shiftUp s)

/-- START_CHARACTER_RECEIVED (R159). -/
def execStartCharacterReceived (e : Ambient) (port : Port) (s : State) :
    Host.Outcome State Fault Refusal :=
  .next (event e
    (fun s =>
      if hears s port && (engine s port).assembling = none then
        editEngine port (fun x => { x with assembling := some s.shelfTime }) s
      else s) s)

/-- UP_DAMAGE_MARK_TAKEN (R165): the event in which the Router may take the mark at the head (log entry
7). -/
def execUpDamageMarkTaken (e : Ambient) (s : State) :
    Host.Outcome State Fault Refusal := .next (event e id s)

/-- UP_STRAY_FRAME (R164): the frame arrives (log entry 7). -/
def execUpStrayFrame (e : Ambient) (frame : Frame) (s : State) :
    Host.Outcome State Fault Refusal :=
  .next (wholeEvent e (receiveUp frame) s)

/-- The frame of an ORDER (R163). -/
def orderUp (address code : Byte) (argument : BitVec 16) : Frame :=
  ⟨address, kindOrder, code :: be16 argument.toNat⟩

/-- ORDER (R150): the ORDER arrives (log entry 7). -/
def execOrder (e : Ambient) (address code : Byte) (argument : BitVec 16) (s : State) :
    Host.Outcome State Fault Refusal :=
  .next (wholeEvent e (receiveUp (orderUp address code argument)) s)

/-- REQUEST_INVALID_CODE (R166): a REQUEST with this payload arrives (log entry 7). -/
def execRequestInvalidCode (e : Ambient) (payload : List Byte) (s : State) :
    Host.Outcome State Fault Refusal :=
  .next (wholeEvent e (receiveUp ⟨0, kindRequest, payload⟩) s)

end Sys2Proof.Machine
end

