-- ==== Sys2Proof/Machine/LineEvents.lean ====
section
/-! DEFINITION. The rows of the sense lines: FILTER_SAMPLE and FIRST_ACCEPTANCE (R4), LINE_EDGE (R6). -/

namespace Sys2Proof.Machine

/-- FILTER_SAMPLE (R4). -/
def execFilterSample (e : Ambient) (line : Fin 16) (level : Level) (s : State) :
    Host.Outcome State Fault Refusal :=
  .next (event e (filterSample line level) s)

/-- FIRST_ACCEPTANCE (R4). -/
def execFirstAcceptance (e : Ambient) (line : Fin 16) (level : Level) (s : State) :
    Host.Outcome State Fault Refusal :=
  .next (event e (acceptance true line level) s)

/-- LINE_EDGE (R6). -/
def execLineEdge (e : Ambient) (line : Fin 16) (level : Level) (s : State) :
    Host.Outcome State Fault Refusal :=
  .next (event e (acceptance false line level) s)

end Sys2Proof.Machine
end

