-- ==== Sys2Proof/Machine/ReadRequests.lean ====
section
/-! DEFINITION. The rows that read a record: READ_LINE (R8), READ_SIGNAL (R24), READ_BALANCE (R41),
READ_MODULE (R61), READ_RIDE (R84), READ_TRAY and READ_QUEUE (R107), READ_PROGRAM (R121), READ_ZONE
(R134), READ_POLL (R155), READ_PORT (R169). -/

namespace Sys2Proof.Machine

/-- READ_LINE (R8). -/
def execReadLine (e : Ambient) (line : Byte) (s : State) :
    Host.Outcome State Fault Refusal :=
  .next (request e rqReadLine [line] s)

/-- READ_SIGNAL (R24). -/
def execReadSignal (e : Ambient) (first count : Byte) (s : State) :
    Host.Outcome State Fault Refusal :=
  .next (request e rqReadSignal [first, count] s)

/-- READ_BALANCE (R41). -/
def execReadBalance (e : Ambient) (s : State) :
    Host.Outcome State Fault Refusal := .next (request e rqReadBalance [] s)

/-- READ_MODULE (R61). -/
def execReadModule (e : Ambient) (kind index : Byte) (s : State) :
    Host.Outcome State Fault Refusal :=
  .next (request e rqReadModule [kind, index] s)

/-- READ_RIDE (R84). -/
def execReadRide (e : Ambient) (s : State) :
    Host.Outcome State Fault Refusal := .next (request e rqReadRide [] s)

/-- READ_TRAY (R107). -/
def execReadTray (e : Ambient) (first count : Byte) (s : State) :
    Host.Outcome State Fault Refusal :=
  .next (request e rqReadTray [first, count] s)

/-- READ_QUEUE (R107). -/
def execReadQueue (e : Ambient) (s : State) :
    Host.Outcome State Fault Refusal := .next (request e rqReadQueue [] s)

/-- READ_PROGRAM (R121). -/
def execReadProgram (e : Ambient) (s : State) :
    Host.Outcome State Fault Refusal := .next (request e rqReadProgram [] s)

/-- READ_ZONE (R134). -/
def execReadZone (e : Ambient) (zone : Byte) (s : State) :
    Host.Outcome State Fault Refusal :=
  .next (request e rqReadZone [zone] s)

/-- READ_POLL (R155). -/
def execReadPoll (e : Ambient) (port first count : Byte) (s : State) :
    Host.Outcome State Fault Refusal :=
  .next (request e rqReadPoll [port, first, count] s)

/-- READ_PORT (R169). -/
def execReadPort (e : Ambient) (port : Byte) (s : State) :
    Host.Outcome State Fault Refusal :=
  .next (request e rqReadPort [port] s)

end Sys2Proof.Machine
end

