-- ==== Sys2Proof/Machine/StoreRequests.lean ====
section
/-! DEFINITION. The rows of the configuration store: STORE_ERASE, STORE_WRITE, STORE_VERIFY and
STORE_READ (R183), and STORE_OPERATION_COMPLETE (R184). -/

namespace Sys2Proof.Machine

/-- STORE_ERASE (R183). -/
def execStoreErase (e : Ambient) (scope row : Byte) (s : State) :
    Host.Outcome State Fault Refusal :=
  .next (request e rqStoreErase [scope, row] s)

/-- STORE_WRITE (R183). -/
def execStoreWrite (e : Ambient) (row page : Byte) (data : List Byte) (s : State) :
    Host.Outcome State Fault Refusal :=
  .next (request e rqStoreWrite (row :: page :: data) s)

/-- STORE_VERIFY (R183). -/
def execStoreVerify (e : Ambient) (row page : Byte) (s : State) :
    Host.Outcome State Fault Refusal :=
  .next (request e rqStoreVerify [row, page] s)

/-- STORE_READ (R183). -/
def execStoreRead (e : Ambient) (row page : Byte) (s : State) :
    Host.Outcome State Fault Refusal :=
  .next (request e rqStoreRead [row, page] s)

/-- STORE_OPERATION_COMPLETE (R184). -/
def execStoreOperationComplete (e : Ambient) (weak : Bool) (s : State) :
    Host.Outcome State Fault Refusal :=
  .next (wholeEvent e (completeOperation weak) s)

end Sys2Proof.Machine
end

