-- ==== Sys2Proof/Machine/TableRequests.lean ====
section
/-! DEFINITION. The rows of the Table Memory and its edit window: READ_TABLE (R173), EDIT_OPEN and
EDIT_WRITE (R175), EDIT_APPLY (R176), EDIT_DISCARD and EDIT_IDLE_TIMER_EXPIRY (R179). -/

namespace Sys2Proof.Machine

/-- READ_TABLE (R173). -/
def execReadTable (e : Ambient) (table first count : Byte) (s : State) :
    Host.Outcome State Fault Refusal :=
  .next (request e rqReadTable [table, first, count] s)

/-- EDIT_OPEN (R175). -/
def execEditOpen (e : Ambient) (table first count : Byte) (s : State) :
    Host.Outcome State Fault Refusal :=
  .next (request e rqEditOpen [table, first, count] s)

/-- EDIT_WRITE (R175). -/
def execEditWrite (e : Ambient) (entry : Byte) (record : List Byte) (s : State) :
    Host.Outcome State Fault Refusal :=
  .next (request e rqEditWrite (entry :: record) s)

/-- EDIT_APPLY (R176). -/
def execEditApply (e : Ambient) (s : State) :
    Host.Outcome State Fault Refusal := .next (request e rqEditApply [] s)

/-- EDIT_DISCARD (R179). -/
def execEditDiscard (e : Ambient) (s : State) :
    Host.Outcome State Fault Refusal := .next (request e rqEditDiscard [] s)

/-- The idle timer of the open window has expired. -/
def idleExpired (s : Shelf) : Bool := s.window.any fun w => expired s.shelfTime w.idle

/-- EDIT_IDLE_TIMER_EXPIRY (R179). -/
def execEditIdleTimerExpiry (e : Ambient) (s : State) :
    Host.Outcome State Fault Refusal :=
  .next (event e (fun s => if idleExpired s then expireWindow s else s) s)

end Sys2Proof.Machine
end

