-- ==== Sys2Proof/Machine/TimerEvents.lean ====
section
/-! DEFINITION. The rows of the timers: each acts when its timer is due, and otherwise only lets time
pass (log entry 6); and AUTOSTART (R120). -/

namespace Sys2Proof.Machine

/-- The empty-pass timer expires (R142). -/
def emptyPassExpiry (p : Port) (s : Shelf) : Shelf :=
  if expired s.shelfTime (pollEngine s p).emptyTimer then
    editPoll p (fun x => { x with emptyTimer := .stopped }) s
  else s

/-- EMPTY_PASS_TIMER_EXPIRY (R142): the arbiter is asked again as the event ends. -/
def execEmptyPassTimerExpiry (e : Ambient) (port : Port) (s : State) :
    Host.Outcome State Fault Refusal :=
  .next (event e (emptyPassExpiry port) s)

/-- The reply timer expires: the transaction ends failed (R143). -/
def replyExpiry (p : Port) (s : Shelf) : Shelf :=
  match (pollEngine s p).inFlight with
  | some tx => if expired s.shelfTime tx.timer then endFailed p tx s else s
  | none => s

/-- REPLY_TIMER_EXPIRY (R143). -/
def execReplyTimerExpiry (e : Ambient) (port : Port) (s : State) :
    Host.Outcome State Fault Refusal :=
  .next (event e (replyExpiry port) s)

/-- The forward interval has passed since a module's last copy (R145). -/
def forwardExpiry (r : Nat) (s : Shelf) : Shelf :=
  if (rosterAt s r).any fun e => forwardDue e (vget s.modules r) s.shelfTime then
    editModule r (fun m => { m with lastCopy := none }) s
  else s

/-- FORWARD_INTERVAL_EXPIRY (R145). -/
def execForwardIntervalExpiry (e : Ambient) (roster : Fin 48) (s : State) :
    Host.Outcome State Fault Refusal :=
  .next (event e (forwardExpiry roster) s)

/-- A signal's stale time passes (R21). -/
def staleExpiry (n : Nat) (s : Shelf) : Shelf :=
  if staleDue s n then staleAll (feeding s n).toList s else s

/-- STALE_TIME_EXPIRY (R21). -/
def execStaleTimeExpiry (e : Ambient) (signal : Fin 128) (s : State) :
    Host.Outcome State Fault Refusal :=
  .next (event e (staleExpiry signal) s)

/-- The energy tick is due: the ride state is RIDE and 10 ms have passed (R68). -/
def tickDue (s : Shelf) : Bool := s.ride.state = .ride && s.ride.tick.any (reached s.shelfTime)

/-- ENERGY_TICK (R68). -/
def execEnergyTick (e : Ambient) (s : State) :
    Host.Outcome State Fault Refusal :=
  .next (event e (fun s => if tickDue s then energyTick s else s) s)

/-- The return qualify time has passed with the timer RUNNING (R79). -/
def qualifyDue (s : Shelf) : Bool :=
  (s.ride.state = .ride || s.ride.state = .depleted) &&
    s.ride.qualify.any fun t => reached s.shelfTime (t + msTime (policy s).qualifyTime)

/-- QUALIFY_TIMER_EXPIRY (R79). -/
def execQualifyTimerExpiry (e : Ambient) (s : State) :
    Host.Outcome State Fault Refusal :=
  .next (event e (fun s => if qualifyDue s then enterReturning s else s) s)

/-- A tray's start timer expires (R96). -/
def startExpiry (t : Nat) (s : Shelf) : Shelf :=
  if trayState s t = .starting && expired s.shelfTime (vget s.bay.trays t).startTimer then
    faultTray t .noGood s
  else s

/-- START_TIMER_EXPIRY (R96). -/
def execStartTimerExpiry (e : Ambient) (tray : Fin 24) (s : State) :
    Host.Outcome State Fault Refusal :=
  .next (event e (startExpiry tray) s)

/-- A zone's confirm timer has expired (R127). -/
def confirmDue (z : Nat) (s : Shelf) : Bool :=
  (vget s.zones z).state = .suspect && expired s.shelfTime (vget s.zones z).timer

/-- CONFIRM_TIMER_EXPIRY (R127). -/
def execConfirmTimerExpiry (e : Ambient) (zone : Fin 8) (s : State) :
    Host.Outcome State Fault Refusal :=
  .next (event e (fun s => if confirmDue zone s then confirmExpiry zone s else s) s)

/-- STEP_TIMER_EXPIRY (R114). -/
def execStepTimerExpiry (e : Ambient) (s : State) :
    Host.Outcome State Fault Refusal :=
  .next (event e (fun s => if expired s.shelfTime s.seq.stepTimer then stepExpiry s else s) s)

/-- DELAY_TIMER_EXPIRY (R113). -/
def execDelayTimerExpiry (e : Ambient) (s : State) :
    Host.Outcome State Fault Refusal :=
  .next (event e (fun s => if expired s.shelfTime s.seq.delayTimer then delayExpiry s else s) s)

/-- AUTOSTART (R120): the event in which the pending autostart finds its condition (log entry 7). -/
def execAutostart (e : Ambient) (s : State) :
    Host.Outcome State Fault Refusal := .next (event e autostartTest s)

end Sys2Proof.Machine
end

