-- ==== Sys2Proof/Machine/Dispatch.lean ====
section
/-! DEFINITION. The command's effect on everything but the queue: one arm per row of the table, each one call of
that row's meaning. -/

namespace Sys2Proof.Machine

def exec (i : Instr) (s : State) : Host.Outcome State Fault Refusal :=
  match i with
  | .powerOnReset e => Sys2Proof.Machine.execPowerOnReset e s
  | .resetLine e => Sys2Proof.Machine.execResetLine e s
  | .restart e => Sys2Proof.Machine.execRestart e s
  | .restartPerform e => Sys2Proof.Machine.execRestartPerform e s
  | .frameReceived e port chars => Sys2Proof.Machine.execFrameReceived e port chars s
  | .frameDamaged e port chars => Sys2Proof.Machine.execFrameDamaged e port chars s
  | .gapLimitExpiry e port => Sys2Proof.Machine.execGapLimitExpiry e port s
  | .transmitEnd e port => Sys2Proof.Machine.execTransmitEnd e port s
  | .upDamageMarkTaken e => Sys2Proof.Machine.execUpDamageMarkTaken e s
  | .upStrayFrame e frame => Sys2Proof.Machine.execUpStrayFrame e frame s
  | .order e address code argument => Sys2Proof.Machine.execOrder e address code argument s
  | .requestInvalidCode e payload => Sys2Proof.Machine.execRequestInvalidCode e payload s
  | .readTable e table first count => Sys2Proof.Machine.execReadTable e table first count s
  | .editOpen e table first count => Sys2Proof.Machine.execEditOpen e table first count s
  | .editWrite e entry record => Sys2Proof.Machine.execEditWrite e entry record s
  | .editApply e => Sys2Proof.Machine.execEditApply e s
  | .editDiscard e => Sys2Proof.Machine.execEditDiscard e s
  | .editIdleTimerExpiry e => Sys2Proof.Machine.execEditIdleTimerExpiry e s
  | .storeErase e scope row => Sys2Proof.Machine.execStoreErase e scope row s
  | .storeWrite e row page data => Sys2Proof.Machine.execStoreWrite e row page data s
  | .storeVerify e row page => Sys2Proof.Machine.execStoreVerify e row page s
  | .storeRead e row page => Sys2Proof.Machine.execStoreRead e row page s
  | .storeOperationComplete e weak => Sys2Proof.Machine.execStoreOperationComplete e weak s
  | .readLine e line => Sys2Proof.Machine.execReadLine e line s
  | .readSignal e first count => Sys2Proof.Machine.execReadSignal e first count s
  | .readBalance e => Sys2Proof.Machine.execReadBalance e s
  | .readModule e kind index => Sys2Proof.Machine.execReadModule e kind index s
  | .readRide e => Sys2Proof.Machine.execReadRide e s
  | .readTray e first count => Sys2Proof.Machine.execReadTray e first count s
  | .readQueue e => Sys2Proof.Machine.execReadQueue e s
  | .clearTray e tray => Sys2Proof.Machine.execClearTray e tray s
  | .runProgram e step => Sys2Proof.Machine.execRunProgram e step s
  | .abortProgram e => Sys2Proof.Machine.execAbortProgram e s
  | .readProgram e => Sys2Proof.Machine.execReadProgram e s
  | .readZone e zone => Sys2Proof.Machine.execReadZone e zone s
  | .clearZone e zone epoch => Sys2Proof.Machine.execClearZone e zone epoch s
  | .readPoll e port first count => Sys2Proof.Machine.execReadPoll e port first count s
  | .portEnable e port => Sys2Proof.Machine.execPortEnable e port s
  | .portDisable e port => Sys2Proof.Machine.execPortDisable e port s
  | .readPort e port => Sys2Proof.Machine.execReadPort e port s
  | .emptyPassTimerExpiry e port => Sys2Proof.Machine.execEmptyPassTimerExpiry e port s
  | .replyTimerExpiry e port => Sys2Proof.Machine.execReplyTimerExpiry e port s
  | .forwardIntervalExpiry e roster => Sys2Proof.Machine.execForwardIntervalExpiry e roster s
  | .staleTimeExpiry e signal => Sys2Proof.Machine.execStaleTimeExpiry e signal s
  | .lineEdge e line level => Sys2Proof.Machine.execLineEdge e line level s
  | .firstAcceptance e line level => Sys2Proof.Machine.execFirstAcceptance e line level s
  | .energyTick e => Sys2Proof.Machine.execEnergyTick e s
  | .qualifyTimerExpiry e => Sys2Proof.Machine.execQualifyTimerExpiry e s
  | .startTimerExpiry e tray => Sys2Proof.Machine.execStartTimerExpiry e tray s
  | .confirmTimerExpiry e zone => Sys2Proof.Machine.execConfirmTimerExpiry e zone s
  | .stepTimerExpiry e => Sys2Proof.Machine.execStepTimerExpiry e s
  | .delayTimerExpiry e => Sys2Proof.Machine.execDelayTimerExpiry e s
  | .autostart e => Sys2Proof.Machine.execAutostart e s
  | .filterSample e line level => Sys2Proof.Machine.execFilterSample e line level s
  | .startCharacterReceived e port => Sys2Proof.Machine.execStartCharacterReceived e port s
  | .shifterFinishesFrame e => Sys2Proof.Machine.execShifterFinishesFrame e s

end Sys2Proof.Machine
end

