-- ==== Sys2Proof/Machine/Step.lean ====
section
/-! DEFINITION. One step of the block: the command at the front of the queue is carried out; with none waiting,
shelf time passes (log entry 2). -/

namespace Sys2Proof.Machine

/-- Shelf time passes by one microsecond and nothing else happens (R1; log entry 2). -/
def idle (s : State) : State := { s with shelfTime := s.shelfTime + 1 }

/-- One step: the command at the front of the queue, carried out on the state with the queue's rest. -/
def step (s : State) : Host.Outcome State Fault Refusal :=
  match s.pending with
  | [] => .next (idle s)
  | c :: rest => exec c { s with pending := rest }

/-- The state with the command that a word spells put at the front of its queue; unchanged where the word
spells none. -/
def State.withFetchWord (s : State) (nbits w : Nat) : State :=
  match decodeTableWord nbits w with
  | some c => { s with pending := c :: s.pending }
  | none => s

end Sys2Proof.Machine
end

