-- ==== Sys2Proof/Safety.lean ====
section
/-! DEFINITION. The terms in which claims speak of the machine: a quiet part, a Router that may take a
frame, the state in which a command acts, the properties that every step keeps, and the ranges of table
entries. -/

namespace Sys2Proof.Machine

/-! ### When a command acts -/

/-- UP runs with an empty receive queue, and the Router may take what arrives (R165, R170). -/
abbrev Ready (s : State) : Prop :=
  s.engUp.enabled = true ∧ s.engUp.rx = [] ∧ s.replyWait = [] ∧ s.restart = none

/-- No reaction of an earlier event is left (log entry 5). -/
abbrev Quiet (s : Shelf) : Prop :=
  s.agenda = [] ∧ s.deferred = [] ∧ s.raised = [] ∧ s.admitDue = false

/-- The state in which a frame on UP is taken: the event has begun, and the assembler is HUNTING
again. -/
def heard (e : Ambient) (s : State) : State := onShelf (hunt .up) (opening e s)

/-- A state in which an ANSWER with this status and data is owed (R166). -/
def told (code status : Byte) (data : List Byte) (s : State) : State :=
  onShelf (respond code (status, data)) s

/-- No reaction is left and nothing waits on UP: an event that raises none ends with the arbiters. -/
abbrev Still (s : State) : Prop := Quiet s.toShelf ∧ s.engUp.rx = []

/-- A quiet part on which the Router may take a frame at once. -/
abbrev Calm (s : State) : Prop := Ready s ∧ Quiet s.toShelf

/-- What follows a command whose event has no reaction: the arbiters (R146, R167). -/
def sendOff (s : Shelf) : Shelf := arbitrate .tp (arbitrate .sp (arbitrateUp s))

/-- An event that has acted on the blocks and leaves no reaction: the arbiters end it. -/
def settled (f : Shelf → Shelf) (s : State) : State := onShelf (fun x => sendOff (f x)) s

/-- The end of an event whose one reaction is an ANSWER: its frames are placed, and the arbiters act
(R165, R166). -/
def answered (code status : Byte) (data : List Byte) (s : State) : State :=
  settled (placeReplies (answer code status data)) s

/-- Two states that differ at most in shelf time, in what the event shows, and in what is on its way to the
rack manager and to the modules (R146, R162, R167). -/
abbrev LinksOnly (a b : Shelf) : Prop :=
  b = { a with
    shelfTime := b.shelfTime, ambient := b.ambient, engUp := b.engUp, engSp := b.engSp
    engTp := b.engTp, pollSp := b.pollSp, pollTp := b.pollTp, replies := b.replies
    replyWait := b.replyWait, notices := b.notices, telemetry := b.telemetry
    telemetryRun := b.telemetryRun }

/-- What a command's event shows (log entries 1 and 3). -/
def ambientOf : Instr → Ambient
  | .powerOnReset e | .resetLine e | .restart e | .restartPerform e | .frameReceived e _ _
  | .frameDamaged e _ _ | .gapLimitExpiry e _ | .transmitEnd e _ | .upDamageMarkTaken e
  | .upStrayFrame e _ | .order e _ _ _ | .requestInvalidCode e _ | .readTable e _ _ _
  | .editOpen e _ _ _ | .editWrite e _ _ | .editApply e | .editDiscard e | .editIdleTimerExpiry e
  | .storeErase e _ _ | .storeWrite e _ _ _ | .storeVerify e _ _ | .storeRead e _ _
  | .storeOperationComplete e _ | .readLine e _ | .readSignal e _ _ | .readBalance e
  | .readModule e _ _ | .readRide e | .readTray e _ _ | .readQueue e | .clearTray e _
  | .runProgram e _ | .abortProgram e | .readProgram e | .readZone e _ | .clearZone e _ _
  | .readPoll e _ _ _ | .portEnable e _ | .portDisable e _ | .readPort e _
  | .emptyPassTimerExpiry e _ | .replyTimerExpiry e _ | .forwardIntervalExpiry e _
  | .staleTimeExpiry e _ | .lineEdge e _ _ | .firstAcceptance e _ _ | .energyTick e
  | .qualifyTimerExpiry e | .startTimerExpiry e _ | .confirmTimerExpiry e _ | .stepTimerExpiry e
  | .delayTimerExpiry e | .autostart e | .filterSample e _ _ | .startCharacterReceived e _
  | .shifterFinishesFrame e => e

/-- The commands that take no frame of the rack manager and no reset but RESTART: timers, lines, the
shifters, and the reactions that are rows of the table. -/
def leavesStore : Instr → Bool
  | .transmitEnd _ _ | .upDamageMarkTaken _ | .editIdleTimerExpiry _ | .emptyPassTimerExpiry _ _
  | .replyTimerExpiry _ _ | .forwardIntervalExpiry _ _ | .staleTimeExpiry _ _ | .lineEdge _ _ _
  | .firstAcceptance _ _ _ | .energyTick _ | .qualifyTimerExpiry _ | .startTimerExpiry _ _
  | .confirmTimerExpiry _ _ | .stepTimerExpiry _ | .delayTimerExpiry _ | .autostart _
  | .filterSample _ _ _ | .startCharacterReceived _ _ | .shifterFinishesFrame _
  | .restartPerform _ => true
  | .powerOnReset _ | .resetLine _ | .restart _ | .frameReceived _ _ _ | .frameDamaged _ _ _
  | .gapLimitExpiry _ _ | .upStrayFrame _ _ | .order _ _ _ _ | .requestInvalidCode _ _
  | .readTable _ _ _ _ | .editOpen _ _ _ _ | .editWrite _ _ _ | .editApply _ | .editDiscard _
  | .storeErase _ _ _ | .storeWrite _ _ _ _ | .storeVerify _ _ _ | .storeRead _ _ _
  | .storeOperationComplete _ _ | .readLine _ _ | .readSignal _ _ _ | .readBalance _
  | .readModule _ _ _ | .readRide _ | .readTray _ _ _ | .readQueue _ | .clearTray _ _
  | .runProgram _ _ | .abortProgram _ | .readProgram _ | .readZone _ _ | .clearZone _ _ _
  | .readPoll _ _ _ _ | .portEnable _ _ | .portDisable _ _ | .readPort _ _ => false

/-- The read requests that change nothing (R24, R41, R61, R84, R107, R121, R134, R155, R173, R183). -/
def onlyReads : Instr → Bool
  | .readTable _ _ _ _ | .storeRead _ _ _ | .readSignal _ _ _ | .readBalance _ | .readModule _ _ _
  | .readRide _ | .readTray _ _ _ | .readQueue _ | .readProgram _ | .readZone _ _
  | .readPoll _ _ _ _ => true
  | .powerOnReset _ | .resetLine _ | .restart _ | .restartPerform _ | .frameReceived _ _ _
  | .frameDamaged _ _ _ | .gapLimitExpiry _ _ | .transmitEnd _ _ | .upDamageMarkTaken _
  | .upStrayFrame _ _ | .order _ _ _ _ | .requestInvalidCode _ _ | .editOpen _ _ _ _
  | .editWrite _ _ _ | .editApply _ | .editDiscard _ | .editIdleTimerExpiry _ | .storeErase _ _ _
  | .storeWrite _ _ _ _ | .storeVerify _ _ _ | .storeOperationComplete _ _ | .readLine _ _
  | .clearTray _ _ | .runProgram _ _ | .abortProgram _ | .clearZone _ _ _ | .portEnable _ _
  | .portDisable _ _ | .readPort _ _ | .emptyPassTimerExpiry _ _ | .replyTimerExpiry _ _
  | .forwardIntervalExpiry _ _ | .staleTimeExpiry _ _ | .lineEdge _ _ _ | .firstAcceptance _ _ _
  | .energyTick _ | .qualifyTimerExpiry _ | .startTimerExpiry _ _ | .confirmTimerExpiry _ _
  | .stepTimerExpiry _ | .delayTimerExpiry _ | .autostart _ | .filterSample _ _ _
  | .startCharacterReceived _ _ | .shifterFinishesFrame _ => false

/-! ### What every step keeps -/

/-- The store's data is in canonical form, and no row's write count is above 8 (R180). -/
abbrev StoreOk (st : Store) : Prop :=
  Memory.wf st.cells = true ∧ ∀ row < 64, vget st.counts row ≤ Config.writeLimit

/-- The start queue holds exactly the QUEUED trays, and the restore stack exactly the SHEDDING and SHED
ones, each once (R76, R92). -/
abbrev BayExact (b : Bay) : Prop :=
  b.queue.Nodup ∧ b.stack.Nodup ∧
    (∀ t, t ∈ b.queue ↔ t < Config.trayCount ∧ (vget b.trays t).state = .queued) ∧
    ∀ t, t ∈ b.stack ↔ t < Config.trayCount ∧ onStack (vget b.trays t).state = true

/-- E_rem never exceeds E_cap (R70). -/
abbrev EnergyOk (r : Ride) : Prop := r.eRem ≤ r.eCap

/-- The marks of a ride agree with its state: a summary is open outside NORMAL alone (R83), the tick runs in
RIDE alone (R68), the qualify timer in RIDE and DEPLETED alone (R79), and the residue is below 100. -/
abbrev RideMarks (r : Ride) : Prop :=
  r.r ≤ 99 ∧ (r.state = .normal ↔ r.openSummary = none) ∧ (r.state = .ride ↔ r.tick ≠ none) ∧
    (r.qualify ≠ none → r.state = .ride ∨ r.state = .depleted)

/-- A Poll Engine's figures are in their ranges, and its control queue holds at most one order per module
(R141, R147, R148). -/
abbrev PollBounded (x : PollEngine) : Prop :=
  x.position < 32 ∧ x.pass < 8 ∧ x.nonPollRun ≤ 3 ∧ x.command.length ≤ Config.commandDepth ∧
    (x.control.map (·.roster)).Nodup

/-- The receive, REPLY, NOTICE, TELEMETRY and command queues are no longer than their depths, and the counts of the
arbiters are in their ranges (R141, R161, R167, R168). -/
abbrev QueuesBounded (s : Shelf) : Prop :=
  (∀ p ∈ [Port.up, .sp, .tp], (engine s p).rx.length ≤ Config.rxDepth) ∧ s.replies.length ≤ Config.replyDepth ∧
    s.notices.length ≤ Config.noticeDepth ∧ s.telemetry.length ≤ Config.telemetryDepth ∧
    s.telemetryRun ≤ 4 ∧ PollBounded s.pollSp ∧ PollBounded s.pollTp

/-- The figures of a balance record agree with one another (R33, R34, R35, R36). -/
abbrev BalanceAgrees (b : Balance) : Prop :=
  b.sGrid = b.g.toList.sum ∧ b.q ≤ b.sGrid ∧ b.sAdm = b.sGrid - b.q ∧ b.k ≤ b.c ∧
    b.h = (b.sAdm : Int) - b.c ∧ b.h0 = b.h + b.k ∧ b.d = b.m - b.sGrid ∧
    (b.overcommit = true ↔ b.h < 0)

/-- What only NORMAL allows: a restart that is pending (R170), and a sequencer that is WAITING (R116). -/
abbrev NormalWork (s : Shelf) : Prop :=
  (s.restart ≠ none → s.ride.state = .normal) ∧ (s.seq.state = .waiting → s.ride.state = .normal)

/-- An in-use tray names a zone that is WET (R87, R100). -/
abbrev ZoneLocks (x : Shelf) (t : Nat) : Prop :=
  ∃ e z, trayAt x t = some e ∧ e.zone = some z ∧ (zoneAt x z).isSome = true ∧
    (vget x.zones z).state = .wet

/-! ### What follows a change of a battery's or a tray's record -/

/-- Between two states, a tray's state change is handed to the Balance Unit and posted where the new state is
FAULT, LOCKED or SHED, and no other tray changes (R105). An admission evaluation becomes due where the tray leaves
STARTING or enters QUEUED or SHED, where the head of the start queue or the restore stack changes, and where adoption
becomes complete (R93). A changed head gives a charge evaluation (R92), a changed stack its test in RETURNING (R76,
R82), and complete adoption the test of a pending autostart (R89, R120). -/
abbrev TrayTold (t : Nat) (x y : Shelf) : Prop :=
  let a := vget x.bay.trays t
  let b := vget y.bay.trays t
  let posts := a.state ≠ b.state ∧ (b.state = .fault ∨ b.state = .locked ∨ b.state = .shed)
  (∀ u, u ≠ t → vget y.bay.trays u = vget x.bay.trays u) ∧
    (a.state ≠ b.state →
      b.stateTime = x.shelfTime ∧ Task.balance ∈ y.raised ∧ Cause.tray ∈ y.causes) ∧
    (posts →
      y.notices = offerNotice
        { time := x.shelfTime, source := 6, index := t, code := 8, more := false
          word1 := twoItems (trayStateNumber a.state) (trayStateNumber b.state)
          word2 :=
            match b.state with
            | .fault => (b.fault.map trayFaultNumber).getD 255
            | .locked => ((trayAt x t).bind (·.zone)).getD 255
            | _ => ((trayAt x t).map (·.shedRank)).getD 0 } x.notices) ∧
    (¬posts → y.notices = x.notices) ∧
    (a.state ≠ b.state → a.state = .starting ∨ b.state = .queued ∨ b.state = .shed →
      y.admitDue = true) ∧
    (x.bay.queue.head? ≠ y.bay.queue.head? → y.admitDue = true ∧ Task.charge ∈ y.deferred) ∧
    (x.bay.stack ≠ y.bay.stack → y.admitDue = true ∧ Task.stackChanged ∈ y.raised) ∧
    (adoptionComplete x = false → adoptionComplete y = true →
      y.admitDue = true ∧ Task.autostartTest ∈ y.deferred)

/-- An order with this code to a tray is queued or in flight, where its module can be ordered: the Roster entry is
the tray's and TP is ENABLED (R90, R147). -/
abbrev TrayOrdered (t : Nat) (code : Byte) (x y : Shelf) : Prop :=
  ∀ e, trayAt x t = some e → rosterIs x e.roster .tray t = true → x.engTp.enabled = true →
    isPlaced y (.tray t) code = true

/-- An order with this code to a battery is queued or in flight, where its module can be ordered: the Roster entry
is the battery's, SP is ENABLED (R53, R147), and no order of that code waits under another Roster entry, as
one may after an apply to the battery's entry (log entry 59). -/
abbrev BbmOrdered (k : Nat) (code : Byte) (x y : Shelf) : Prop :=
  ∀ e, bbmAt x k = some e → rosterIs x e.roster .bbm k = true → x.engSp.enabled = true →
    (∀ o ∈ x.pollSp.control, o.target = .bbm k → o.code = code → o.roster = e.roster) →
    isPlaced y (.bbm k) code = true

/-- Between two states, SP's control queue gained no order but ones with this code and argument 0 to these
batteries. -/
abbrev OnlyOrdered (code : Byte) (who : Nat → Prop) (x y : Shelf) : Prop :=
  ∀ o ∈ y.pollSp.control, o ∈ x.pollSp.control ∨
    ∃ k < 6, who k ∧ o.target = .bbm k ∧ o.code = code ∧ o.argument = 0

/-- SP's control queue when this order is placed to a battery unless one is queued or in flight (R55, R64, R66). -/
abbrev OrderedOnce (k : Nat) (code : Byte) (x y : Shelf) : Prop :=
  BbmOrdered k code x y ∧ OnlyOrdered code (fun j => j = k) x y ∧
    (isPlaced x (.bbm k) code = true → y.pollSp = x.pollSp)

/-- The orders that follow a battery's entry to a state: in RIDE, DISCHARGE to one that enters IDLE or CHARGING; in
DEPLETED or RETURNING, HOLD to one that enters DISCHARGING; and otherwise none (R66). -/
abbrev RideOrdered (k : Nat) (entered : BbmState) (x y : Shelf) : Prop :=
  let discharge := x.ride.state = .ride ∧ (entered = .idle ∨ entered = .charging)
  let hold := (x.ride.state = .depleted ∨ x.ride.state = .returning) ∧ entered = .discharging
  (discharge → OrderedOnce k 0x11 x y) ∧ (hold → OrderedOnce k 0x12 x y) ∧
    (¬discharge → ¬hold → y.pollSp = x.pollSp)

/-- Between two states, a BBM's state change is posted with this reason, handed to the Balance Unit, and handed to the
Ride-Through Controller, whose account and orders follow it; a change of its acknowledged rate is handed to the
Balance Unit, a change of its FULL or state gives a charge evaluation, and no other BBM changes (R54, R55, R58,
R66). -/
abbrev BbmTold (k : Nat) (reason : BbmReason) (x y : Shelf) : Prop :=
  let a := vget x.bbms k
  let b := vget y.bbms k
  (∀ j, j ≠ k → vget y.bbms j = vget x.bbms j) ∧
    (a.state = b.state → y.notices = x.notices ∧ y.ride = x.ride ∧ y.pollSp = x.pollSp) ∧
    (a.state ≠ b.state →
      y.notices = offerNotice
        { time := x.shelfTime, source := 4, index := k, code := 3, more := false
          word1 := twoItems (bbmStateNumber a.state) (bbmStateNumber b.state)
          word2 := bbmReasonNumber reason } x.notices ∧
        Task.balance ∈ y.raised ∧ Cause.bbmState ∈ y.causes ∧ Task.charge ∈ y.deferred ∧
        y.ride = (rideBattery k a.state b.state { x with bbms := y.bbms }).ride ∧
        RideOrdered k b.state x y) ∧
    (a.acknowledged ≠ b.acknowledged → Task.balance ∈ y.raised ∧ Cause.charge ∈ y.causes) ∧
    (a.full ≠ b.full → Task.charge ∈ y.deferred)

/-- The batteries are ordered to discharge: every usable one in IDLE or CHARGING, and no other (R64, R81). -/
abbrev DischargeOrdered (x y : Shelf) : Prop :=
  let who := fun k => usable x k = true ∧
    ((vget x.bbms k).state = .idle ∨ (vget x.bbms k).state = .charging)
  y.pollSp = (dischargeBatteries x).pollSp ∧ (∀ k < 6, who k → BbmOrdered k 0x11 x y) ∧
    OnlyOrdered 0x11 who x y

/-- The batteries are ordered to hold: every one in DISCHARGING, and every one to which a DISCHARGE is queued or in
flight, and no other (R75, R80). -/
abbrev HoldOrdered (x y : Shelf) : Prop :=
  let who := fun k => (vget x.bbms k).state = .discharging ∨ isPlaced x (.bbm k) 0x11 = true
  y.pollSp = (holdBatteries x).pollSp ∧
    (∀ k < 6, (vget x.bbms k).state = .discharging → BbmOrdered k 0x12 x y) ∧
    (∀ k < 6, isPlaced x (.bbm k) 0x11 = true →
      (∀ e, bbmAt x k = some e →
        ∀ o ∈ x.pollSp.control, o.target = .bbm k → o.code = 0x11 → o.roster = e.roster) →
      BbmOrdered k 0x12 x y) ∧
    OnlyOrdered 0x12 who x y

/-! ### Steps -/

/-- The condition of a waiting step holds (R113). -/
abbrev StepHolds (x : Shelf) (e : StepEntry) : Prop :=
  match e.kind with
  | .awaitTrays => ∀ t < 24, e.traySet.testBit t = true → (trayAt x t).isSome = true →
      trayState x t ≠ .queued ∧ trayState x t ≠ .starting
  | .awaitHeadroom => (e.argument : Int) ≤ x.balance.h
  | .awaitEnergy => e.argument * x.ride.eCap / 100 ≤ x.ride.eRem
  | .delay => e.argument = 0
  | .start | .branchZone | .finish => False

/-! ### What follows a recomputation -/

/-- The reactions that wait for the admission evaluation, with one more unless it waits there already (R55, R65; log
entry 52). -/
def alsoWaits (t : Task) (waiting : List Task) : List Task :=
  if t ∈ waiting then waiting else waiting ++ [t]

/-- Between two states, a recomputation for these causes is made and handed on: the record is that of the seven
stages, its causes the ones given (R27, R28); OVERCOMMIT is posted where its mark becomes set (R35); the
Ride-Through Controller is told DEFICIT, whether the causes name PSM-LINE, the return condition and D, the Tray
Controller a higher H, the Module Monitor a changed H0, and the Program Sequencer every record (R37). The turn of
the Ride-Through Controller, and which of the last two comes first, are the event's (log entry 3); while the
sequencer is RUNNING the Ride-Through Controller is never told before the Tray Controller (log entry 39). -/
abbrev BalanceHanded (causes : List Cause) (x y : Shelf) : Prop :=
  let old := x.balance
  let new := balanceNow x causes
  let ride := Task.rideRecord new.deficit (decide (Cause.psmLine ∈ causes))
    (decide (new.m + (policy x).returnMargin ≤ new.sGrid)) new.d
  let monitor := fun waiting => if new.h0 = old.h0 then waiting else alsoWaits .charge waiting
  let both := fun waiting =>
    if x.ambient.chargeFirst then alsoWaits .seqTest (monitor waiting)
    else monitor (alsoWaits .seqTest waiting)
  new.causes = causes ∧
    y = { x with
      balance := new, causes := [], applying := none
      notices :=
        if new.overcommit = true ∧ old.overcommit = false then
          offerNotice
            { time := x.shelfTime, source := 2, index := 0, code := 10, more := false
              word1 := min (-new.h).toNat 65535, word2 := min new.sAdm 65535 } x.notices
        else x.notices
      admitDue := x.admitDue || decide (old.h < new.h)
      raised := if x.ambient.rideTurn = .first ∧ x.seq.state ≠ .running then x.raised ++ [ride]
        else x.raised
      deferred :=
        match x.ambient.rideTurn with
        | .first =>
          if x.seq.state = .running then both (x.deferred ++ [ride]) else both x.deferred
        | .afterTray => both (x.deferred ++ [ride])
        | .last => both x.deferred ++ [ride] }

/-! ### The check of a frame, bit by bit (R160) -/

/-- The bits of a character, most significant first. -/
def byteBits (b : Byte) : List Bool := (List.range 8).map fun i => b.getLsbD (7 - i)

/-- One bit into the division by x^16 + x^12 + x^5 + 1. -/
def crcBit (c : BitVec 16) (bit : Bool) : BitVec 16 :=
  if c.msb != bit then (c <<< 1) ^^^ 0x1021#16 else c <<< 1

/-! ### Ranges of table entries -/

/-- The ranges of the Policy's fields (R172). -/
abbrev PolicyLegal (p : Policy) : Prop :=
  1 ≤ p.startWindow ∧ p.startWindow ≤ 4 ∧ p.deficitThreshold < 65536 ∧ p.returnMargin < 65536 ∧
    100 ≤ p.qualifyTime ∧ p.qualifyTime ≤ 600000 ∧ p.energyReserve ≤ 300000000 ∧
    p.chargeFloor < 65536 ∧ p.chargeStep ≤ 16000 ∧ ∀ n ∈ p.autostart, n ≤ 31

/-- The ranges of a Port entry's fields (R158, R140). -/
abbrev PortLegal (p : PortSettings) : Prop :=
  p.d < 256 ∧ p.f ≤ 15 ∧ 1 ≤ p.stopBits ∧ p.stopBits ≤ 2 ∧ 2 ≤ p.gapLimit ∧ p.gapLimit ≤ 16 ∧
    1 ≤ p.replyTimeout ∧ p.replyTimeout ≤ 100

/-- The ranges of a Roster entry's fields (R139). -/
abbrev RosterLegal (e : RosterEntry) : Prop :=
  1 ≤ e.address ∧ e.address ≤ 62 ∧ e.port ≠ .up ∧ e.index < kindBound e.kind ∧ e.interval < 65536

/-- The ranges of a Sample Map entry's fields (R13). -/
abbrev SampleLegal (e : SampleEntry) : Prop :=
  e.roster < 48 ∧ 2 ≤ e.fieldId ∧ e.fieldId < 256 ∧ e.signal < 128 ∧ e.gain < 65536 ∧
    -32768 ≤ e.offset ∧ e.offset ≤ 32767 ∧ e.limitSet < 64

/-- The ranges and the order of a limit set's fields (R16). -/
abbrev LimitsLegal (l : LimitSet) : Prop :=
  l.cl ≤ l.lw ∧ l.lw ≤ l.hw ∧ l.hw ≤ l.ch ∧ l.ch < 65536 ∧ l.h < 65536 ∧ 1 ≤ l.n ∧ l.n ≤ 8 ∧
    l.stale ≤ 60000

/-- The ranges of a sense line entry's fields (R2). -/
abbrev SenseLegal (e : SenseEntry) : Prop :=
  e.index < senseRoleBound e.role ∧ e.period ∈ filterPeriods

/-- The ranges of a drive line entry's fields (R11). -/
abbrev DriveLegal (e : DriveEntry) : Prop := e.index < 256 ∧ (e.role = .valve → e.index < 8)

/-- The ranges of a PSM parameters entry's fields (R43). -/
abbrev PsmLegal (e : PsmEntry) : Prop :=
  e.roster < 48 ∧ e.rated ≤ 16000 ∧ e.derate ≤ 100 ∧ e.voltage < 128 ∧ e.current < 128 ∧
    e.temperature < 128

/-- The ranges of a BBM parameters entry's fields (R49). -/
abbrev BbmLegal (e : BbmEntry) : Prop :=
  e.roster < 48 ∧ e.capacity ≤ 50000000 ∧ e.maxDischarge < 65536 ∧ e.maxCharge ≤ 16000 ∧
    e.energy < 128 ∧ e.discharge < 128

/-- The ranges of a Trays entry's fields (R86). -/
abbrev TrayLegal (e : TrayEntry) : Prop :=
  e.roster < 48 ∧ e.allocation ≤ 16000 ∧ e.inrush ≤ 16000 ∧ 10 ≤ e.startTimeout ∧
    e.startTimeout ≤ 60000 ∧ e.keepTime < 65536 ∧ e.shedRank ≤ 23 ∧ (∀ z ∈ e.zone, z ≤ 7) ∧
    ∀ l ∈ e.goodLine, l ≤ 15

/-- A point reference names a signal or a sense line (R122). -/
abbrev PointLegal : PointRef → Prop
  | .signal n => n < 128
  | .line l => l < 16

/-- The ranges of a Zones entry's fields (R122). -/
abbrev ZoneLegal (e : ZoneEntry) : Prop :=
  e.points.length ≤ 8 ∧ (∀ p ∈ e.points, PointLegal p) ∧ 1 ≤ e.confirmCount ∧
    e.confirmCount ≤ 4 ∧ e.confirmTime ≤ 60000

/-- The ranges of a step's fields (R108). -/
abbrev StepLegal (e : StepEntry) : Prop :=
  e.traySet < 16777216 ∧ e.argument ≤ argumentBound e.kind ∧ e.timeout ≤ 1800000 ∧ e.next ≤ 31 ∧
    e.alternate ≤ 31

/-! ### Validation of a table -/

/-- Entry `i` fails a check, or takes part in a conflict, in a table with these records; the other tables are taken as
they stand (R176). An entry that may be out of use passes with an in-use byte of 0, and fails with one above 1. -/
abbrev EntryFails (x : Shelf) (t : Nat) (records : List Record) (i : Nat) : Prop :=
  let r := recordOf records i
  let used := fun bad : Prop => field8 r 0 ≠ 0 ∧ (field8 r 0 = 1 → bad)
  let other := fun same : Record → Prop =>
    ∃ j < records.length, j ≠ i ∧ field8 (recordOf records j) 0 = 1 ∧ same (recordOf records j)
  let sameByte := fun (k : Nat) (u : Record) => field8 u k = field8 r k
  let sameBytes := fun (k : Nat) (u : Record) =>
    field8 u k = field8 r k ∧ field8 u (k + 1) = field8 r (k + 1)
  let moduleOf := fun (roster : Nat) (kind : ModuleKind) =>
    ∃ m, rosterAt x roster = some m ∧ m.kind = kind ∧ m.index = i
  match t with
  | 0 => decodePolicy r = none
  -- pulse mode is for TP alone (R158)
  | 1 => ∀ e, decodePort r = some e → e.pulse = true ∧ i ≠ 2
  -- a kind is on its port, and no address, and no kind with its index, is named twice (R139)
  | 2 => used ((∀ e, decodeRoster r = some e →
        e.port ≠ if e.kind = .psm ∨ e.kind = .bbm then .sp else .tp) ∨
      other (sameByte 1) ∨ other (sameBytes 3))
  -- a Roster entry stands once in each list of 32 (R140)
  | 3 => used (decodePoll r = none ∨
      ∃ j < records.length, j ≠ i ∧ j / 32 = i / 32 ∧ field8 (recordOf records j) 0 = 1 ∧
        sameByte 1 (recordOf records j))
  -- a signal is fed once, and a module's field is mapped once (R13)
  | 4 => used (decodeSample r = none ∨ other (sameByte 3) ∨ other (sameBytes 1))
  | 5 => decodeLimits r = none
  -- an INPUT-LOSS or TRAY-GOOD line shares its role and index with no other sense line (R9)
  | 6 =>
    if i < 16 then
      ∀ e, decodeSense r = some e → (e.role = .inputLoss ∨ e.role = .trayGood) ∧
        ∃ j < 16, j ≠ i ∧ (recordOf records j).take 2 = r.take 2
    else decodeDrive r = none
  -- the Roster entry is the module's, it is named once, and the two signals differ (R43, R49)
  | 7 => used (∀ e, decodePsm r = some e →
      ¬moduleOf e.roster .psm ∨ e.voltage = e.current ∨ other (sameByte 1))
  | 8 => used (∀ e, decodeBbm r = some e →
      ¬moduleOf e.roster .bbm ∨ e.energy = e.discharge ∨ other (sameByte 1))
  -- the Roster entry is the tray's, and neither it nor the shed rank is named twice (R86)
  | 9 => used (∀ e, decodeTray r = some e →
      ¬moduleOf e.roster .tray ∨ other (sameByte 1) ∨ other (sameByte 10))
  -- no point is listed twice, and a zone without confirm time has points enough (R122)
  | 10 => used (∀ e, decodeZone r = some e →
      ¬e.points.Nodup ∨ (e.confirmTime = 0 ∧ e.points.length < e.confirmCount))
  | 11 => used (decodeStep r = none)
  -- no built-in intercept, SUPPLY-CHECK for PSMs alone, and no code and kind twice (R150, R151)
  | _ => used (∀ e, decodeGuard r = some e →
      (e.kind = .tray ∧ (e.code = 0x01 ∨ e.code = 0x02)) ∨
      (e.kind = .bbm ∧ (e.code = 0x10 ∨ e.code = 0x11 ∨ e.code = 0x12)) ∨
      (e.action = .supplyCheck ∧ e.kind ≠ .psm) ∨ other (sameBytes 1))

end Sys2Proof.Machine
end

