-- ==== Sys2Proof/WellFormed.lean ====
section
/-! DEFINITION. Which commands are well formed: those whose operands agree with what their row names. The
machine takes every command; one that is not well formed has the effect its rule gives such an event. -/

namespace Sys2Proof

open Sys2Proof.Machine

/-- Characters of 10 to 12 bits, each from its low start bit on (R156). -/
def characters (chars : List RxChar) : Bool :=
  chars.all fun c => c.levels.head? = some false && 10 ≤ c.levels.length && c.levels.length ≤ 12

/-- A REQUEST payload of 1 to 60 characters with an unknown code or a wrong argument length (R166). -/
def invalidRequest (payload : List Byte) : Bool :=
  payload ≠ [] && payload.length ≤ Config.maxPayload &&
    !lengthFits (payload.headD 0) payload.tail.length

/-- The operands agree with the row: characters after a start character, at least one where a frame ends with them
(R159; whether it is whole depends on the port's settings, R156); a stray frame (R164); an ORDER for a module address
(R150); a REQUEST that is answered without dispatch (R166); a record and a page of data that fit a frame (R163, R183);
a downstream port (R142, R143). -/
def Instr.wf : Instr → Bool
  | .frameReceived _ _ chars | .frameDamaged _ _ chars => chars ≠ [] && characters chars
  | .upStrayFrame _ frame => frameValid frame && isStrayUp frame
  | .order _ address _ _ => 1 ≤ address.toNat && address.toNat ≤ 62
  | .requestInvalidCode _ payload => invalidRequest payload
  | .editWrite _ _ record => record.length ≤ 58
  | .storeWrite _ _ _ data => data.length = 32
  | .emptyPassTimerExpiry _ port => port ≠ .up
  | .replyTimerExpiry _ port => port ≠ .up
  | .powerOnReset _ | .resetLine _ | .restart _ | .restartPerform _ | .gapLimitExpiry _ _
  | .transmitEnd _ _ | .upDamageMarkTaken _ | .readTable _ _ _ _ | .editOpen _ _ _ _
  | .editApply _ | .editDiscard _ | .editIdleTimerExpiry _ | .storeErase _ _ _
  | .storeVerify _ _ _ | .storeRead _ _ _ | .storeOperationComplete _ _ | .readLine _ _
  | .readSignal _ _ _ | .readBalance _ | .readModule _ _ _ | .readRide _ | .readTray _ _ _
  | .readQueue _ | .clearTray _ _ | .runProgram _ _ | .abortProgram _ | .readProgram _
  | .readZone _ _ | .clearZone _ _ _ | .readPoll _ _ _ _ | .portEnable _ _ | .portDisable _ _
  | .readPort _ _ | .forwardIntervalExpiry _ _ | .staleTimeExpiry _ _ | .lineEdge _ _ _
  | .firstAcceptance _ _ _ | .energyTick _ | .qualifyTimerExpiry _ | .startTimerExpiry _ _
  | .confirmTimerExpiry _ _ | .stepTimerExpiry _ | .delayTimerExpiry _ | .autostart _
  | .filterSample _ _ _ | .startCharacterReceived _ _ | .shifterFinishesFrame _ => true

end Sys2Proof
end

