-- ==== Sys2Proof/Certificates/Slice0/Obligations.lean ====
section
/-! DEFINITION. The statements for the provers. Where a command's event is a request, `Ready` says that UP runs
with an empty receive queue and a Router that may take it; `heard e s` is the state in which it acts. -/

open Sys2Proof Sys2Proof.Machine

/-! ### The step, and what every command does -/

/-- A step carries out the command at the front of the queue, on the state with the queue's rest. With none
waiting it is the model's choice (log entry 2) that one microsecond of shelf time passes and nothing
else happens. -/
def Obligations.StepCarriesOutFront : Prop :=
  (∀ (c : Instr) (rest : List Instr) (s : State), s.pending = c :: rest →
    step s = exec c { s with pending := rest }) ∧
    ∀ s : State, s.pending = [] → step s = .next { s with shelfTime := s.shelfTime + 1 }

/-- Every command goes on to a next state, and takes nothing from the queue of those that wait. -/
def Obligations.EveryCommandGoesOn : Prop :=
  ∀ (c : Instr) (s : State), ∃ t, exec c s = .next t ∧ t.pending = s.pending

/-- Shelf time moves on by what the event shows, and starts at 0 after power-on reset and the RESET line
alone: RESTART leaves it counting (R1; log entry 1 for the elapsed time as an operand). A time is reached where
the difference from it to now, modulo 2^32, is a forward interval, below 2^31 µs (R1); a timer has expired where
it is RUNNING and its expiry is reached, and no other timer has (log entry 6). -/
def Obligations.ShelfTimeMoves : Prop :=
  (∀ (c : Instr) (s t : State), exec c s = .next t →
    t.ambient = ambientOf c ∧
      t.shelfTime =
        match c with
        | .powerOnReset _ | .resetLine _ => 0
        | _ => s.shelfTime + (ambientOf c).elapsed) ∧
  ∀ now t : Time,
    (reached now t = true ↔ (now - t).toNat < 2 ^ 31) ∧
    ∀ timer : Timer,
      (isRunning timer = true ↔ ∃ expiry, timer = .running expiry) ∧
      (expired now timer = true ↔ ∃ expiry, timer = .running expiry ∧ (now - expiry).toNat < 2 ^ 31)

/-- Timers, lines and shifters change neither the store nor, with no restart pending, a working table, a
load status, the protect level or the edit window, but for the window's own timer (R174, R180). -/
def Obligations.TimersLeaveStoreAndTables : Prop :=
  ∀ (c : Instr) (s t : State), leavesStore c = true → s.engUp.rx = [] → exec c s = .next t →
    t.store = s.store ∧
      (s.restart = none →
        t.tables = s.tables ∧ t.loads = s.loads ∧ t.level = s.level ∧
          (t.window = s.window ∨ ((∃ e, c = .editIdleTimerExpiry e) ∧ t.window = none)))

/-- A request that only reads changes nothing but what is on its way to the outside (R24, R41, R61, R84,
R107, R121, R134, R155, R173, R183). -/
def Obligations.ReadsChangeNothing : Prop :=
  ∀ (c : Instr) (s t : State), onlyReads c = true → Calm s → exec c s = .next t →
    LinksOnly s.toShelf t.toShelf ∧ t.store = s.store ∧ t.pending = s.pending

/-! ### What every step keeps -/

/-- The state after reset meets every invariant stated below. -/
def Obligations.ResetMeetsTheInvariants : Prop :=
  StoreOk State.reset.store ∧ BayExact State.reset.bay ∧ EnergyOk State.reset.ride ∧
    RideMarks State.reset.ride ∧ QueuesBounded State.reset.toShelf ∧
    BalanceAgrees State.reset.balance ∧ NormalWork State.reset.toShelf

/-- Every command keeps the store's data in canonical form and every row's write count at most 8 (R180). -/
def Obligations.StoreFormKept : Prop :=
  ∀ (c : Instr) (s t : State), StoreOk s.store → exec c s = .next t → StoreOk t.store

/-- Every command keeps the start queue to exactly the QUEUED trays, and the restore stack to exactly the
SHEDDING and SHED ones, each once (R76, R92). -/
def Obligations.BayKept : Prop :=
  ∀ (c : Instr) (s t : State), BayExact s.bay → exec c s = .next t → BayExact t.bay

/-- The restore stack is empty in NORMAL, whatever command is taken: NORMAL is entered with the stack empty, and
pushes are made in RIDE and DEPLETED alone (R76). -/
def Obligations.NormalHasNoStack : Prop :=
  (State.reset.ride.state = .normal ∧ State.reset.bay.stack = []) ∧
  ∀ (c : Instr) (s t : State), Quiet s.toShelf → BayExact s.bay →
    (s.ride.state = .normal → s.bay.stack = []) → exec c s = .next t →
    t.ride.state = .normal → t.bay.stack = []

/-- E_rem never exceeds E_cap, whatever command is taken (R70). -/
def Obligations.EnergyKept : Prop :=
  ∀ (c : Instr) (s t : State), EnergyOk s.ride → exec c s = .next t → EnergyOk t.ride

/-- Every command keeps a ride's marks in agreement with its state (R62, R68, R79, R83). -/
def Obligations.RideMarksKept : Prop :=
  ∀ (c : Instr) (s t : State), RideMarks s.ride → exec c s = .next t → RideMarks t.ride

/-- No command makes a receive queue, the REPLY, NOTICE or TELEMETRY queue or a command queue longer than its
depth, or puts two control orders for one module in a control queue (R147, R148, R161, R167, R168). The 32
places of a control queue and the 11 of the reply wait (R141, R149) are not bounded here. -/
def Obligations.QueuesKept : Prop :=
  ∀ (c : Instr) (s t : State), QueuesBounded s.toShelf → exec c s = .next t →
    QueuesBounded t.toShelf

/-- The figures of the balance record agree with one another after every command (R33, R34, R35, R36). -/
def Obligations.BalanceKept : Prop :=
  ∀ (c : Instr) (s t : State), BalanceAgrees s.balance → exec c s = .next t →
    BalanceAgrees t.balance

/-- A pending restart and a WAITING sequencer are found in NORMAL alone (R116, R170). -/
def Obligations.NormalWorkKept : Prop :=
  ∀ (c : Instr) (s t : State), NormalWork s.toShelf → exec c s = .next t → NormalWork t.toShelf

/-! ### Frames, records and answers -/

/-- The check is the bit-serial division of R160, each character most significant bit first: it gives 0x29B1
for "123456789", and a frame carries it high byte first. -/
def Obligations.CrcIsBitSerial : Prop :=
  (∀ bs : List Byte, crc16 bs = (bs.flatMap byteBits).foldl crcBit 0xFFFF#16) ∧
    crc16 [0x31, 0x32, 0x33, 0x34, 0x35, 0x36, 0x37, 0x38, 0x39] = 0x29B1#16 ∧
    ∀ f : Frame,
      frameWire f =
        0xC3 :: f.address :: f.kind :: BitVec.ofNat 8 f.payload.length :: f.payload ++
          [(crc16 (frameChecked f)).extractLsb' 8 8, (crc16 (frameChecked f)).extractLsb' 0 8]

/-- A character is sent as a low start bit, its data least significant bit first, its parity and its stop bits,
and is read back so; a wrong parity bit and a low first stop bit are errors, and the second stop bit is
not checked (R156). The assembler finds every valid frame, exactly at its last character; and a wrong
check, an error in a character, a kind outside the table and a length above 60 are each damage
(R159). -/
def Obligations.AssemblerJudgesFrames : Prop :=
  (∀ (e : PortSettings) (b : Byte), e.stopBits = 1 ∨ e.stopBits = 2 →
    let sent := characterLevels e b
    let stop := if e.parity = .none then 9 else 10
    sent.length = characterBits e ∧ sent.head? = some false ∧
      (∀ i < 8, sent[1 + i]? = some (b.getLsbD i)) ∧ sent[stop]? = some true ∧
      (e.parity = .even → ((List.range 9).filter fun i => levelAt sent (1 + i)).length % 2 = 0) ∧
      (e.parity = .odd → ((List.range 9).filter fun i => levelAt sent (1 + i)).length % 2 = 1) ∧
      readCharacter e sent = ⟨b, false⟩ ∧
      (e.parity ≠ .none → readCharacter e (sent.set 9 (!levelAt sent 9)) = ⟨b, true⟩) ∧
      readCharacter e (sent.set stop false) = ⟨b, true⟩ ∧
      readCharacter e (sent.set (stop + 1) false) = ⟨b, false⟩) ∧
  (∀ (e : PortSettings) (f : Frame), PortLegal e →
    readAll e (sentCharacters e f) = frameReceived f ∧ inTime e (sentCharacters e f) = true) ∧
  (∀ f : Frame, frameValid f = true →
    assemble (frameReceived f) = .whole f ∧
      (∀ n < (frameReceived f).length, assemble ((frameReceived f).take n) = .more) ∧
      ∀ check : List Byte, check.length = 2 → check ≠ frameCheck f →
        assemble ((frameChecked f ++ check).map fun b => ⟨b, false⟩) = .damaged) ∧
    (∀ cs : List Character, (∃ x ∈ cs, x.error = true) → assemble cs = .damaged) ∧
    (∀ (a k : Byte) (rest : List Byte), validKind k = false →
      assemble ((a :: k :: rest).map fun b => ⟨b, false⟩) = .damaged) ∧
    ∀ (a k len : Byte) (rest : List Byte), 60 < len.toNat →
      assemble ((a :: k :: len :: rest).map fun b => ⟨b, false⟩) = .damaged

/-- Every record in its ranges is read back from its layout with every field, at the record length of its
table (R171). A record of that length that is read has every field in its range and is the layout of what is read
from it, but for the two last bytes of a drive line and the unused point places of a zone, which are not checked (log
entry 26). So a record with a field out of its range is refused. An entry of a table as it would stand fails where
`EntryFails` says, and nowhere else: its own checks, and those that other entries of its table take part in, with the
other tables as they stand (R9, R13, R16, R43, R49, R86, R108, R122, R139, R140, R151, R158, R172, R176). Every block
reads its table's entries so, an entry not in use as none, and a table has the sizes of R171. The default records are
those of the chapters (R2, R11, R13, R16, R158, R172), the point places of a Zones record without points 255 (R163);
the values that no chapter gives are log entry 12. -/
def Obligations.RecordsKeepEveryField : Prop :=
  (∀ p, PolicyLegal p → decodePolicy (encodePolicy p) = some p ∧ (encodePolicy p).length = 19) ∧
  (∀ p, PortLegal p → decodePort (encodePort p) = some p ∧ (encodePort p).length = 8) ∧
  (∀ e, RosterLegal e → decodeRoster (encodeRoster e) = some e ∧ (encodeRoster e).length = 8) ∧
  (∀ r < 48, decodePoll (encodePoll r) = some r ∧ (encodePoll r).length = 2) ∧
  (∀ e, SampleLegal e → decodeSample (encodeSample e) = some e ∧ (encodeSample e).length = 11) ∧
  (∀ l, LimitsLegal l → decodeLimits (encodeLimits l) = some l ∧ (encodeLimits l).length = 13) ∧
  (∀ e, SenseLegal e → decodeSense (encodeSense e) = some e ∧ (encodeSense e).length = 5) ∧
  (∀ e, DriveLegal e → decodeDrive (encodeDrive e) = some e ∧ (encodeDrive e).length = 5) ∧
  (∀ e, PsmLegal e → decodePsm (encodePsm e) = some e ∧ (encodePsm e).length = 8) ∧
  (∀ e, BbmLegal e → decodeBbm (encodeBbm e) = some e ∧ (encodeBbm e).length = 12) ∧
  (∀ e, TrayLegal e → decodeTray (encodeTray e) = some e ∧ (encodeTray e).length = 13) ∧
  (∀ e, ZoneLegal e → decodeZone (encodeZone e) = some e ∧ (encodeZone e).length = 21) ∧
  (∀ e, StepLegal e → decodeStep (encodeStep e) = some e ∧ (encodeStep e).length = 13) ∧
  (∀ e, decodeGuard (encodeGuard e) = some e ∧ (encodeGuard e).length = 4) ∧
  (∀ r p, r.length = 19 → decodePolicy r = some p → PolicyLegal p ∧ encodePolicy p = r) ∧
  (∀ r p, r.length = 8 → decodePort r = some p → PortLegal p ∧ encodePort p = r) ∧
  (∀ r e, r.length = 8 → decodeRoster r = some e → RosterLegal e ∧ encodeRoster e = r) ∧
  (∀ r n, r.length = 2 → decodePoll r = some n → n < 48 ∧ encodePoll n = r) ∧
  (∀ r e, r.length = 11 → decodeSample r = some e → SampleLegal e ∧ encodeSample e = r) ∧
  (∀ r l, r.length = 13 → decodeLimits r = some l → LimitsLegal l ∧ encodeLimits l = r) ∧
  (∀ r e, r.length = 5 → decodeSense r = some e → SenseLegal e ∧ encodeSense e = r) ∧
  (∀ r e, r.length = 5 → decodeDrive r = some e →
    DriveLegal e ∧ (encodeDrive e).take 3 = r.take 3) ∧
  (∀ r e, r.length = 8 → decodePsm r = some e → PsmLegal e ∧ encodePsm e = r) ∧
  (∀ r e, r.length = 12 → decodeBbm r = some e → BbmLegal e ∧ encodeBbm e = r) ∧
  (∀ r e, r.length = 13 → decodeTray r = some e → TrayLegal e ∧ encodeTray e = r) ∧
  (∀ r e, r.length = 21 → decodeZone r = some e →
    let used := 2 + 2 * e.points.length
    ZoneLegal e ∧ (encodeZone e).take used = r.take used ∧ (encodeZone e).drop 18 = r.drop 18) ∧
  (∀ r e, r.length = 13 → decodeStep r = some e → StepLegal e ∧ encodeStep e = r) ∧
  (∀ r e, r.length = 4 → decodeGuard r = some e → encodeGuard e = r) ∧
  (∀ (x : Shelf) (t : Nat) (records : List Record) (i : Nat), t ≤ 12 →
    (entryFails x t records i = true ↔ EntryFails x t records i)) ∧
  (∀ (x : Shelf) (i : Nat),
    let r := fun t => recordAt x t i
    (∀ t, recordAt x t i = recordOf (vget x.tables t) i) ∧
    policy x = (decodePolicy (recordAt x 0 0)).getD defaultPolicy ∧ rosterAt x i = decodeRoster (r 2) ∧
    sampleAt x i = decodeSample (r 4) ∧ limitsAt x i = (decodeLimits (r 5)).getD defaultLimits ∧
    senseAt x i = (decodeSense (r 6)).getD defaultSense ∧
    driveAt x i = (decodeDrive (recordAt x 6 (16 + i))).getD defaultDrive ∧ psmAt x i = decodePsm (r 7) ∧
    bbmAt x i = decodeBbm (r 8) ∧ trayAt x i = decodeTray (r 9) ∧ zoneAt x i = decodeZone (r 10) ∧
    stepAt x i = decodeStep (r 11) ∧ guardAt x i = decodeGuard (r 12) ∧
    pollAt x .sp i = decodePoll (r 3) ∧ pollAt x .tp i = decodePoll (recordAt x 3 (32 + i)) ∧
    ∀ p, portEntry x p =
      (decodePort (recordAt x 1 (portNumber p))).getD (defaultPort (portNumber p))) ∧
  (List.range 13).map tableSize = [1, 3, 48, 64, 128, 64, 24, 6, 6, 24, 8, 32, 32] ∧
  (List.range 13).map recordLength = [19, 8, 8, 2, 11, 13, 5, 8, 12, 13, 21, 13, 4] ∧
  defaultPolicy = ⟨false, 1, 0, 0, 10000, 0, 0, 0, none⟩ ∧
  defaultPort 0 = ⟨20, 12, .none, 1, 4, false, true, 20⟩ ∧
  (∀ i, i = 1 ∨ i = 2 → defaultPort i = ⟨1, 4, .even, 1, 4, false, true, 20⟩) ∧
  defaultLimits = ⟨0, 0, 65535, 65535, 0, 1, 0⟩ ∧ defaultSense = ⟨.unused, 0, .high, 2000, .both⟩ ∧
  defaultDrive = ⟨.unused, 0, .high⟩ ∧
  ∀ t < 13, (defaultTable t).length = tableSize t ∧ ∀ i < tableSize t,
    recordOf (defaultTable t) i =
      match t with
      | 0 => encodePolicy defaultPolicy
      | 1 => encodePort (defaultPort i)
      | 5 => encodeLimits defaultLimits
      | 6 => if i < 16 then encodeSense defaultSense else encodeDrive defaultDrive
      | 10 => [0, 0] ++ List.replicate 16 255 ++ [0, 0, 0]
      | _ => List.replicate (recordLength t) 0

/-- The frames of an ANSWER carry its data in order, 58 bytes in each but the last, each with the request
code and the status; the last is shorter, and empty of data when the data fills the others (R166). The fields of
answers, notices and records are laid out as R163 says: high byte first, none as all ones, an item that may be none
behind a byte that says so, and two items of one data word as its two bytes. The kind codes, the answer statuses and
the request codes are those of R163 and R166, and a NOTICE carries time, source, index, code, MORE and two words. -/
def Obligations.AnswersCarryTheirData : Prop :=
  (∀ n m : Nat,
    let byte := fun k : Nat => BitVec.ofNat 8 (n / 256 ^ k)
    be8 n = [byte 0] ∧ be16 n = [byte 1, byte 0] ∧ be24 n = [byte 2, byte 1, byte 0] ∧
      be32 n = [byte 3, byte 2, byte 1, byte 0] ∧ twoItems n m = n % 256 * 256 + m % 256) ∧
  (∀ (n : Nat) (t : Time) (b : Bool) (fields : List Byte),
    beTime t = be32 t.toNat ∧ beFlag b = [if b then 1 else 0] ∧
      beOpt8 (some n) = be8 n ∧ beOpt8 none = [255] ∧ beOpt16 (some n) = be16 n ∧
      beOpt16 none = [255, 255] ∧ beOpt32 (some n) = be32 n ∧ beOpt32 none = [255, 255, 255, 255] ∧
      beOptTime (some t) = beTime t ∧ beOptTime none = [255, 255, 255, 255] ∧
      beItem (some fields) = 1 :: fields ∧ beItem none = [0]) ∧
  (∀ (r : List Byte) (i : Nat),
    field8 r i = (r.getD i 0).toNat ∧ field16 r i = 256 * field8 r i + field8 r (i + 1) ∧
      field32 r i = 65536 * field16 r i + field16 r (i + 2)) ∧
  (∀ n : Notice, noticeFrame n =
    { address := 0, kind := 7
      payload := be32 n.time.toNat ++ be8 n.source ++ be8 n.index ++ be8 n.code ++ beFlag n.more ++
        be16 n.word1 ++ be16 n.word2 }) ∧
  [kindPoll, kindReport, kindOrder, kindOrderAck, kindRequest, kindAnswer, kindNotice, kindTelemetry] =
    [1, 2, 3, 4, 5, 6, 7, 8] ∧
  (∀ k, validKind k = true ↔ 1 ≤ k.toNat ∧ k.toNat ≤ 8) ∧
  (∀ f : Frame, frameValid f = true ↔ validKind f.kind = true ∧ f.payload.length ≤ 60) ∧
  [stDone, stStarted, stBusy, stInvalid, stProtected, stStaleEpoch, stNotDry, stRide, stNoEntry,
    stNoWindow, stWorn, stDamaged] = [0, 1, 2, 3, 4, 5, 6, 7, 8, 9, 10, 11] ∧
  [rqReadTable, rqEditOpen, rqEditWrite, rqEditApply, rqEditDiscard, rqStoreErase, rqStoreWrite,
    rqStoreVerify, rqStoreRead, rqRestart, rqReadLine, rqReadSignal, rqReadBalance, rqReadModule,
    rqReadRide, rqReadTray, rqReadQueue, rqClearTray, rqRunProgram, rqAbortProgram, rqReadProgram,
    rqReadZone, rqClearZone, rqReadPoll, rqPortEnable, rqPortDisable, rqReadPort] =
    [0x01, 0x02, 0x03, 0x04, 0x05, 0x10, 0x11, 0x12, 0x13, 0x18, 0x20, 0x21, 0x28, 0x30, 0x38, 0x40,
      0x41, 0x42, 0x48, 0x49, 0x4A, 0x50, 0x51, 0x58, 0x59, 0x5A, 0x5B] ∧
  ∀ (code status : Byte) (data : List Byte),
    ((answer code status data).flatMap fun f => f.payload.drop 2) = data ∧
      (∀ f ∈ answer code status data,
        f.address = 0 ∧ f.kind = kindAnswer ∧ f.payload.take 2 = [code, status] ∧
          frameValid f = true) ∧
      ∃ front last, answer code status data = front ++ [last] ∧
        (∀ f ∈ front, f.payload.length = 60) ∧ last.payload.length < 60

/-- READ-BALANCE carries 93 bytes, each figure whole at its width and place, with the causes as a set (R41, R163; log
entry 24 for the places). A value of a list is numbered from 0 in the order of its list, in this answer and in every
other answer and notice (R164); where a list lacks the value it comes after the others (log entry 25). -/
def Obligations.BalanceAnswerLayout : Prop :=
  (∀ c, causeNumber c = [Cause.psmState, .psmLine, .psmTemperature, .psmReading, .bbmState,
      .bbmReading, .tray, .charge, .apply, .start].idxOf c) ∧
  (∀ b, bandNumber b = [Band.critLow, .low, .normal, .high, .critHigh, .unknown].idxOf b) ∧
  (∀ l, levelNumber l = [some Level.high, some .low, none].idxOf l) ∧
  (∀ e, edgeNumber e = [some Edge.rising, some .falling, none].idxOf e) ∧
  (∀ x, psmStateNumber x = [PsmState.absent, .failed, .inputLost, .ok].idxOf x) ∧
  (∀ x, psmReasonNumber x = [PsmReason.presence, .fault, .output, .temperature, .voltage, .line,
      .input, .report, .band, .apply, .start].idxOf x) ∧
  (∀ x, bbmStateNumber x = [BbmState.absent, .fault, .idle, .charging, .discharging].idxOf x) ∧
  (∀ x, bbmFaultNumber x = [BbmFault.status, .noAnswer, .refused].idxOf x) ∧
  (∀ x, bbmReasonNumber x = [BbmReason.presence, .adopted, .status, .full, .orderOk, .refused,
      .noAnswer, .apply].idxOf x) ∧
  (∀ x, rideStateNumber x = [RideState.normal, .ride, .depleted, .returning].idxOf x) ∧
  (∀ x, rideCauseNumber x = [RideCause.line, .deficit].idxOf x) ∧
  (∀ x, trayStateNumber x = [TrayState.unknown, .off, .queued, .starting, .on, .stopping,
      .shedding, .shed, .locked, .fault].idxOf x) ∧
  (∀ x, trayFaultNumber x =
    [TrayFault.noAnswer, .refused, .noGood, .goodLost, .absent].idxOf x) ∧
  (∀ x, seenNumber x = [Seen.on, .off, .unknown].idxOf x) ∧
  (∀ x, awaitedNumber x = [Awaited.nothing, .on, .off].idxOf x) ∧
  (∀ x, queuedByNumber x = [QueuedBy.manager, .program].idxOf x) ∧
  (∀ x, seqStateNumber x = [SeqState.idle, .running, .waiting, .held, .halted].idxOf x) ∧
  (∀ x, originNumber x = [Origin.request, .autostart].idxOf x) ∧
  (∀ x, haltCauseNumber x = [HaltCause.badStep, .loop, .abort, .shelfStop].idxOf x) ∧
  (∀ x, zoneStateNumber x = [ZoneState.dry, .suspect, .wet].idxOf x) ∧
  (∀ x, pointStateNumber x = [PointState.dry, .wet, .unknown].idxOf x) ∧
  (∀ x, zoneCauseNumber x = [ZoneCause.point, .dry, .count, .time, .clear, .table].idxOf x) ∧
  (∀ x, txKindNumber x = [TxKind.poll, .control, .command].idxOf x) ∧
  (∀ x, presenceNumber x = [Presence.new, .present, .absent].idxOf x) ∧
  (∀ x, pageStateNumber x = [PageState.erased, .written, .verified, .damaged].idxOf x) ∧
  (∀ x, resetKindNumber x = [ResetKind.powerOn, .line, .restart].idxOf x) ∧
  (∀ p, portNumber p = [Port.up, .sp, .tp].idxOf p) ∧
  ∀ s : Shelf,
    let d := balanceData s
    let b := s.balance
    d.length = 93 ∧
      (∀ i < 6, (psmAt s i).isSome → field16 d (3 * i) = vget b.p i % 65536 ∧
        field8 d (3 * i + 2) = (if vget b.pHeld i then 1 else 0) ∧
        field16 d (36 + 2 * i) = vget b.g i % 65536) ∧
      (∀ i < 6, psmAt s i = none → field16 d (3 * i) = 0 ∧ field8 d (3 * i + 2) = 0 ∧
        field16 d (36 + 2 * i) = 0) ∧
      (∀ k < 6, (bbmAt s k).isSome → field16 d (18 + 3 * k) = vget b.b k % 65536 ∧
        field8 d (20 + 3 * k) = if vget b.bHeld k then 1 else 0) ∧
      (∀ k < 6, bbmAt s k = none → field16 d (18 + 3 * k) = 0 ∧ field8 d (20 + 3 * k) = 0) ∧
      field32 d 48 = b.m % 2 ^ 32 ∧ field32 d 52 = b.sGrid % 2 ^ 32 ∧
      field16 d 56 = b.q % 2 ^ 16 ∧ field32 d 58 = b.sAdm % 2 ^ 32 ∧
      field32 d 62 = b.k % 2 ^ 32 ∧ field32 d 66 = b.c % 2 ^ 32 ∧
      BitVec.ofNat 32 (field32 d 70) = BitVec.ofInt 32 b.h0 ∧
      BitVec.ofNat 32 (field32 d 74) = BitVec.ofInt 32 b.h ∧ field32 d 78 = b.d % 2 ^ 32 ∧
      field8 d 82 = (if b.held then 1 else 0) ∧ field8 d 83 = (if b.overcommit then 1 else 0) ∧
      field8 d 84 = (if b.deficit then 1 else 0) ∧
      (∀ c, (field16 d 85).testBit (causeNumber c) = true ↔ c ∈ b.causes) ∧
      (∀ n, 10 ≤ n → (field16 d 85).testBit n = false) ∧ field32 d 87 = b.time.toNat ∧
      field16 d 91 = b.count % 2 ^ 16

/-! ### The end of an event -/

/-- An event that leaves no reaction ends with the arbiters, and one whose reaction is an ANSWER with its
placing before them; the arbiters change nothing but what is on its way to the outside (R146, R165, R167; log
entries 13 and 14). The reactions of every other event are carried out one after another until none is left,
which is the reading of log entries 4 and 5: the newest raised first, before those that waited; then, with none
of these and no apply in progress, an admission evaluation that is due (R37, R93); then those of the Module
Monitor and the Program Sequencer (R37, R65); and at most 10,000 in one go. Each is carried out by the block it
is for. With nothing in the UP receive queue the event's end is its reactions and then the arbiters. A command whose
timer, line or transmitter is not due only lets time pass, which is log entry 6: a timer that is not RUNNING or whose
expiry is not reached, a line that takes no sample or change then, a shifter that is not SENDING or whose buffer has
a frame, a pending restart whose answer has not gone. -/
def Obligations.QuietEventsEnd : Prop :=
  (∀ (e : Ambient) (s : State), Still s →
    let x := (opening e s).toShelf
    let now := s.shelfTime + e.elapsed
    let waits := fun c : Instr => exec c s = .next (settled id (opening e s))
    (∀ p, expired now (pollEngine x p).emptyTimer = false → waits (.emptyPassTimerExpiry e p)) ∧
    (∀ p, (∀ tx, (pollEngine x p).inFlight = some tx → expired now tx.timer = false) →
      waits (.replyTimerExpiry e p)) ∧
    (∀ r : Fin 48,
      (rosterAt x r = none ∨ ∃ entry t, rosterAt x r = some entry ∧
        (vget x.modules r).lastCopy = some t ∧
        reached now (t + BitVec.ofNat 32 (1000 * entry.interval)) = false) →
      waits (.forwardIntervalExpiry e r)) ∧
    (∀ n : Fin 128, staleDue x n = false → waits (.staleTimeExpiry e n)) ∧
    ((x.ride.state ≠ .ride ∨ ∀ t, x.ride.tick = some t → reached now t = false) →
      waits (.energyTick e)) ∧
    ((x.ride.state ≠ .ride ∧ x.ride.state ≠ .depleted ∨ ∀ t, x.ride.qualify = some t →
        reached now (t + BitVec.ofNat 32 (1000 * (policy x).qualifyTime)) = false) →
      waits (.qualifyTimerExpiry e)) ∧
    (∀ t : Fin 24, trayState x t ≠ .starting ∨ expired now (vget x.bay.trays t).startTimer = false →
      waits (.startTimerExpiry e t)) ∧
    (∀ z : Fin 8, (vget x.zones z).state ≠ .suspect ∨ expired now (vget x.zones z).timer = false →
      waits (.confirmTimerExpiry e z)) ∧
    (expired now x.seq.stepTimer = false → waits (.stepTimerExpiry e)) ∧
    (expired now x.seq.delayTimer = false → waits (.delayTimerExpiry e)) ∧
    ((∀ w, x.window = some w → expired now w.idle = false) → waits (.editIdleTimerExpiry e)) ∧
    (∀ (l : Fin 16) (level : Level),
      let r := vget x.lines l
      (sampleDue x l = false → waits (.filterSample e l level)) ∧
      (r.accepted ≠ none ∨ (watched x l = false ∧ (sampleDue x l = false ∨ completes r level = false)) →
        waits (.firstAcceptance e l level)) ∧
      (r.accepted = none ∨ r.accepted = some level ∨
          (watched x l = false ∧ (sampleDue x l = false ∨ completes r level = false)) →
        waits (.lineEdge e l level))) ∧
    (∀ p, (engine x p).shifter = none ∨ (engine x p).buffer ≠ none → waits (.transmitEnd e p)) ∧
    (x.engUp.shifter = none ∨ x.engUp.buffer = none → waits (.shifterFinishesFrame e)) ∧
    (x.engUp.shifter = none ∨ x.engUp.buffer ≠ none ∨ restartReady x = false →
      waits (.restartPerform e))) ∧
  (∀ s : State, Still s → closing s = settled id s) ∧
    (∀ (s : State) (code status : Byte) (data : List Byte), Still s →
      closing (told code status data s) = answered code status data s) ∧
    (∀ s : Shelf, LinksOnly s (sendOff s) ∧ (sendOff s).shelfTime = s.shelfTime ∧
      (sendOff s).ambient = s.ambient ∧ (sendOff s).engUp.rx = s.engUp.rx) ∧
  (∀ x : Shelf,
    (∀ task rest, x.raised ++ x.agenda = task :: rest →
      nextReaction x = some (perform task { x with raised := [], agenda := rest })) ∧
    (x.raised = [] → x.agenda = [] →
      (x.admitDue = true → x.applying = none → nextReaction x = some (admissionTry x)) ∧
      (x.admitDue = false ∨ x.applying ≠ none →
        (∀ task rest, x.deferred = task :: rest →
          nextReaction x = some (perform task { x with deferred := rest })) ∧
        (x.deferred = [] → nextReaction x = none)))) ∧
  (∀ x : Shelf, ∃ n ≤ 10000,
    (fun y : Option Shelf => y.bind nextReaction)^[n] (some x) = some (react x) ∧
      (n < 10000 → nextReaction (react x) = none)) ∧
  (∀ s : State, (react s.toShelf).engUp.rx = [] → closing s = settled react s) ∧
  (∀ (s : State) (task : Task), s.raised ++ s.agenda = [task] →
    let alone := { s.toShelf with raised := [], agenda := [] }
    Quiet (perform task alone) → (perform task alone).engUp.rx = [] →
      closing s = settled (fun _ => perform task alone) s) ∧
  (∀ (x : Shelf) (ok line : Bool) (d : Nat),
    perform .balance x = performBalance x ∧
      perform (.rideRecord true line ok d) x = rideRecord true line ok d x ∧
      perform (.rideRecord false line ok d) x = rideRecord false line ok d x ∧
      perform .stackChanged x = stackChanged x ∧ perform .chargeZero x = chargeZero x ∧
      perform .charge x = chargeEvaluation x ∧ perform (.postRideEnter d) x = postRideEnter d x ∧
      perform (.postDepleted d) x = postDepleted d x ∧ perform .zones x = zonesChanged x ∧
      perform (.zoneEval d) x = zoneEvaluation d x ∧ perform .endApply x = endApply x ∧
      perform .startPorts x = startPorts x ∧ perform .startAutostart x = startAutostart x) ∧
  (∀ (x : Shelf) (n : Nat) (trays : List Nat) (cause : HaltCause) (word : Nat),
    perform .seqTest x = testStep x ∧ perform .seqResume x = resumeSequencer x ∧
      perform (.seqEnter n) x = enterStep n x ∧ perform (.seqStart trays) x = startTrays trays x ∧
      perform .seqShelfStop x = seqShelfStop x ∧
      perform (.seqHalt cause n word) x = haltRun cause n word x ∧
      perform .autostartTest x = autostartTest x ∧ perform (.withdraw n) x = withdrawTray n x ∧
      perform (.shed n) x = shedTray n x ∧ perform (.shelfStopTray n) x = shelfStopTray n x ∧
      perform (.lockTray n) x = lockTray n x ∧ perform (.releaseTray n) x = releaseTray n x ∧
      perform (.placeOff n) x = placeOff n x) ∧
  ∀ (x : Shelf) (n a : Nat) (code : Byte) (o : OrderOutcome) (b : Bool) (ns : List Nat)
    (old : List Record) (fs : List Frame) (kind : ResetKind),
    perform (.trayOutcome n code o) x = trayOutcome n code o x ∧
      perform (.bbmOutcome n code a o) x = bbmOutcome n code a o x ∧
      perform (.moduleAbsent n b) x = moduleAbsent n b x ∧
      perform (.signalsStale n) x = signalsStale n x ∧
      perform (.psmBands ns) x = checkPsms .band ns x ∧
      perform (.applied n old ns) x = applyEffects n old ns x ∧
      perform (.reply fs) x = placeReplies fs x ∧ perform (.postStarted kind) x = postStarted kind x

/-! ### Requests -/

/-- Each read request in its range is answered DONE with its record, and nothing else follows (R24, R41, R61, R84,
R107, R121, R134, R155, R173, R183). Each answer carries the items that its rule lists, at the widths of R163; their
order, and the places that the lists leave open, are the model's choice (log entry 24; the places in the queue and the
stack log entry 54, the attempt number log entry 65). -/
def Obligations.ReadsAnswer : Prop :=
  (∀ (x : Shelf) (i : Nat),
    let p := vget x.psms i
    let b := vget x.bbms i
    let g := vget x.signals i
    let line : Nat := if p.lineActive then 0 else 1
    let word := fun c : PsmStatus => beFlag c.inputOk ++ beFlag c.outputOk ++ beFlag c.fault
    psmData x i =
      be8 (psmStateNumber p.state) ++ be8 (psmReasonNumber p.reason) ++ beItem (p.status.map word) ++
        be8 line ++ beFlag p.inputHold ++ beTime p.stateTime ∧
    bbmData x i =
      be8 (bbmStateNumber b.state) ++ beOpt8 (b.fault.map bbmFaultNumber) ++ beFlag b.full ++
        beFlag b.seen ++ beOpt16 b.ordered ++ be16 b.acknowledged ++ beTime b.stateTime ++
        be32 (chargeAllocation x) ++ be16 (headNeed x) ++ be32 x.chargeBudget ∧
    signalData x i =
      be16 g.value ++ be8 (bandNumber g.band) ++ beOpt8 (g.pending.map bandNumber) ++ be8 g.count ++
        beTime g.last ++ beFlag g.stale ++
        beOpt8 ((feeding x i).map fun f => signalKinds.idxOf f.kind) ++
        beOpt8 ((feeding x i).map (·.limitSet))) ∧
  (∀ timer : Timer, beTimer timer =
    match timer with
    | .stopped => [0, 0, 0, 0, 0]
    | .running expiry => be8 1 ++ beTime expiry
    | .frozen left => be8 2 ++ beTime left) ∧
  (∀ x : Shelf,
    let r := x.ride
    let summary := fun z : Summary =>
      beTime z.entry ++ be8 (rideCauseNumber z.cause) ++ be32 z.anchor ++ beOptTime z.returnTime ++
        beOptTime z.normalTime ++ beOpt32 z.used ++ be16 z.shedCount ++ be16 z.returns ++
        be16 z.smallestT ++ beFlag z.depleted
    let qualify := match r.qualify with
      | some start => be8 1 ++ beTime start
      | none => [0, 0, 0, 0, 0]
    rideData x =
      be8 (rideStateNumber r.state) ++ be32 r.eRem ++ be8 r.r ++ be32 r.eCap ++ be32 r.eAnchor ++
        be32 r.eUse ++ be32 r.dProj ++ be32 r.bMax ++ be16 r.t ++ qualify ++ beFlag r.tick.isSome ++
        be8 x.bay.stack.length ++ x.bay.stack.flatMap be8 ++ beItem (r.closedSummary.map summary) ++
        beItem (r.openSummary.map summary)) ∧
  (∀ (x : Shelf) (t : Nat),
    let r := vget x.bay.trays t
    (trayAt x t = none → trayData x t = [0]) ∧
    ((trayAt x t).isSome → ∃ place : Option Nat,
      trayData x t =
        be8 1 ++ be8 (trayStateNumber r.state) ++ beOpt8 (r.fault.map trayFaultNumber) ++
          be8 (seenNumber r.seen) ++ be8 (awaitedNumber r.awaited) ++ beTimer r.startTimer ++
          beTime r.enableTime ++ beTime r.duration ++ beOpt8 (r.queuedBy.map queuedByNumber) ++
          beTime r.stateTime ++ beOpt8 place ∧
      (t ∈ x.bay.queue → place = some (x.bay.queue.idxOf t)) ∧
      (t ∉ x.bay.queue → t ∈ x.bay.stack → place = some (x.bay.stack.idxOf t)) ∧
      (t ∉ x.bay.queue → t ∉ x.bay.stack → place = none))) ∧
  (∀ x : Shelf,
    let starting := (List.range 24).filter fun t => (trayAt x t).isSome && trayState x t = .starting
    let adopting := (List.range 24).any fun t => (trayAt x t).isSome && trayState x t = .unknown
    queueData x =
      be8 x.bay.queue.length ++ x.bay.queue.flatMap be8 ++ be16 (headNeed x) ++
        be8 starting.length ++ be8 (policy x).startWindow ++ beFlag (!adopting) ++
        beFlag x.shelfStop) ∧
  (∀ x : Shelf,
    let q := x.seq
    let outcome := fun o : RunOutcome => match o with
      | .ended step => be8 0 ++ be8 step
      | .halted cause step => be8 1 ++ be8 (haltCauseNumber cause) ++ be8 step
    let record :=
      be8 (seqStateNumber q.state) ++ beOpt8 q.pointer ++ beOpt8 q.entry ++
        beOpt8 (q.origin.map originNumber) ++ be8 q.runCount ++ be16 q.stepsTaken ++
        beTimer q.stepTimer ++ beTimer q.delayTimer ++ beItem (q.outcome.map outcome) ++
        beFlag q.autostart.isSome
    (q.pointer.bind (stepAt x) = none → programData x = record) ∧
    ∀ n step, q.pointer = some n → stepAt x n = some step →
      (step.kind ≠ .awaitTrays → programData x = record ++ be8 (stepKinds.idxOf step.kind)) ∧
      (step.kind = .awaitTrays → ∃ waits : Nat,
        programData x = record ++ be8 1 ++ be24 waits ∧
        ∀ t, waits.testBit t = true ↔ t < 24 ∧ step.traySet.testBit t = true ∧
          (trayAt x t).isSome = true ∧ (trayState x t = .queued ∨ trayState x t = .starting))) ∧
  (∀ (x : Shelf) (z : Nat) (entry : ZoneEntry),
    let r := vget x.zones z
    zoneData x z entry =
      (encodeZone entry).drop 1 ++ be8 (zoneStateNumber r.state) ++ be8 r.wet ++ be8 r.unknown ++
        be8 r.epoch.toNat ++ be8 (min entry.points.length r.points.length) ++
        ((entry.points.zip r.points).flatMap fun p =>
          (match p.1 with
            | .signal n => be8 0 ++ be8 n
            | .line l => be8 1 ++ be8 l) ++ be8 (pointStateNumber p.2)) ++
        beTimer r.timer ++ beTime r.firstWet ++ beTime r.latch ++ be8 (zoneTrays x z).length ++
        (zoneTrays x z).flatMap fun t => be8 t ++ be8 (trayStateNumber (trayState x t))) ∧
  (∀ (x : Shelf) (p : Port) (first count : Nat),
    let g := engine x p
    let e := pollEngine x p
    let head := fun o : Option (Byte × Byte) => match o with
      | some h => [1, h.1, h.2]
      | none => [0]
    let position := fun i =>
      let r := field8 (recordAt x 3 ((if p = .tp then 32 else 0) + i)) 1
      let module := (rosterAt x r).map fun _ => vget x.modules r
      beFlag (pollAt x p i).isSome ++ be8 r ++
        beOpt8 (module.map fun m => presenceNumber m.presence) ++ beOpt8 (module.map (·.misses))
    pollData x p first count =
      beFlag g.enabled ++ be8 g.settings.replyTimeout ++ be8 e.position ++ be8 e.pass ++
        be8 e.nonPollRun ++ beTimer e.emptyTimer ++
        beItem (e.inFlight.map fun tx =>
          be8 (txKindNumber tx.kind) ++ [tx.address] ++ beOpt8 (tx.code.map BitVec.toNat) ++
            beOpt8 tx.attempt ++ beTimer tx.timer) ++
        beItem (e.inProgress.map fun o =>
          be8 o.order.roster ++ [o.order.address, o.order.code] ++ be16 o.order.argument ++
            be8 o.attempt) ++
        be8 e.control.length ++ head (e.control.head?.map fun o => (o.address, o.code)) ++
        be8 e.command.length ++ head (e.command.head?.map fun o => (o.address, o.code)) ++
        be16 g.stray ++ (List.range count).flatMap fun j => position (first + j)) ∧
  (∀ (x : Shelf) (t first count : Nat), count ≤ 8 →
    let held := fun i => match x.window with
      | some w => if w.table = t then latchedAt w i else none
      | none => none
    ∃ mask, readRange x t first count =
        be8 t ++ be8 first ++ be8 count ++ be8 mask ++
          ((List.range count).flatMap fun j =>
            (held (first + j)).getD (recordAt x t (first + j))) ∧
      ∀ j, mask.testBit j = true ↔ j < count ∧ (held (first + j)).isSome = true) ∧
  ∀ (e : Ambient) (s : State), Calm s →
    let h := heard e s
    let x := h.toShelf
    exec (.readBalance e) s = .next (answered rqReadBalance stDone (balanceData x) h) ∧
    exec (.readRide e) s = .next (answered rqReadRide stDone (rideData x) h) ∧
    exec (.readQueue e) s = .next (answered rqReadQueue stDone (queueData x) h) ∧
    exec (.readProgram e) s = .next (answered rqReadProgram stDone (programData x) h) ∧
    (∀ i : Byte, i.toNat ≤ 5 → (psmAt x i.toNat).isSome →
      exec (.readModule e 0 i) s = .next (answered rqReadModule stDone (psmData x i.toNat) h)) ∧
    (∀ i : Byte, i.toNat ≤ 5 → (bbmAt x i.toNat).isSome →
      exec (.readModule e 1 i) s = .next (answered rqReadModule stDone (bbmData x i.toNat) h)) ∧
    (∀ (z : Byte) (entry : ZoneEntry), z.toNat ≤ 7 → zoneAt x z.toNat = some entry →
      exec (.readZone e z) s = .next (answered rqReadZone stDone (zoneData x z.toNat entry) h)) ∧
    (∀ f n : Byte, 1 ≤ n.toNat → n.toNat ≤ 8 → f.toNat + n.toNat ≤ 128 →
      exec (.readSignal e f n) s =
        .next (answered rqReadSignal stDone
          ((List.range n.toNat).flatMap fun j => signalData x (f.toNat + j)) h)) ∧
    (∀ f n : Byte, 1 ≤ n.toNat → n.toNat ≤ 8 → f.toNat + n.toNat ≤ 24 →
      exec (.readTray e f n) s =
        .next (answered rqReadTray stDone
          ((List.range n.toNat).flatMap fun j => trayData x (f.toNat + j)) h)) ∧
    (∀ (p : Port) (f n : Byte), p ≠ .up → 1 ≤ n.toNat → n.toNat ≤ 8 → f.toNat + n.toNat ≤ 32 →
      exec (.readPoll e (BitVec.ofNat 8 (portNumber p)) f n) s =
        .next (answered rqReadPoll stDone (pollData x p f.toNat n.toNat) h)) ∧
    (∀ t f n : Byte, t.toNat ≤ 12 → 1 ≤ n.toNat → n.toNat ≤ mostPerRead.getD t.toNat 0 →
      f.toNat + n.toNat ≤ tableSize t.toNat →
      exec (.readTable e t f n) s =
        .next (answered rqReadTable stDone (readRange x t.toNat f.toNat n.toNat) h)) ∧
    ∀ row page : Byte, row.toNat ≤ 63 → page.toNat ≤ 7 → s.store.op = none →
      exec (.storeRead e row page) s =
        .next (answered rqStoreRead stDone
          (readPage s.store.cells row.toNat page.toNat ++
            [BitVec.ofNat 8 (pageStateNumber (pageState s.store row.toNat page.toNat)),
              BitVec.ofNat 8 (vget s.store.counts row.toNat)]) h)

/-- A read outside its range, a read of an entry not in use, and a REQUEST with an unknown code or a wrong
argument length are refused and do nothing else (R8, R24, R61, R107, R134, R155, R166, R169, R173,
R183). The length of EDIT-WRITE's record is judged by R175, and not here (log entry 29). -/
def Obligations.RequestsRefused : Prop :=
  (∀ payload : List Byte, invalidRequest payload = true ↔
    let code := (payload.headD 0).toNat
    let args := payload.length - 1
    payload ≠ [] ∧ payload.length ≤ 60 ∧ ¬(code = 0x03 ∧ 1 ≤ args) ∧
      (code, args) ∉ [(0x01, 3), (0x02, 3), (0x04, 0), (0x05, 0), (0x10, 2), (0x11, 34), (0x12, 2),
        (0x13, 2), (0x18, 0), (0x20, 1), (0x21, 2), (0x28, 0), (0x30, 2), (0x38, 0), (0x40, 2),
        (0x41, 0), (0x42, 1), (0x48, 1), (0x49, 0), (0x4A, 0), (0x50, 1), (0x51, 2), (0x58, 3),
        (0x59, 1), (0x5A, 1), (0x5B, 1)]) ∧
  ∀ (e : Ambient) (s : State), Calm s →
    let h := heard e s
    let x := h.toShelf
    (∀ payload : List Byte, invalidRequest payload = true →
      exec (.requestInvalidCode e payload) s =
        .next (answered (payload.headD 0) stInvalid [] h)) ∧
    (∀ f n : Byte, n.toNat = 0 ∨ 8 < n.toNat ∨ 128 < f.toNat + n.toNat →
      exec (.readSignal e f n) s = .next (answered rqReadSignal stInvalid [] h)) ∧
    (∀ f n : Byte, n.toNat = 0 ∨ 8 < n.toNat ∨ 24 < f.toNat + n.toNat →
      exec (.readTray e f n) s = .next (answered rqReadTray stInvalid [] h)) ∧
    (∀ p f n : Byte, p.toNat = 0 ∨ 2 < p.toNat ∨ n.toNat = 0 ∨ 8 < n.toNat ∨
        32 < f.toNat + n.toNat →
      exec (.readPoll e p f n) s = .next (answered rqReadPoll stInvalid [] h)) ∧
    (∀ t f n : Byte, 12 < t.toNat ∨ n.toNat = 0 ∨ mostPerRead.getD t.toNat 0 < n.toNat ∨
        tableSize t.toNat < f.toNat + n.toNat →
      exec (.readTable e t f n) s = .next (answered rqReadTable stInvalid [] h)) ∧
    (∀ k i : Byte, 1 < k.toNat ∨ 5 < i.toNat →
      exec (.readModule e k i) s = .next (answered rqReadModule stInvalid [] h)) ∧
    (∀ i : Byte, i.toNat ≤ 5 → psmAt x i.toNat = none →
      exec (.readModule e 0 i) s = .next (answered rqReadModule stNoEntry [] h)) ∧
    (∀ i : Byte, i.toNat ≤ 5 → bbmAt x i.toNat = none →
      exec (.readModule e 1 i) s = .next (answered rqReadModule stNoEntry [] h)) ∧
    (∀ z : Byte, 7 < z.toNat →
      exec (.readZone e z) s = .next (answered rqReadZone stInvalid [] h)) ∧
    (∀ z : Byte, z.toNat ≤ 7 → zoneAt x z.toNat = none →
      exec (.readZone e z) s = .next (answered rqReadZone stNoEntry [] h)) ∧
    (∀ l : Byte, 23 < l.toNat →
      exec (.readLine e l) s = .next (answered rqReadLine stInvalid [] h)) ∧
    (∀ p : Byte, 2 < p.toNat →
      exec (.readPort e p) s = .next (answered rqReadPort stInvalid [] h)) ∧
    (∀ row page : Byte, 63 < row.toNat ∨ 7 < page.toNat →
      exec (.storeRead e row page) s = .next (answered rqStoreRead stInvalid [] h)) ∧
    ∀ row page : Byte, row.toNat ≤ 63 → page.toNat ≤ 7 → s.store.op.isSome →
      exec (.storeRead e row page) s = .next (answered rqStoreRead stBusy [] h)

/-- READ-LINE of a sense line clears its CAPTURED and MISSED, and READ-PORT the port's OVERRUN mark; the
answer carries the marks as they stood. READ-LINE of a drive line clears nothing (R8, R169). Each answer carries the
items that its rule lists, at the widths of R163; their order is the model's choice (log entry 24). -/
def Obligations.ReadsThatClear : Prop :=
  (∀ (x : Shelf) (l : Nat),
    let r := vget x.lines l
    let active : Nat := if r.accepted = some (senseAt x l).active then 0 else 1
    senseData x l =
      encodeSense (senseAt x l) ++ be8 (levelNumber r.accepted) ++ be8 active ++
        be8 (edgeNumber r.capture.edge) ++ beTime r.capture.latest ++ beTime r.capture.previous ++
        beFlag r.capture.captured ++ beFlag r.capture.missed) ∧
  (∀ (x : Shelf) (d : Nat),
    driveData x d = (encodeDrive (driveAt x d)).take 3 ++ be8 (levels.idxOf (vget x.drives d))) ∧
  (∀ (x : Shelf) (p : Port),
    let g := engine x p
    let common :=
      encodePort g.settings ++ recordAt x 1 (portNumber p) ++ beFlag g.enabled ++ be16 g.damaged ++
        be16 g.overruns ++ beFlag g.overrun ++ be8 g.rx.length ++ be16 g.stray
    (p ≠ .up → portData x p = common) ∧
    (p = .up → portData x p =
      common ++ be8 x.replies.length ++ be8 x.notices.length ++ be8 x.telemetry.length ++
        be8 x.replyWait.length ++ be16 x.telemetryDrops)) ∧
  ∀ (e : Ambient) (s : State), Calm s →
    let h := heard e s
    let x := h.toShelf
    (∀ l : Byte, l.toNat < 16 →
      exec (.readLine e l) s =
        .next (answered rqReadLine stDone (senseData x l.toNat)
          (onShelf
            (fun x => { x with
              lines := vmod x.lines l.toNat fun r =>
                { r with capture := { r.capture with captured := false, missed := false } } }) h))) ∧
    (∀ l : Byte, 16 ≤ l.toNat → l.toNat < 24 →
      exec (.readLine e l) s =
        .next (answered rqReadLine stDone (driveData x (l.toNat - 16)) h)) ∧
    ∀ p : Port,
      exec (.readPort e (BitVec.ofNat 8 (portNumber p))) s =
        .next (answered rqReadPort stDone (portData x p)
          (onShelf (editEngine p fun g => { g with overrun := false }) h))

/-- EDIT-OPEN and EDIT-WRITE are decided by the tests of R175, in order; a write restarts the idle timer
with a fresh 5 s whatever its answer, and latches its record on DONE. A range is protected where one of its entries
is: an entry of the Policy, the BBM parameters or the Trays outside NORMAL, one of the Sequence while the sequencer is
RUNNING, WAITING or HELD, a Zones entry while its zone is not DRY, and no other (R178). -/
def Obligations.WindowOpensAndLatches : Prop :=
  ∀ (e : Ambient) (s : State), Calm s →
    let h := heard e s
    let x := h.toShelf
    let fresh := Timer.running (x.shelfTime + 5000000)
    (∀ t f n : Byte,
      let bad := 12 < t.toNat ∨ n.toNat = 0 ∨ 8 < n.toNat ∨ tableSize t.toNat < f.toNat + n.toNat
      (bad → exec (.editOpen e t f n) s = .next (answered rqEditOpen stInvalid [] h)) ∧
      (¬bad → s.window.isSome →
        exec (.editOpen e t f n) s = .next (answered rqEditOpen stBusy [] h)) ∧
      (¬bad → s.window = none → rangeProtected x t.toNat f.toNat n.toNat = true →
        exec (.editOpen e t f n) s = .next (answered rqEditOpen stProtected [] h)) ∧
      (¬bad → s.window = none → rangeProtected x t.toNat f.toNat n.toNat = false →
        exec (.editOpen e t f n) s =
          .next (answered rqEditOpen stDone []
            (onShelf
              (fun x => { x with
                window := some
                  { table := t.toNat, first := f.toNat, count := n.toNat
                    latched := List.replicate n.toNat none, idle := fresh } }) h)))) ∧
    (∀ (i : Byte) (record : List Byte), record.length ≤ 58 →
      (s.window = none →
        exec (.editWrite e i record) s = .next (answered rqEditWrite stNoWindow [] h)) ∧
      ∀ w, s.window = some w →
        let keep := fun w' => onShelf (fun x => { x with window := some { w' with idle := fresh } }) h
        (i.toNat < w.first ∨ w.first + w.count ≤ i.toNat →
          exec (.editWrite e i record) s = .next (answered rqEditWrite stNoWindow [] (keep w))) ∧
        (w.first ≤ i.toNat → i.toNat < w.first + w.count → record.length ≠ recordLength w.table →
          exec (.editWrite e i record) s = .next (answered rqEditWrite stInvalid [] (keep w))) ∧
        (w.first ≤ i.toNat → i.toNat < w.first + w.count → record.length = recordLength w.table →
          exec (.editWrite e i record) s =
            .next (answered rqEditWrite stDone []
              (keep { w with latched := w.latched.set (i.toNat - w.first) (some record) })))) ∧
    ∀ (t first count : Nat),
      let guarded := fun i =>
        ((t = 0 ∨ t = 8 ∨ t = 9) ∧ x.ride.state ≠ .normal) ∨
          (t = 11 ∧ (x.seq.state = .running ∨ x.seq.state = .waiting ∨ x.seq.state = .held)) ∨
          (t = 10 ∧ (vget x.zones i).state ≠ .dry)
      rangeProtected x t first count = true ↔ ∃ i, first ≤ i ∧ i < first + count ∧ guarded i

/-- EDIT-DISCARD of a CLOSED window is answered NO-WINDOW, and of an OPEN one closes it; the expiry of the idle
timer closes it and posts EDIT-EXPIRED with the table, the range and the number of latched records
(R179; the numbers of R163; the arbiters that end the event are the model's, log entries 13 and 14). -/
def Obligations.WindowCloses : Prop :=
  (∀ (e : Ambient) (s : State), Calm s →
    (s.window = none →
      exec (.editDiscard e) s = .next (answered rqEditDiscard stNoWindow [] (heard e s))) ∧
    (s.window.isSome →
      exec (.editDiscard e) s =
        .next (answered rqEditDiscard stDone []
          (onShelf (fun x => { x with window := none }) (heard e s))))) ∧
  ∀ (e : Ambient) (s : State) (w : Window), Still s → s.window = some w →
    expired (s.shelfTime + e.elapsed) w.idle = true →
    exec (.editIdleTimerExpiry e) s =
      .next (settled
        (fun x => { x with
          window := none
          notices := offerNotice
            { time := s.shelfTime + e.elapsed, source := 10, index := w.table, code := 15
              more := false, word1 := twoItems w.first w.count
              word2 := (latchedEntries w).length } x.notices })
        (opening e s))

/-- EDIT-APPLY is decided by the steps of R176, in order: it is INVALID where some latched entry fails a check or
takes part in a conflict (`EntryFails`) in the table as it would stand, and the answer names the lowest such entry; an
apply puts each latched record in the place of its working entry and changes no other entry. The side effects of R177
follow, and then one recomputation, with cause APPLY for the four tables of R39. Each table has the side effects of
its owner: the Policy an admission and a charge evaluation; the Roster and the Poll lists the removal of old modules
and the coming of new ones (R154), with the absence of every module left unlisted (R140); the Sample Map, the Limit
Sets, the Line table, the PSM and BBM parameters, the Trays and the Zones those of R23, R5, R60, R106 and R135, whose
single entries other statements give; the Port table, the Sequence and the Guard none. That several latched entries
are taken in ascending order is log entry 60, former line owners before initial states log entry 46, a recomputation
of a table that R39 does not name log entry 19, E_cap at an apply of the PSM parameters log entry 57, and the answer
of a relayed order in flight log entry 21. -/
def Obligations.ApplyDecided : Prop :=
  (∀ (e : Ambient) (s : State), Calm s →
    let h := heard e s
    let x := h.toShelf
    let fresh := Timer.running (x.shelfTime + 5000000)
    (s.window = none →
      exec (.editApply e) s = .next (answered rqEditApply stNoWindow [] h)) ∧
    ∀ w, s.window = some w →
      let keep := onShelf (fun x => { x with window := some { w with idle := fresh } }) h
      (rangeProtected x w.table w.first w.count = true →
        exec (.editApply e) s = .next (answered rqEditApply stProtected [] keep)) ∧
      (rangeProtected x w.table w.first w.count = false → latchedEntries w = [] →
        exec (.editApply e) s =
          .next (answered rqEditApply stDone [] (onShelf (fun x => { x with window := none }) h))) ∧
      (rangeProtected x w.table w.first w.count = false → latchedEntries w ≠ [] →
        (∀ i, firstFailing x w = some i →
          exec (.editApply e) s =
            .next (answered rqEditApply stInvalid [BitVec.ofNat 8 i] keep)) ∧
        (firstFailing x w = none →
          exec (.editApply e) s =
            .next (closing (told rqEditApply stDone [] (onShelf (replaceEntries w) h)))))) ∧
  (∀ (x : Shelf) (w : Window), w.table ≤ 12 →
    let fails := EntryFails x w.table (tableAfter x w)
    (∀ i record, latchedAt w i = some record ↔
      w.first ≤ i ∧ i < w.first + w.count ∧ w.latched[i - w.first]? = some (some record)) ∧
    (latchedEntries w).Pairwise (· < ·) ∧ (∀ i, i ∈ latchedEntries w ↔ (latchedAt w i).isSome) ∧
    (tableAfter x w).length = tableSize w.table ∧
    (∀ i < tableSize w.table,
      recordOf (tableAfter x w) i = (latchedAt w i).getD (recordAt x w.table i)) ∧
    (firstFailing x w = none ↔ ∀ i ∈ latchedEntries w, ¬fails i) ∧
    ∀ i, firstFailing x w = some i ↔
      i ∈ latchedEntries w ∧ fails i ∧ ∀ j ∈ latchedEntries w, j < i → ¬fails j) ∧
  (∀ (x : Shelf) (w : Window), w.table ≤ 12 →
    let y := replaceEntries w x
    y.window = none ∧
      (∀ i < tableSize w.table,
        recordAt y w.table i = (latchedAt w i).getD (recordAt x w.table i)) ∧
      (∀ t ≠ w.table, ∀ i, recordAt y t i = recordAt x t i) ∧
      y = { x with
        tables := y.tables, window := none
        raised := x.raised ++
          [.applied w.table (vget x.tables w.table) (latchedEntries w), .endApply]
        applying := some (if w.table ∈ [0, 7, 8, 9] then [.apply] else []) }) ∧
  (∀ (x : Shelf) (old : List Record) (latched : List Nat),
    let y := fun table => perform (.applied table old latched) x
    let each := fun (f : Nat → Shelf → Shelf) (z : Shelf) => latched.foldl (fun u i => f i u) z
    let zonesAfter := fun z : Shelf => { z with raised := z.raised ++ [.zones] }
    let chargeAfter := fun z : Shelf => { z with deferred := alsoWaits .charge z.deferred }
    let unlistedGo := fun z t : Shelf => ∃ rs : List Nat, rs.Pairwise (· < ·) ∧
      t = zonesAfter { z with
        raised := z.raised ++ rs.map fun r => Task.moduleAbsent r false } ∧
      ∀ r, r ∈ rs ↔ r < 48 ∧ (vget z.modules r).presence ≠ .absent ∧
        ∃ e, rosterAt z r = some e ∧ ∀ i < 32, pollAt z e.port i ≠ some r
    y 0 = { chargeAfter x with admitDue := true } ∧ y 1 = x ∧ y 11 = x ∧ y 12 = x ∧
    unlistedGo (each (admitNew old) (each (removeOld old) x)) (y 2) ∧ unlistedGo x (y 3) ∧
    y 4 = zonesAfter (applySampleMap old x) ∧ y 5 = applyLimits old x ∧
    y 6 = zonesAfter (applyLines old latched x) ∧
    y 7 = chargeAfter (recomputeCapacity (each (applyPsm old) x)) ∧
    y 8 = chargeAfter (recomputeCapacity (each (applyBbm old) x)) ∧
    (let z := each (applyTray old) x
    let adopting := fun (inUse : Nat → Bool) (u : Shelf) =>
      ∃ t < 24, inUse t = true ∧ trayState u t = .unknown
    let completes := adopting (fun t => (decodeTray (recordOf old t)).isSome) x ∧
      ¬adopting (fun t => (trayAt z t).isSome) z
    (completes → y 9 = { z with
      deferred := alsoWaits .autostartTest z.deferred, admitDue := true }) ∧
    (¬completes → y 9 = z)) ∧
    y 10 = each (fun z => applyZone z (decodeZone (recordOf old z))) x) ∧
  ∀ (x : Shelf) (old : List Record) (r : Nat), r < 48 →
    let before := decodeRoster (recordOf old r)
    let gone := ∃ a, before = some a ∧ ∀ b, rosterAt x r = some b →
      a.address ≠ b.address ∨ a.port ≠ b.port ∨ a.kind ≠ b.kind ∨ a.index ≠ b.index
    let came := (rosterAt x r).isSome ∧ (before = none ∨ gone)
    (¬gone → removeOld old r x = x) ∧ (¬came → admitNew old r x = x) ∧
    (came → admitNew old r x = { x with modules := vset x.modules r ⟨.new, 0, none⟩ }) ∧
    (gone → ∀ a, before = some a →
      removeOld old r x =
        staleAll (fedFrom x r) (moduleAbsentAs a r false (removeOrders a.port r x))) ∧
    ∀ p : Port, p ≠ .up →
      let pe := pollEngine x p
      let mine := (pe.control.filter fun o => o.roster = r) ++
        (pe.inProgress.toList.filter fun g => g.order.roster = r).map (·.order)
      let relayed :=
        (pe.inFlight.toList.filter fun tx =>
          tx.roster = r ∧ tx.kind = .command ∧ tx.discarded = false).map
            (fun tx => (tx.address, tx.code.getD 0)) ++
        (pe.command.filter fun o => o.roster = r).map fun o => (o.address, o.code)
      let cleared := setPoll p { pe with
        inFlight := pe.inFlight.map fun tx =>
          if tx.roster = r then { tx with discarded := true } else tx
        inProgress := pe.inProgress.filter fun g => g.order.roster ≠ r
        control := pe.control.filter fun o => o.roster ≠ r
        command := pe.command.filter fun o => o.roster ≠ r } x
      let told := mine.foldl
        (fun z o => match o.target with
          | .tray t => trayOutcome t o.code .portOff z
          | .bbm k => bbmOutcome k o.code o.argument .portOff z
          | .gone => z) cleared
      removeOrders p r x = relayed.foldl (fun z o => answerOrder o.1 o.2 0x84 z) told

/-- STORE-ERASE, STORE-WRITE and STORE-VERIFY are decided by the tests of R183, in order, with the ranges of
R183, the protection of R182 and the times of R183; a started operation has its scope and its end
time, and a started write counts at once. -/
def Obligations.StoreRequestsDecided : Prop :=
  (∀ n : Nat, eraseAction n =
    if n = 0 then some .eraseRow else if n = 1 then some .eraseBlock
    else if n = 2 then some .eraseAll else none) ∧
  (∀ row : Nat, (eraseInRange .eraseRow row = true ↔ row ≤ 63) ∧
    (eraseInRange .eraseBlock row = true ↔ row ≤ 63 ∧ row % 8 = 0) ∧
    eraseInRange .eraseAll row = true) ∧
  [StoreAction.eraseRow, .eraseBlock, .eraseAll, .write, .verify].map operationTime =
    [20, 40, 80, 3, 1] ∧
  (∀ (svc : Bool) (level row : Nat),
    let held := fun r : Nat => r = 0 ∨ (1 ≤ level ∧ 64 ≤ r + 16 * level)
    row ≤ 63 →
    (scopeProtected svc level .eraseRow row = true ↔ svc = false ∧ held row) ∧
    (scopeProtected svc level .write row = true ↔ svc = false ∧ held row) ∧
    (scopeProtected svc level .eraseBlock row = true ↔
      svc = false ∧ (∃ r, row ≤ r ∧ r < row + 8 ∧ (r = 0 ∨ 64 ≤ r + 16 * level))) ∧
    (scopeProtected svc level .eraseAll row = true ↔ svc = false ∧ 1 ≤ level)) ∧
  ∀ (e : Ambient) (s : State), Calm s →
    let h := heard e s
    let x := h.toShelf
    let started := fun (action : StoreAction) (row page : Nat) (data : List Byte) (ms : Nat) =>
      some ({ action, row, page, data, ends := x.shelfTime + BitVec.ofNat 32 (1000 * ms) } : StoreOp)
    (∀ scope row : Byte, eraseAction scope.toNat = none →
      exec (.storeErase e scope row) s = .next (answered rqStoreErase stInvalid [] h)) ∧
    (∀ (scope row : Byte) (a : StoreAction), eraseAction scope.toNat = some a →
      (eraseInRange a row.toNat = false →
        exec (.storeErase e scope row) s = .next (answered rqStoreErase stInvalid [] h)) ∧
      (eraseInRange a row.toNat = true →
        (s.store.op.isSome →
          exec (.storeErase e scope row) s = .next (answered rqStoreErase stBusy [] h)) ∧
        (s.store.op = none → s.ride.state ≠ .normal →
          exec (.storeErase e scope row) s = .next (answered rqStoreErase stRide [] h)) ∧
        (s.store.op = none → s.ride.state = .normal →
          scopeProtected e.svc s.level a row.toNat = true →
          exec (.storeErase e scope row) s = .next (answered rqStoreErase stProtected [] h)) ∧
        (s.store.op = none → s.ride.state = .normal →
          scopeProtected e.svc s.level a row.toNat = false →
          exec (.storeErase e scope row) s =
            .next (answered rqStoreErase stStarted []
              { h with
                store := { s.store with op := started a row.toNat 0 [] (operationTime a) } })))) ∧
    (∀ (row page : Byte) (data : List Byte), data.length = 32 →
      let go := exec (.storeWrite e row page data) s
      let answer := fun st => .next (answered rqStoreWrite st [] h)
      (63 < row.toNat ∨ 7 < page.toNat → go = answer stInvalid) ∧
      (row.toNat ≤ 63 → page.toNat ≤ 7 →
        (s.store.op.isSome → go = answer stBusy) ∧
        (s.store.op = none →
          (s.ride.state ≠ .normal → go = answer stRide) ∧
          (s.ride.state = .normal →
            (scopeProtected e.svc s.level .write row.toNat = true → go = answer stProtected) ∧
            (scopeProtected e.svc s.level .write row.toNat = false →
              (pageState s.store row.toNat page.toNat = .damaged → go = answer stDamaged) ∧
              (pageState s.store row.toNat page.toNat ≠ .damaged →
                (8 ≤ vget s.store.counts row.toNat → go = answer stWorn) ∧
                (vget s.store.counts row.toNat < 8 →
                  go = .next (answered rqStoreWrite stStarted []
                    { h with
                      store := { s.store with
                        counts := vmod s.store.counts row.toNat fun n => n + 1
                        op := started .write row.toNat page.toNat data 3 } })))))))) ∧
    ∀ row page : Byte,
      let go := exec (.storeVerify e row page) s
      let answer := fun st => .next (answered rqStoreVerify st [] h)
      (63 < row.toNat ∨ 7 < page.toNat → go = answer stInvalid) ∧
      (row.toNat ≤ 63 → page.toNat ≤ 7 →
        (s.store.op.isSome → go = answer stBusy) ∧
        (s.store.op = none →
          (pageState s.store row.toNat page.toNat = .damaged → go = answer stDamaged) ∧
          (pageState s.store row.toNat page.toNat = .erased → go = answer stInvalid) ∧
          (pageState s.store row.toNat page.toNat = .written ∨
              pageState s.store row.toNat page.toNat = .verified →
            go = .next (answered rqStoreVerify stStarted []
              { h with
                store := { s.store with
                  op := started .verify row.toNat page.toNat [] 1 } }))))

/-- The operation in flight completes at its end time with its effect on the store and its notice (R184; log
entry 38 for the numbers of the results). Before it, or with none in flight, it is the model's choice
that the command only lets time pass (log entry 6). -/
def Obligations.StoreOperationsComplete : Prop :=
  (∀ (e : Ambient) (s : State) (o : StoreOp) (weak : Bool), Still s → s.store.op = some o →
    reached (s.shelfTime + e.elapsed) o.ends = true →
    ∃ t, exec (.storeOperationComplete e weak) s = .next t ∧
      t.store = completedStore o weak s.store ∧ t.store.op = none ∧ t.pending = s.pending ∧
      t = settled
        (fun x => { x with
          notices := offerNotice
            { time := s.shelfTime + e.elapsed, source := 11
              index := if o.action = .eraseAll then 0 else o.row
              code := if operationResult s.store o weak = 0 then 16 else 17
              more := false
              word1 := twoItems (actionCode o.action)
                (if o.action = .write ∨ o.action = .verify then o.page else 0)
              word2 := operationResult s.store o weak } x.notices })
        { opening e s with store := completedStore o weak s.store }) ∧
  ∀ (e : Ambient) (s : State) (weak : Bool), Still s →
    (s.store.op = none ∨
      ∃ o, s.store.op = some o ∧ reached (s.shelfTime + e.elapsed) o.ends = false) →
    exec (.storeOperationComplete e weak) s = .next (settled id (opening e s))

/-- What each operation in flight does, once complete, to the bytes, the page states and the write counts: a
write clears bits and sets none, and leaves every other byte; an erase sets the whole rows of its scope
ROW, BLOCK or ALL; a verify changes no byte. The result is MISMATCH where a write's bytes are not those
sent, and WEAK where a verify finds the page so (R184; log entry 38 for the numbers). A reset by power-on
or the RESET line damages every page of the scope of an operation in flight, and keeps the data and the
write counts (R185). -/
def Obligations.StoreBytesAndPages : Prop :=
  (∀ (st : Store) (o : StoreOp) (weak : Bool), Memory.wf st.cells = true → o.row < 64 → o.page < 8 →
    let new := completedStore o weak st
    let at_ := pageAddress o.row o.page
    new.op = none ∧
    (o.action = .write → o.data.length = 32 →
      (∀ i < 32, readByte new.cells (at_ + i) = readByte st.cells (at_ + i) &&& o.data.getD i 0) ∧
      (∀ a, a < at_ ∨ at_ + 32 ≤ a → readByte new.cells a = readByte st.cells a) ∧
      (∀ r < 64, ∀ p < 8, pageState new r p =
        if r = o.row ∧ p = o.page then .written else pageState st r p) ∧
      new.counts = st.counts ∧
      let held := ∀ i < 32,
        readByte st.cells (at_ + i) &&& o.data.getD i 0 = o.data.getD i 0
      (held → operationResult st o weak = 0) ∧ (¬held → operationResult st o weak = 1)) ∧
    (o.action = .verify →
      new.cells = st.cells ∧ new.counts = st.counts ∧
      operationResult st o weak = (if weak then 2 else 0) ∧
      ∀ r < 64, ∀ p < 8, pageState new r p =
        if r = o.row ∧ p = o.page then (if weak then .written else .verified)
        else pageState st r p) ∧
    (o.action = .eraseRow ∨ (o.action = .eraseBlock ∧ o.row + 8 ≤ 64) ∨ o.action = .eraseAll →
      let erased := fun r : Nat => (o.action = .eraseRow ∧ r = o.row) ∨
        (o.action = .eraseBlock ∧ o.row ≤ r ∧ r < o.row + 8) ∨ o.action = .eraseAll
      operationResult st o weak = 0 ∧
      (∀ a < 16384,
        (erased (a / 256) → readByte new.cells a = 0xFF) ∧
        (¬erased (a / 256) → readByte new.cells a = readByte st.cells a)) ∧
      ∀ r < 64,
        (erased r → vget new.counts r = 0 ∧ ∀ p < 8, pageState new r p = .erased) ∧
        (¬erased r → vget new.counts r = vget st.counts r ∧
          ∀ p < 8, pageState new r p = pageState st r p))) ∧
  ∀ st : Store,
    (damagedStore st).cells = st.cells ∧ (damagedStore st).counts = st.counts ∧
      (damagedStore st).op = none ∧
      (st.op = none → (damagedStore st).pages = st.pages) ∧
      ∀ o, st.op = some o → o.row < 64 → o.page < 8 → (o.action = .eraseBlock → o.row + 8 ≤ 64) →
        ∀ r < 64, ∀ p < 8,
          let cut := ((o.action = .write ∨ o.action = .verify) ∧ r = o.row ∧ p = o.page) ∨
            (o.action = .eraseRow ∧ r = o.row) ∨
            (o.action = .eraseBlock ∧ o.row ≤ r ∧ r < o.row + 8) ∨ o.action = .eraseAll
          (cut → pageState (damagedStore st) r p = .damaged) ∧
            (¬cut → pageState (damagedStore st) r p = pageState st r p)

/-! ### Resets -/

/-- RESTART is answered RIDE outside NORMAL and BUSY with a store operation in flight; on DONE a restart is
pending, and its answer is placed with the mark by which its sending is known (R170; log entry 30). -/
def Obligations.RestartDecided : Prop :=
  ∀ (e : Ambient) (s : State), Calm s →
    (s.ride.state ≠ .normal →
      exec (.restart e) s = .next (answered rqRestart stRide [] (heard e s))) ∧
    (s.ride.state = .normal → s.store.op.isSome →
      exec (.restart e) s = .next (answered rqRestart stBusy [] (heard e s))) ∧
    (s.ride.state = .normal → s.store.op = none →
      exec (.restart e) s =
        .next (settled
          (fun x => placeReply
            { frame := { address := 0, kind := kindAnswer, payload := [rqRestart, stDone] }
              restartDone := true } { x with restart := some false })
          (heard e s)))

/-- A table is LOADED, DEFAULT or BAD by the conditions of R186, checked against the tables of the same loading, and the
protect level is the directory's where that is usable. Each reset loads the working tables so; power-on reset and
the RESET line damage a cut-off operation's pages, and a RESTART finds the store as it was. UP runs with the
settings of its entry, the edit window is CLOSED and no restart is pending (R170, R174, R185, R186, R187). Each
reset gives every block the values of its chapter (R7 to R174), and leaves nothing of an earlier event; the tables,
load status, level and port settings that it gives are those that start-up then replaces (log entry 10), and the
model's own fields are log entries 4, 9, 27 and 31. A RESTART alone keeps shelf time, the last closed summary, the
zones with their confirm timers STOPPED, and the VALVE and LEAK-ALARM levels; its other drive lines go inactive, and
at the other resets every one is low (R12). Over these values the tables are placed in effect: every zone in use is
evaluated, and one kept without an entry becomes DRY with cause TABLE (R136); the trays of WET zones are LOCKED
(R87, R100); the drive lines are set (R12) and E_cap is recomputed (R67); the unlisted modules of other kinds are to
be ABSENT (R140); then one recomputation is made with cause START among its causes (R40), after which the unlisted
modules of trays are to be ABSENT (log entry 58), and the orders of the locks go out after phase 4 (log entry 18).
In phase 4 SP and TP take their settings and are enabled where the flag is set, or their modules are to be ABSENT
(R187); in phase 5 the autostart is pending only where the four tables are LOADED (R120, R187); and STARTED ends the
event (R188). The mark by which a RESTART is ready, and the ascending order of the absences, are the model's choices
(log entries 30, 60). -/
def Obligations.ResetsLoadTheTables : Prop :=
  (∀ (st : Store) (x : Shelf) (t : Nat), t < 13 →
    let d := dirEntry st t
    let usable := (∀ j < 3, pageState st 0 j = .verified) ∧
      field16 (directory st) 79 = (crc16 ((directory st).take 79)).toNat
    let image := imageRecords t (imageBytes st d)
    let noImage := d.pages = 0 ∨ d.pages = 255
    let good := 1 ≤ d.first ∧ 8 * d.first + d.pages ≤ 512 ∧
      (∀ j < d.pages, vget st.pages (8 * d.first + j) = .verified) ∧
      d.length = tableSize t * recordLength t ∧ d.pages = (d.length + 31) / 32 ∧
      (crc16 (imageBytes st d)).toNat = d.crc ∧ tableValid x t image = true
    (usable → ¬noImage → good → loadTable st x t = (.loaded, image)) ∧
    (usable → ¬noImage → ¬good → loadTable st x t = (.bad, defaultTable t)) ∧
    (usable → noImage → loadTable st x t = (.default, defaultTable t)) ∧
    (¬usable → (∀ j < 3, pageState st 0 j = .erased) →
      loadTable st x t = (.default, defaultTable t)) ∧
    (¬usable → (∃ j < 3, pageState st 0 j ≠ .erased) →
      loadTable st x t = (.bad, defaultTable t)) ∧
    let levelGood := usable ∧ field8 (directory st) 78 ≤ 3
    (levelGood → latchedLevel st = field8 (directory st) 78) ∧
    (¬levelGood → latchedLevel st = 0)) ∧
  (∀ (x : Shelf) (t : Nat) (records : List Record), t < 13 →
    (tableValid x t records = true ↔ ∀ i < tableSize t, ¬EntryFails x t records i)) ∧
  (∀ (st : Store) (x : Shelf) (t : Nat), t < 13 →
    let y := loadTables st x
    (vget y.loads t, vget y.tables t) = loadTable st y t ∧
      y = { x with
        loads := y.loads, tables := y.tables
        engUp := { x.engUp with enabled := true, settings := portEntry y .up } }) ∧
  let loads := fun (kind : ResetKind) (e : Ambient) (s t : State) =>
    let fresh := loadTables t.store (resetBlocks kind (opening e s).toShelf)
    t.tables = fresh.tables ∧ t.loads = fresh.loads ∧ t.level = latchedLevel t.store ∧
      t.engUp.enabled = true ∧ t.window = none ∧ t.restart = none ∧ t.pending = s.pending
  (∀ (e : Ambient) (s : State), ∃ t, exec (.powerOnReset e) s = .next t ∧
    t.store = damagedStore s.store ∧ loads .powerOn e s t) ∧
  (∀ (e : Ambient) (s : State), ∃ t, exec (.resetLine e) s = .next t ∧
    t.store = damagedStore s.store ∧ loads .line e s t) ∧
  (∀ (e : Ambient) (s : State), s.engUp.shifter.isSome → s.engUp.buffer = none →
    restartReady s.toShelf = true →
    ∃ t, exec (.restartPerform e) s = .next t ∧ t.store = s.store ∧ loads .restart e s t) ∧
  (∀ (e : Ambient) (s : State),
    let resets := fun kind : ResetKind =>
      let st := if kind = .restart then s.store else damagedStore s.store
      closing { startUp kind st (resetBlocks kind (opening e s).toShelf) with
        store := st, pending := s.pending }
    exec (.powerOnReset e) s = .next (resets .powerOn) ∧
    exec (.resetLine e) s = .next (resets .line) ∧
    (s.engUp.shifter.isSome → s.engUp.buffer = none → restartReady s.toShelf = true →
      exec (.restartPerform e) s = .next (resets .restart))) ∧
  (∀ (kind : ResetKind) (st : Store) (x : Shelf),
    let z := placeTables (loadTables st x)
    ∃ wet trays : List Nat,
      startUp kind st x = { z with
        level := latchedLevel st
        raised := z.raised ++ [.endApply] ++ trays.map (fun r => Task.moduleAbsent r false) ++
          [.startPorts] ++ wet.map Task.placeOff ++ [.startAutostart, .postStarted kind] } ∧
      wet.Pairwise (· < ·) ∧ (∀ t, t ∈ wet ↔ t < 24 ∧ ZoneLocks z t) ∧
      trays.Pairwise (· < ·) ∧
      ∀ r, r ∈ trays ↔ r < 48 ∧ ∃ m, rosterAt z r = some m ∧ m.kind = .tray ∧
        ∀ i < 32, pollAt z m.port i ≠ some r) ∧
  (∀ x : Shelf,
    let y := placeTables x
    let started := { x with sampling := true, applying := some [.start] }
    let zoned := (List.range 8).foldl (fun z i => placeZone i z) started
    ∃ wet gone : List Nat,
      let locked := wet.foldl (fun z t => lockTrayOnly t z) zoned
      let placed := recomputeCapacity { locked with drives := y.drives }
      y = { placed with
        raised := placed.raised ++ gone.map fun r => Task.moduleAbsent r false } ∧
      (∀ d < 8, vget y.drives d = driveLevel y d) ∧
      wet.Pairwise (· < ·) ∧ (∀ t, t ∈ wet ↔ t < 24 ∧ ZoneLocks zoned t) ∧
      (∀ t ∈ wet, trayState y t = .locked) ∧ gone.Pairwise (· < ·) ∧
      ∀ r, r ∈ gone ↔ r < 48 ∧ (vget x.modules r).presence ≠ .absent ∧
        ∃ m, rosterAt x r = some m ∧ m.kind ≠ .tray ∧ ∀ i < 32, pollAt x m.port i ≠ some r) ∧
  (∀ (t : Nat) (x : Shelf), t < 24 →
    let r := vget x.bay.trays t
    let y := lockTrayOnly t x
    (r.state = .locked → y = x) ∧
    (r.state ≠ .locked →
      vget y.bay.trays t = { r with
        state := .locked, awaited := .nothing, startTimer := .stopped, fault := none, queuedBy := none
        stateTime := x.shelfTime } ∧ TrayTold t x y ∧ y.pollTp = x.pollTp)) ∧
  (∀ (z : Nat) (x : Shelf), z < 8 →
    let r := vget x.zones z
    let y := placeZone z x
    ((zoneAt x z).isSome → y = perform (.zoneEval z) x) ∧
    (zoneAt x z = none →
      let moves := r.state ≠ .dry ∨ r.wet ≠ 0 ∨ r.unknown ≠ 0
      let new := { r with
        state := .dry, points := [], wet := 0, unknown := 0, timer := .stopped
        epoch := if moves then r.epoch + 1 else r.epoch }
      (r.state = .dry → y = { x with zones := vset x.zones z new }) ∧
      (r.state ≠ .dry →
        y = { x with
          zones := vset x.zones z new
          notices := offerNotice
            { time := x.shelfTime, source := 8, index := z, code := 9, more := false
              word1 := twoItems (zoneStateNumber r.state) 0
              word2 := twoItems new.epoch.toNat 5 } x.notices
          raised := if r.state = .wet then x.raised ++ (zoneTrays x z).map Task.releaseTray
            else x.raised
          drives := y.drives } ∧
        (r.state = .wet → ∀ d < 8, vget y.drives d = driveLevel y d) ∧
        (r.state ≠ .wet → y.drives = x.drives)))) ∧
  (∀ (kind : ResetKind) (x : Shelf),
    let y := resetBlocks kind x
    let port := fun e : PortEngine => { e with
      enabled := false, assembling := none, rx := [], buffer := none, shifter := none, began := 0
      damaged := 0, overruns := 0, overrun := false, stray := 0 }
    y = { y with
      ambient := x.ambient
      window := none
      lines := .replicate 16 ⟨none, ⟨none, 0, 0⟩, none, ⟨0, 0, none, false, false⟩⟩
      sampling := false, shelfStop := false
      signals := .replicate 128 ⟨0, .unknown, none, 0, 0, false⟩
      balance :=
        { p := .replicate 6 0, pHeld := .replicate 6 false
          b := .replicate 6 0, bHeld := .replicate 6 false
          bDischarging := .replicate 6 false, bUnread := .replicate 6 false
          m := 0, g := .replicate 6 0, sGrid := 0, q := 0, sAdm := 0, k := 0, c := 0, h0 := 0, h := 0
          d := 0, held := false, overcommit := false, deficit := false, causes := [], time := 0
          count := 0 }
      psms := .replicate 6 ⟨.inputLost, .start, none, false, true, 0⟩
      bbms := .replicate 6 ⟨.idle, none, false, false, some 0, 0, 0⟩
      chargeBudget := 0
      ride :=
        { state := .normal, eRem := 0, r := 0, eCap := 0, eAnchor := 0, shares := .replicate 6 0
          eUse := 0, dProj := 0, bMax := 0, t := 65535, qualify := none, tick := none
          openSummary := none, closedSummary := y.ride.closedSummary }
      bay :=
        { trays := .replicate 24 ⟨.unknown, none, .unknown, .nothing, .stopped, 0, 0, none, 0⟩
          queue := [], stack := [] }
      seq := ⟨.idle, none, none, none, 0, 0, .stopped, .stopped, none, none⟩
      engUp := port y.engUp, engSp := port y.engSp, engTp := port y.engTp
      pollSp := ⟨31, 7, .stopped, 0, none, none, [], []⟩
      pollTp := ⟨31, 7, .stopped, 0, none, none, [], []⟩
      modules := .replicate 48 ⟨.new, 0, none⟩
      replies := [], replyWait := [], notices := [], telemetry := [], telemetryRun := 0
      telemetryDrops := 0, restart := none
      agenda := [], deferred := [], raised := [], admitDue := false, causes := [], applying := none } ∧
    (kind ≠ .restart →
      y.shelfTime = 0 ∧ y.ride.closedSummary = none ∧ (∀ d < 8, vget y.drives d = .low) ∧
      ∀ z < 8, vget y.zones z = ⟨.dry, [], 0, 0, .stopped, 0, 0, 0⟩) ∧
    (kind = .restart →
      y.shelfTime = x.shelfTime ∧ y.ride.closedSummary = x.ride.closedSummary ∧
      (∀ z < 8, vget y.zones z = { vget x.zones z with timer := .stopped }) ∧
      ∀ d < 8,
        let e := driveAt x d
        (e.role = .valve ∨ e.role = .leakAlarm → vget y.drives d = vget x.drives d) ∧
        (e.role ≠ .valve → e.role ≠ .leakAlarm → vget y.drives d ≠ e.active))) ∧
  (∀ (p : Port) (x : Shelf), p ≠ .up →
    let y := startPort p x
    (engine y p).settings = portEntry x p ∧
    ((portEntry x p).enable = true →
      y = enablePort p x ∧ (engine y p).enabled = true) ∧
    ((portEntry x p).enable = false →
      y = { setEngine p { engine x p with settings := portEntry x p } x with
        raised := x.raised ++
          ((modulesOn x p).filter fun r => (vget x.modules r).presence ≠ .absent).map
            (fun r => Task.moduleAbsent r false) })) ∧
  ∀ x : Shelf,
    let loaded := ∀ t ∈ [9, 11, 0, 2], vget x.loads t = .loaded
    startPorts x = startPort .tp (startPort .sp x) ∧
    (loaded → startAutostart x = { x with
      seq := { x.seq with autostart := (policy x).autostart }
      raised := x.raised ++ [.autostartTest] }) ∧
    (¬loaded → startAutostart x = { x with
      seq := { x.seq with autostart := none }, raised := x.raised ++ [.autostartTest] }) ∧
    ∀ kind : ResetKind, x.deferred = [] →
      let y := postStarted kind x
      ∃ word1 word2, y = { x with
        notices := offerNotice
          { time := x.shelfTime, source := 0
            index := match kind with
              | .powerOn => 0
              | .line => 1
              | .restart => 2
            code := 1, more := false, word1, word2 } x.notices } ∧
      (∀ t < 16, word1.testBit t = true ↔ t < 13 ∧ vget x.loads t = .loaded) ∧
      (∀ t < 13, word2.testBit t = true ↔ vget x.loads t = .bad) ∧
      (x.level ≤ 3 → word2 / 8192 % 4 = x.level ∧ (word2.testBit 15 = true ↔ x.ambient.svc = true))

/-! ### Requests that act on the shelf -/

/-- CLEAR-TRAY is decided by the tests of R101; a clear takes the tray to OFF with nothing awaited, places its
OUTPUT-OFF, and touches no other tray. -/
def Obligations.ClearTrayDecided : Prop :=
  (∀ (e : Ambient) (tray : Byte) (s : State), Calm s →
    let h := heard e s
    let t := tray.toNat
    let refused := fun st => exec (.clearTray e tray) s = .next (answered rqClearTray st [] h)
    (23 < t → refused stInvalid) ∧
    (t ≤ 23 → trayAt h.toShelf t = none → refused stNoEntry) ∧
    (t ≤ 23 → (trayAt h.toShelf t).isSome → trayState s.toShelf t ≠ .fault → refused stInvalid) ∧
    (t ≤ 23 → (trayAt h.toShelf t).isSome → trayState s.toShelf t = .fault →
      exec (.clearTray e tray) s =
        .next (closing (told rqClearTray stDone [] (onShelf (clearTray t) h))))) ∧
  ∀ (t : Nat) (x : Shelf), t < 24 →
    let y := clearTray t x
    (vget y.bay.trays t).state = .off ∧ (vget y.bay.trays t).fault = none ∧
      (vget y.bay.trays t).awaited = .nothing ∧
      (∀ u ≠ t, vget y.bay.trays u = vget x.bay.trays u) ∧
      (∀ entry, trayAt x t = some entry → rosterIs x entry.roster .tray t = true →
        x.engTp.enabled = true → isPlaced y (.tray t) codeOutputOff = true) ∧
      y.ride = x.ride ∧ y.seq = x.seq ∧ y.zones = x.zones ∧ y.balance = x.balance ∧
      y.tables = x.tables ∧ y.psms = x.psms ∧ y.bbms = x.bbms ∧ y.signals = x.signals

/-- RUN-PROGRAM and ABORT-PROGRAM are decided by the tests of R117 and R118, in order. A run starts with its
record set and enters its entry step; an abort withdraws the trays queued by PROGRAM in queue order, and
then halts. -/
def Obligations.ProgramRequestsDecided : Prop :=
  (∀ (e : Ambient) (step : Byte) (s : State), Calm s →
    let h := heard e s
    let n := step.toNat
    let refused := fun st => exec (.runProgram e step) s = .next (answered rqRunProgram st [] h)
    (31 < n → refused stInvalid) ∧
    (n ≤ 31 →
      (s.ride.state ≠ .normal → refused stRide) ∧
      (s.ride.state = .normal →
        (s.seq.state ≠ .idle → refused stBusy) ∧
        (s.seq.state = .idle →
          (s.shelfStop = true → refused stBusy) ∧
          (s.shelfStop = false →
            (stepAt h.toShelf n = none → refused stNoEntry) ∧
            ((stepAt h.toShelf n).isSome →
              exec (.runProgram e step) s =
                .next (closing (told rqRunProgram stStarted []
                  (onShelf
                    (fun x => emit (.seqEnter n)
                      { x with
                        seq := { x.seq with
                          state := .running, entry := some n, origin := some .request
                          runCount := 0, stepsTaken := 0, outcome := none, autostart := none } })
                    h))))))))) ∧
  ∀ (e : Ambient) (s : State), Calm s →
    (s.seq.state = .idle →
      exec (.abortProgram e) s = .next (answered rqAbortProgram stInvalid [] (heard e s))) ∧
    (s.seq.state ≠ .idle →
      let trays := s.bay.queue.filter fun t => (vget s.bay.trays t).queuedBy = some .program
      exec (.abortProgram e) s =
        .next (closing (told rqAbortProgram stDone []
          (onShelf
            (fun x => emitAll
              (trays.map Task.withdraw ++ [.seqHalt .abort (s.seq.pointer.getD 0) trays.length]) x)
            (heard e s)))))

/-- PORT-ENABLE and PORT-DISABLE are refused and carried out as R152 and R153 state: an enabled port runs on its entry's
settings from an idle start, with no miss counted on it; a disabled one holds no order and no transaction, each
order's placer is told PORT-OFF, each relayed order is answered PORT-OFF, and its modules become ABSENT. That the
port is DISABLED before those outcomes are acted on, and that its modules become ABSENT in ascending Roster order,
are the model's (log entries 23 and 60). A port's modules are the in-use Roster entries that name it. -/
def Obligations.PortRequestsDecided : Prop :=
  (∀ (e : Ambient) (s : State), Calm s →
    let h := heard e s
    (∀ p : Byte, p.toNat = 0 ∨ 2 < p.toNat →
      exec (.portEnable e p) s = .next (answered rqPortEnable stInvalid [] h) ∧
        exec (.portDisable e p) s = .next (answered rqPortDisable stInvalid [] h)) ∧
    ∀ p : Port, p ≠ .up →
      let n := BitVec.ofNat 8 (portNumber p)
      ((engine s.toShelf p).enabled = true →
        exec (.portEnable e n) s = .next (answered rqPortEnable stInvalid [] h) ∧
          exec (.portDisable e n) s =
            .next (closing (told rqPortDisable stDone [] (onShelf (disablePort p) h)))) ∧
      ((engine s.toShelf p).enabled = false →
        exec (.portEnable e n) s =
            .next (answered rqPortEnable stDone [] (onShelf (enablePort p) h)) ∧
          exec (.portDisable e n) s = .next (answered rqPortDisable stDone [] h))) ∧
  (∀ (p : Port) (x : Shelf), (modulesOn x p).Pairwise (· < ·) ∧
    ∀ r, r ∈ modulesOn x p ↔ r < 48 ∧ ∃ m, rosterAt x r = some m ∧ m.port = p) ∧
  ∀ (p : Port) (x : Shelf), p ≠ .up →
    (engine (enablePort p x) p = { engine x p with
        enabled := true, settings := portEntry x p, assembling := none, rx := []
        buffer := none, shifter := none } ∧
      pollEngine (enablePort p x) p = { pollEngine x p with
        position := 31, pass := 7, nonPollRun := 0, emptyTimer := .stopped } ∧
      (∀ r < 48, vget (enablePort p x).modules r =
        if r ∈ modulesOn x p then { vget x.modules r with misses := 0 } else vget x.modules r) ∧
      enablePort p x = { x with
        engSp := (enablePort p x).engSp, engTp := (enablePort p x).engTp
        pollSp := (enablePort p x).pollSp, pollTp := (enablePort p x).pollTp
        modules := (enablePort p x).modules }) ∧
    let y := disablePort p x
    (engine y p).enabled = false ∧ (engine y p).rx = [] ∧ (engine y p).buffer = none ∧
      (engine y p).shifter = none ∧ (engine y p).assembling = none ∧
      (pollEngine y p).inFlight = none ∧ (pollEngine y p).inProgress = none ∧
      (pollEngine y p).control = [] ∧ (pollEngine y p).command = [] ∧
      (pollEngine y p).emptyTimer = .stopped ∧
      (let pe := pollEngine x p
      let flight := (pe.inFlight.toList.filter fun tx => tx.kind = .command ∧ tx.discarded = false).map
        fun tx => (tx.address, tx.code.getD 0)
      let refused := (flight ++ pe.command.map fun o => (o.address, o.code)).foldl
        (fun z o => answerOrder o.1 o.2 0x84 z) x
      y.raised = x.raised ++
        (pe.inProgress.toList.flatMap fun g => outcomeTasks g.order .portOff) ++
        (pe.control.flatMap fun o => outcomeTasks o .portOff) ++
        ((modulesOn x p).filter fun r => (vget x.modules r).presence ≠ .absent).map
          (fun r => Task.moduleAbsent r false) ∧
      y.replies = refused.replies ∧ y.replyWait = refused.replyWait) ∧
      y = { x with
        engSp := y.engSp, engTp := y.engTp, pollSp := y.pollSp, pollTp := y.pollTp
        raised := y.raised, replies := y.replies, replyWait := y.replyWait }

/-! ### Orders of the rack manager -/

/-- The Guard decides an ORDER by the tests of R150, in order, and by the action of its table (R151). The module of an
address is the in-use Roster entry that has it, the action that of the in-use Guard entry with the code and the kind,
and the PSM of a Roster entry the in-use one whose parameters name it; R139, R151 and R43 leave at most one of each,
and were there more the lowest would be found. A relayed order joins its port's command queue, or is answered PORT-OFF
or BUSY (R148). That OUTPUT-ON and OUTPUT-OFF go to the Trays entry of the Roster entry's kind index, whatever Roster
entry that one names, is log entry 61. -/
def Obligations.OrdersDecided : Prop :=
  (∀ x : Shelf,
    (∀ a r m, moduleAt x a = some (r, m) ↔
      (r < 48 ∧ rosterAt x r = some m ∧ m.address = a ∧
        ∀ u < r, ∀ g, rosterAt x u = some g → g.address ≠ a)) ∧
    (∀ a, moduleAt x a = none ↔ ∀ r < 48, ∀ m, rosterAt x r = some m → m.address ≠ a) ∧
    (∀ c kind action, guardAction x c kind = some action ↔
      ∃ i < 32, guardAt x i = some ⟨c, kind, action⟩ ∧
        ∀ u < i, ∀ g, guardAt x u = some g → ¬(g.code = c ∧ g.kind = kind)) ∧
    (∀ c kind, guardAction x c kind = none ↔
      ∀ i < 32, ∀ g, guardAt x i = some g → ¬(g.code = c ∧ g.kind = kind)) ∧
    (∀ r j, psmOf x r = some j ↔
      (j < 6 ∧ (∃ g, psmAt x j = some g ∧ g.roster = r) ∧
        ∀ u < j, ∀ g, psmAt x u = some g → g.roster ≠ r)) ∧
    ∀ r, psmOf x r = none ↔ ∀ j < 6, ∀ g, psmAt x j = some g → g.roster ≠ r) ∧
  (∀ (e : Ambient) (a c : Byte) (v : BitVec 16) (s : State), Ready s → 1 ≤ a.toNat → a.toNat ≤ 62 →
    exec (.order e a c v) s = .next (closing (onShelf (decideOrder a c v.toNat) (heard e s)))) ∧
  (∀ (a c : Byte) (v : Nat) (x : Shelf),
    (moduleAt x a.toNat = none → decideOrder a c v x = answerOrder a c 0x82 x) ∧
    ∀ r m, moduleAt x a.toNat = some (r, m) →
      let builtin : Bool := (m.kind = .tray && (c = 0x01 || c = 0x02)) ||
        (m.kind = .bbm && (c = 0x10 || c = 0x11 || c = 0x12))
      let relayed := relayOrder r m.port a c v x
      (m.kind = .tray → c = 0x01 → decideOrder a c v x = interceptOn a m.index x) ∧
      (m.kind = .tray → c = 0x02 → decideOrder a c v x = interceptOff a m.index x) ∧
      (m.kind = .bbm → c = 0x10 ∨ c = 0x11 ∨ c = 0x12 →
        decideOrder a c v x = answerOrder a c 0x85 x) ∧
      (builtin = false →
        (guardAction x c m.kind = none → decideOrder a c v x = relayed) ∧
        (guardAction x c m.kind = some .pass → decideOrder a c v x = relayed) ∧
        (guardAction x c m.kind = some .deny → decideOrder a c v x = answerOrder a c 0x85 x) ∧
        (guardAction x c m.kind = some .rideBlock →
          decideOrder a c v x =
            if x.ride.state = .normal then relayed else answerOrder a c 0x86 x) ∧
        (guardAction x c m.kind = some .supplyCheck →
          decideOrder a c v x =
            if (∃ j, psmOf x r = some j ∧ 0 < vget x.balance.g j ∧ trialHeadroom x j < 0) then
              answerOrder a c 0x89 x
            else relayed))) ∧
  ∀ (r v : Nat) (p : Port) (a c : Byte) (x : Shelf), p ≠ .up →
    ((engine x p).enabled = false → relayOrder r p a c v x = answerOrder a c 0x84 x) ∧
    ((engine x p).enabled = true → 4 ≤ (pollEngine x p).command.length →
      relayOrder r p a c v x = answerOrder a c 0x81 x) ∧
    ((engine x p).enabled = true → (pollEngine x p).command.length < 4 →
      relayOrder r p a c v x =
        setPoll p { pollEngine x p with
          command := (pollEngine x p).command ++ [⟨r, a, c, v⟩] } x)

/-- An OUTPUT-ON to an in-use tray is answered by the first test of R102 that holds and queues an OFF tray
alone; an OUTPUT-OFF is answered OK and takes each state where R103 says, with an OUTPUT-OFF ordered where
a STARTING or ON tray is stopped. No other tray changes. -/
def Obligations.TrayOrdersAnswered : Prop :=
  ∀ (a : Byte) (t : Nat) (x : Shelf), t < 24 →
    (trayAt x t = none →
      interceptOn a t x = answerOrder a 0x01 0x82 x ∧
        interceptOff a t x = answerOrder a 0x02 0x82 x) ∧
    ((trayAt x t).isSome →
      let st := trayState x t
      let busy := answerOrder a 0x01
      (st = .locked → interceptOn a t x = busy 0x87 x) ∧
      (st = .fault → interceptOn a t x = busy 0x88 x) ∧
      (st ≠ .locked → st ≠ .fault →
        (x.shelfStop = true → interceptOn a t x = busy 0x85 x) ∧
        (x.shelfStop = false →
          (st = .unknown ∨ st = .stopping → interceptOn a t x = busy 0x81 x) ∧
          (st = .queued ∨ st = .starting ∨ st = .on → interceptOn a t x = busy 0x00 x) ∧
          (st = .shedding ∨ st = .shed → interceptOn a t x = busy 0x86 x) ∧
          (st = .off → x.ride.state ≠ .normal → interceptOn a t x = busy 0x86 x) ∧
          (st = .off → x.ride.state = .normal →
            interceptOn a t x = requestAdmission t .manager (busy 0x80 x) ∧
            trayState (interceptOn a t x) t = .queued ∧
            (vget (interceptOn a t x).bay.trays t).queuedBy = some .manager ∧
            (interceptOn a t x).bay.queue =
              if t ∈ x.bay.queue then x.bay.queue else x.bay.queue ++ [t]))) ∧
      (st = .queued → interceptOff a t x = withdrawTray t (answerOrder a 0x02 0x00 x)) ∧
      (st = .starting ∨ st = .on ∨ st = .shedding →
        interceptOff a t x = stopTray t (answerOrder a 0x02 0x00 x)) ∧
      (st = .shed → interceptOff a t x = trayTo t .off id (answerOrder a 0x02 0x00 x)) ∧
      (st = .unknown ∨ st = .off ∨ st = .stopping ∨ st = .locked ∨ st = .fault →
        interceptOff a t x = answerOrder a 0x02 0x00 x) ∧
      (st = .starting ∨ st = .on → ∀ entry, trayAt x t = some entry →
        rosterIs x entry.roster .tray t = true → x.engTp.enabled = true →
        isPlaced (interceptOff a t x) (.tray t) 0x02 = true) ∧
      (st = .shedding → (interceptOff a t x).pollTp = x.pollTp) ∧
      trayState (interceptOff a t x) t =
        (match st with
        | .queued | .shed => .off
        | .starting | .on | .shedding => .stopping
        | _ => st) ∧
      ∀ u ≠ t, vget (interceptOn a t x).bay.trays u = vget x.bay.trays u ∧
        vget (interceptOff a t x).bay.trays u = vget x.bay.trays u)

/-! ### Frames and transmitters -/

/-- A start character starts an assembly; a whole frame is delivered: on UP as its own row is, on a downstream port
to the Poll Engine. Damage and a passed gap limit are counted, and UP's mark is taken at once. A downstream
port that has been SENDING since an earlier time hears no character, whenever the frame began, and while
HUNTING no frame ends (R156, R159, R161, R165). The gap limit is the port's character times, each the bits of a
character at the divisor's cycles of the 40 MHz link clock (R156, R158, R159); a character that comes after a longer
gap ends no frame, since the limit has damaged that frame before, and GAP_LIMIT_EXPIRY before the limit has passed
since the last character only lets time pass, the model's choice (log entries 6 and 8). That a frame's characters come with one command is the model's
choice (log entry 8), and so is that a character which ends at the time at which sending begins is heard (log
entry 9). -/
def Obligations.FramesTaken : Prop :=
  (∀ (x : Shelf) (p : Port),
    hears x p = true ↔ (engine x p).enabled = true ∧
      (p = .up ∨ (engine x p).shifter = none ∨ (engine x p).began = x.shelfTime)) ∧
  (∀ g : PortSettings,
    let bits := 1 + 8 + (if g.parity = .none then 0 else 1) + g.stopBits
    gapCycles g = g.gapLimit * bits * ((g.d + 1) * 16 + g.f)) ∧
  (∀ (x : Shelf) (p : Port) (cs : List RxChar),
    let g := (engine x p).settings
    let heard := hears x p = true ∧ (engine x p).assembling.isSome ∧ ∀ c ∈ cs, c.gap ≤ gapCycles g
    (heard → heardCharacters x p cs = some (cs.map fun c => readCharacter g c.levels)) ∧
      (¬heard → heardCharacters x p cs = none)) ∧
  (∀ cs : List Character,
    damagedAtEnd cs = true ↔ assemble cs = .damaged ∧ assemble cs.dropLast = .more) ∧
  (∀ (e : Ambient) (p : Port) (cs : List RxChar) (s : State), Still s →
    heardCharacters (opening e s).toShelf p cs = none →
    exec (.frameReceived e p cs) s = .next (settled id (opening e s)) ∧
      exec (.frameDamaged e p cs) s = .next (settled id (opening e s))) ∧
  (∀ (e : Ambient) (p : Port) (s : State), Still s →
    ((engine s.toShelf p).enabled = false ∨
      (∀ t, (engine s.toShelf p).assembling = some t →
        (s.shelfTime + e.elapsed - t).toNat < e.lineQuiet.toNat) ∨
      40 * e.lineQuiet.toNat < gapCycles (engine s.toShelf p).settings) →
    exec (.gapLimitExpiry e p) s = .next (settled id (opening e s))) ∧
  (∀ (e : Ambient) (p : Port) (s : State), Still s → hears (opening e s).toShelf p = true →
    (engine s.toShelf p).assembling = none →
    exec (.startCharacterReceived e p) s =
      .next (settled
        (editEngine p fun g => { g with assembling := some (s.shelfTime + e.elapsed) })
        (opening e s))) ∧
  (∀ (e : Ambient) (p : Port) (cs : List RxChar) (s : State), Still s → p ≠ .up →
    (engine s.toShelf p).shifter.isSome →
    (engine s.toShelf p).began ≠ s.shelfTime + e.elapsed →
    exec (.startCharacterReceived e p) s = .next (settled id (opening e s)) ∧
      exec (.frameReceived e p cs) s = .next (settled id (opening e s)) ∧
      exec (.frameDamaged e p cs) s = .next (settled id (opening e s))) ∧
  (∀ (e : Ambient) (p : Port) (cs : List RxChar) (s : State), Still s →
    (engine s.toShelf p).assembling = none →
    exec (.frameReceived e p cs) s = .next (settled id (opening e s)) ∧
      exec (.frameDamaged e p cs) s = .next (settled id (opening e s)) ∧
      exec (.gapLimitExpiry e p) s = .next (settled id (opening e s))) ∧
  (∀ (x : Shelf) (p : Port) (f : Frame), hears x p = true →
    (engine x p).assembling.isSome → PortLegal (engine x p).settings →
    heardCharacters x p (sentCharacters (engine x p).settings f) = some (frameReceived f)) ∧
  (∀ (e : Ambient) (f : Frame) (cs : List RxChar) (s : State), frameValid f = true →
    heardCharacters (opening e s).toShelf .up cs = some (frameReceived f) →
    exec (.frameReceived e .up cs) s = .next (closing (receiveUp f (opening e s)))) ∧
  (∀ (e : Ambient) (a c : Byte) (v : BitVec 16) (cs : List RxChar) (s : State),
    heardCharacters (opening e s).toShelf .up cs =
      some (frameReceived ⟨a, kindOrder, c :: be16 v.toNat⟩) →
    exec (.frameReceived e .up cs) s = exec (.order e a c v) s) ∧
  (∀ (e : Ambient) (p : Port) (f : Frame) (cs : List RxChar) (s : State), p ≠ .up →
    frameValid f = true →
    heardCharacters (opening e s).toShelf p cs = some (frameReceived f) →
    exec (.frameReceived e p cs) s =
      .next (closing (onShelf
        (fun x => judge p (.frame f) (editEngine p (fun g => { g with assembling := none }) x))
        (opening e s)))) ∧
  (∀ (e : Ambient) (p : Port) (cs : List RxChar) (chars : List Character) (s : State),
    heardCharacters (opening e s).toShelf p cs = some chars → damagedAtEnd chars = true →
    let counted := editEngine p fun g =>
      { g with damaged := satInc g.damaged, assembling := none }
    (p ≠ .up →
      exec (.frameDamaged e p cs) s =
        .next (closing (onShelf (fun x => judge p .damage (counted x)) (opening e s)))) ∧
    (p = .up → Calm s →
      exec (.frameDamaged e p cs) s = .next (settled counted (opening e s)))) ∧
  ∀ (e : Ambient) (p : Port) (s : State) (t : Time), (engine s.toShelf p).enabled = true →
    (engine s.toShelf p).assembling = some t →
    e.lineQuiet.toNat ≤ (s.shelfTime + e.elapsed - t).toNat →
    gapCycles (engine s.toShelf p).settings ≤ 40 * e.lineQuiet.toNat →
    let counted := editEngine p fun g =>
      { g with damaged := satInc g.damaged, assembling := none }
    (p ≠ .up →
      exec (.gapLimitExpiry e p) s =
        .next (closing (onShelf (fun x => judge p .damage (counted x)) (opening e s)))) ∧
    (p = .up → Calm s →
      exec (.gapLimitExpiry e p) s = .next (settled counted (opening e s)))

/-- A transmitter that finishes its last frame becomes IDLE, on a downstream port with the reply timer started; the UP
shifter that finishes a frame with another loaded takes it (R143, R162). The mark by which a pending restart knows
that its answer has been sent, which keeps UP's first clause from that transmit-end and is moved by the shifter's
clause, is the model's choice (log entry 30). The timers of a downstream port: an empty-pass timer that expires
stops and lets the arbiter choose, an expired reply timer ends its transaction failed, and a passed forward interval
makes the next report due for a copy (R142, R143, R145). A forward interval has passed where no copy was made yet,
or where the interval since the last copy is reached (R145). -/
def Obligations.TransmittersAndPortTimers : Prop :=
  (∀ x : Shelf,
    restartReady x = true ↔ x.restart = some true ∨
      (x.restart ≠ none ∧ ∃ f, x.engUp.shifter = some f ∧ f.restartDone = true)) ∧
  (∀ (entry : RosterEntry) (m : Module) (now : Time),
    forwardDue entry m now = true ↔ ∀ t, m.lastCopy = some t →
      reached now (t + BitVec.ofNat 32 (1000 * entry.interval)) = true) ∧
  (∀ (e : Ambient) (s : State), Still s → s.engUp.shifter.isSome → s.engUp.buffer = none →
    restartReady s.toShelf = false →
    exec (.transmitEnd e .up) s =
      .next (settled (editEngine .up fun g => { g with shifter := none }) (opening e s))) ∧
  (∀ (e : Ambient) (p : Port) (s : State), Still s → p ≠ .up →
    (engine s.toShelf p).shifter.isSome → (engine s.toShelf p).buffer = none →
    exec (.transmitEnd e p) s =
      .next (settled
        (fun x =>
          editPoll p
            (fun g => { g with
              inFlight := g.inFlight.map fun tx =>
                { tx with
                  timer := .running (s.shelfTime + e.elapsed +
                    BitVec.ofNat 32 (1000 * (engine s.toShelf p).settings.replyTimeout)) } })
            (editEngine p (fun g => { g with shifter := none }) x))
        (opening e s))) ∧
  (∀ (e : Ambient) (s : State) (f g : TxFrame), Still s → s.engUp.shifter = some f →
    s.engUp.buffer = some g →
    exec (.shifterFinishesFrame e) s =
      .next (settled
        (fun x => { x with
          engUp := { x.engUp with shifter := some g, buffer := none }
          restart := if f.restartDone then x.restart.map fun _ => true else x.restart })
        (opening e s))) ∧
  (∀ (e : Ambient) (p : Port) (s : State), Still s → p ≠ .up →
    expired (s.shelfTime + e.elapsed) (pollEngine s.toShelf p).emptyTimer = true →
    exec (.emptyPassTimerExpiry e p) s =
      .next (settled (editPoll p fun g => { g with emptyTimer := .stopped }) (opening e s))) ∧
  (∀ (e : Ambient) (p : Port) (s : State) (tx : Transaction), p ≠ .up →
    (pollEngine s.toShelf p).inFlight = some tx →
    expired (s.shelfTime + e.elapsed) tx.timer = true →
    exec (.replyTimerExpiry e p) s =
      .next (closing (onShelf (endFailed p tx) (opening e s)))) ∧
  ∀ (e : Ambient) (r : Fin 48) (s : State) (entry : RosterEntry) (t : Time), Still s →
    rosterAt s.toShelf r = some entry → (vget s.modules r).lastCopy = some t →
    reached (s.shelfTime + e.elapsed) (t + BitVec.ofNat 32 (1000 * entry.interval)) = true →
    exec (.forwardIntervalExpiry e r) s =
      .next (settled (editModule r fun m => { m with lastCopy := none }) (opening e s)) ∧
    forwardDue entry { vget s.modules r with lastCopy := none } (s.shelfTime + e.elapsed) = true

/-- The reply that a transaction awaits ends it, and damage in its place ends it failed, a malformed REPORT counted with
it; one whose module has left the Roster so ends with nothing else (R154); an order's third failed attempt ends it
NO-ANSWER, an earlier one leaves it in progress; any other frame, and any entry while no reply timer runs, is stray
and the transaction goes on. A failure is a miss for its target, and the third makes it ABSENT with a PORT-ERROR,
told to the owner of its kind and then to the Signal Screen (R139, R143, R144, R147, R148). An answered POLL makes
its module PRESENT, then hands the report on with its sample time, then offers its TELEMETRY copy where the forward
flag is set and the interval since the last copy has passed: the address, the time and the first 18 pairs, the
oldest copy discarded and counted where the queue is full (R144, R145, R167). An absence with no miss posts no
PORT-ERROR (R140, R153, R154). That PORT-ERROR stands ahead of the owner's notices, that the owner's change comes
before the Signal Screen's, and the number 0 of the reason ABSENT are the model's (log entries 63, 43 and 25). That
damage outside a transaction counts as stray, and that a malformed REPORT ends it whichever its address, is the
model's reading (log entry 15). A REPORT is whole where its payload is a whole number of three-byte pairs, at most
20 of them, a field id and a value each. -/
def Obligations.RepliesJudged : Prop :=
  (∀ payload : List Byte, reportWhole payload = true ↔ payload.length % 3 = 0 ∧ payload.length ≤ 60) ∧
  (∀ (a b c : Byte) (rest : List Byte),
    reportPairs (a :: b :: c :: rest) = (a.toNat, 256 * b.toNat + c.toNat) :: reportPairs rest ∧
      reportPairs [] = []) ∧
  (∀ (p : Port) (x : Shelf), p ≠ .up →
    let stray := editEngine p (fun g => { g with stray := satInc g.stray }) x
    ((pollEngine x p).inFlight = none → ∀ entry, judge p entry x = stray) ∧
    (∀ tx, (pollEngine x p).inFlight = some tx → tx.timer = .stopped →
      ∀ entry, judge p entry x = stray) ∧
    (∀ tx expiry, (pollEngine x p).inFlight = some tx → tx.timer = .running expiry →
      tx.discarded = true →
      let ended := setPoll p { pollEngine x p with inFlight := none } x
      judge p .damage x = ended ∧ endFailed p tx x = ended ∧
        ∀ f, f.address = tx.address → (if tx.kind = .poll then
            f.kind = kindReport ∧ f.payload.length % 3 = 0 ∧ f.payload.length ≤ 60
          else f.kind = kindOrderAck ∧ f.payload.length = 2 ∧ f.payload.head? = tx.code) →
          judge p (.frame f) x = ended) ∧
    ∀ tx expiry, (pollEngine x p).inFlight = some tx → tx.timer = .running expiry →
      tx.discarded = false → tx.roster < 48 →
      let ended := setPoll p { pollEngine x p with inFlight := none } x
      let malformed := fun f : Frame => f.kind = kindReport ∧
        (f.payload.length % 3 ≠ 0 ∨ 60 < f.payload.length)
      (∀ f, malformed f →
        judge p (.frame f) x =
          endFailed p tx (editEngine p (fun g => { g with damaged := satInc g.damaged }) x)) ∧
      (∀ f, ¬malformed f →
        ¬(f.address = tx.address ∧ if tx.kind = .poll then f.kind = kindReport
          else f.kind = kindOrderAck ∧ f.payload.length = 2 ∧ f.payload.head? = tx.code) →
        judge p (.frame f) x = stray) ∧
      judge p .damage x = endFailed p tx x ∧
      (tx.kind = .poll → endFailed p tx x = countMiss tx.roster ended) ∧
      (tx.kind = .poll → ∀ payload, reportWhole payload = true →
        let y := judge p (.frame ⟨tx.address, kindReport, payload⟩) x
        (pollEngine y p).inFlight = none ∧ (vget y.modules tx.roster).presence = .present ∧
          (vget y.modules tx.roster).misses = 0 ∧
          y = copyReport tx.roster payload
            (takeReport tx.roster (reportPairs payload) x.shelfTime
              (editModule tx.roster (fun m => { m with presence := .present, misses := 0 }) ended))) ∧
      (tx.kind = .command → ∀ code st, tx.code = some code →
        judge p (.frame ⟨tx.address, kindOrderAck, [code, st]⟩) x =
          answerOrder tx.address code st
            (editModule tx.roster (fun m => { m with misses := 0 }) ended)) ∧
      (tx.kind = .command → ∀ code, tx.code = some code →
        endFailed p tx x = countMiss tx.roster (answerOrder tx.address code 0x83 ended)) ∧
      (tx.kind = .control → ∀ code st pr, tx.code = some code →
        (pollEngine x p).inProgress = some pr →
        judge p (.frame ⟨tx.address, kindOrderAck, [code, st]⟩) x =
          emitAll (outcomeTasks pr.order (.ack st))
            (setPoll p { pollEngine x p with inFlight := none, inProgress := none }
              (editModule tx.roster (fun m => { m with misses := 0 }) ended))) ∧
      (tx.kind = .control → ∀ pr, (pollEngine x p).inProgress = some pr →
        (pr.attempt < 3 → endFailed p tx x = countMiss tx.roster ended) ∧
        (3 ≤ pr.attempt →
          endFailed p tx x =
            countMiss tx.roster (emitAll (outcomeTasks pr.order .noAnswer)
              (setPoll p { pollEngine x p with inFlight := none, inProgress := none } ended))))) ∧
  (∀ (x : Shelf) (r : Nat) (payload : List Byte), r < 48 →
    (rosterAt x r = none → copyReport r payload x = x) ∧
    ∀ entry, rosterAt x r = some entry →
      let due := entry.forward = true ∧
        ∀ t, (vget x.modules r).lastCopy = some t →
          reached x.shelfTime (t + BitVec.ofNat 32 (1000 * entry.interval)) = true
      let copy : Frame :=
        { address := 0, kind := kindTelemetry
          payload := BitVec.ofNat 8 entry.address :: beTime x.shelfTime ++ payload.take 54 }
      let kept := { x with
        modules := vset x.modules r { vget x.modules r with lastCopy := some x.shelfTime } }
      (¬due → copyReport r payload x = x) ∧
      (due → x.telemetry.length < 8 →
        copyReport r payload x = { kept with telemetry := x.telemetry ++ [copy] }) ∧
      (due → 8 ≤ x.telemetry.length →
        copyReport r payload x = { kept with
          telemetry := x.telemetry.tail ++ [copy]
          telemetryDrops := min (x.telemetryDrops + 1) 65535 })) ∧
  ∀ (x : Shelf) (r : Nat), r < 48 →
    ((vget x.modules r).misses < 2 →
      countMiss r x = { x with
        modules := vmod x.modules r fun m => { m with misses := m.misses + 1 } }) ∧
    (2 ≤ (vget x.modules r).misses →
      countMiss r x = { x with
        modules := vmod x.modules r fun m => { m with misses := 0 }
        raised := x.raised ++ [.moduleAbsent r true] }) ∧
    (rosterAt x r = none → ∀ missed, moduleAbsent r missed x = x) ∧
    ∀ (entry : RosterEntry) (missed : Bool),
      let y := moduleAbsentAs entry r missed x
      (rosterAt x r = some entry → moduleAbsent r missed x = y) ∧
      ((vget x.modules r).presence = .absent →
        y = { x with modules := vmod x.modules r fun m => { m with misses := 0 } }) ∧
      ((vget x.modules r).presence ≠ .absent →
        let gone := { x with
          modules := vmod x.modules r fun m => { m with presence := .absent, misses := 0 }
          notices :=
            if missed then
              offerNotice
                { time := x.shelfTime, source := 9, index := portNumber entry.port, code := 14
                  more := false, word1 := r % 256, word2 := entry.address } x.notices
            else x.notices }
        let told := fun z : Shelf => y = { z with raised := z.raised ++ [.signalsStale r] }
        let i := entry.index
        (entry.kind = .psm → told
          (if (psmAt x i).map (·.roster) = some r then psmAbsent i gone else gone)) ∧
        (entry.kind = .bbm → told
          (if (bbmAt x i).map (·.roster) = some r then bbmAbsent i gone else gone)) ∧
        (entry.kind = .tray → told
          (if (trayAt x i).map (·.roster) = some r then trayAbsent i gone else gone)) ∧
        (entry.kind = .leakNode → told gone))

/-- The circular search takes the first due position after the poll position: one whose module is not ABSENT,
or any in pass 0; the pass number goes up as the search passes from 31 to 0 (R142). A poll is available while
the empty-pass timer does not run and some in-use position names an in-use module of the port; a search that
finds none due starts that timer for one reply timeout, and with no poll available nothing changes (R142; that
the pass number stays then is log entry 33). A downstream port that is ENABLED with nothing in flight and an
idle transmitter takes the first source that has something: a poll after three other transactions, the next
attempt of the order in progress, the head of the control queue, the head of the command queue, a poll (R146).
An order is placed where it waits in the control queue or is the order in progress (R147).
The transaction begins with its frame in the shifter, and its run of other transactions is counted; the time
at which the shifter took it is a field of the model's own (R143, R146, R147, R148; log entry 9). -/
def Obligations.PollSearchFindsTheNextDue : Prop :=
  (∀ (x : Shelf) (p : Port) (position pass : Nat), position < 32 → pass < 8 →
    let passAt := fun k => if 32 ≤ position + k then (pass + 1) % 8 else pass
    let due := fun k => ∃ r, pollTarget x p ((position + k) % 32) = some r ∧
      ((vget x.modules r).presence ≠ .absent ∨ passAt k = 0)
    match pollSearch x p 32 position pass with
    | (some (i, r), after) =>
      ∃ k, 1 ≤ k ∧ k ≤ 32 ∧ i = (position + k) % 32 ∧ pollTarget x p i = some r ∧ due k ∧
        after = passAt k ∧ ∀ j, 1 ≤ j → j < k → ¬due j
    | (none, after) => after = passAt 32 ∧ ∀ j, 1 ≤ j → j ≤ 32 → ¬due j) ∧
  (∀ (x : Shelf) (n : Nat) (code : Byte),
    let placed := fun (pe : PollEngine) (target : Target) =>
      (∃ o ∈ pe.control, o.target = target ∧ o.code = code) ∨
        ∃ g, pe.inProgress = some g ∧ g.order.target = target ∧ g.order.code = code
    (isPlaced x (.tray n) code = true ↔ placed x.pollTp (.tray n)) ∧
      (isPlaced x (.bbm n) code = true ↔ placed x.pollSp (.bbm n))) ∧
  (∀ (x : Shelf) (p : Port) (i r : Nat),
    pollTarget x p i = some r ↔
      pollAt x p i = some r ∧ ∃ m, rosterAt x r = some m ∧ m.port = p) ∧
  ∀ (x : Shelf) (p : Port), p ≠ .up →
    let pe := pollEngine x p
    let listed := ∃ i < 32, ∃ r m, pollAt x p i = some r ∧ rosterAt x r = some m ∧ m.port = p
    let begins := fun (y : Shelf) (tx : Transaction) (f : Frame) (z : Shelf) =>
      z = setPoll p { pollEngine y p with
          inFlight := some tx
          nonPollRun := if tx.kind = .poll then 0 else min ((pollEngine y p).nonPollRun + 1) 3 }
        (setEngine p { engine y p with shifter := some ⟨f, false⟩, began := x.shelfTime } y)
    let polls := fun (y : Shelf) (z : Shelf) => ∃ i r m pass,
      pollSearch y p 32 pe.position pe.pass = (some (i, r), pass) ∧ rosterAt y r = some m ∧
      let address := BitVec.ofNat 8 m.address
      begins (setPoll p { pollEngine y p with position := i, pass := pass } y)
        { kind := .poll, roster := r, address, code := none, attempt := none, timer := .stopped
          discarded := false }
        { address, kind := kindPoll, payload := [] } z
    let orders := fun (kind : TxKind) (r : Nat) (a c : Byte) (argument : Nat)
        (attempt : Option Nat) (y z : Shelf) =>
      begins y
        { kind, roster := r, address := a, code := some c, attempt, timer := .stopped
          discarded := false }
        { address := a, kind := kindOrder, payload := c :: be16 argument } z
    (isRunning pe.emptyTimer = true ∨ ¬listed → tryPoll p x = (false, x)) ∧
    (isRunning pe.emptyTimer = false → listed →
      (∀ pass, pollSearch x p 32 pe.position pe.pass = (none, pass) →
        tryPoll p x = (false, setPoll p { pe with
          pass := pass
          emptyTimer := .running (x.shelfTime +
            BitVec.ofNat 32 (1000 * (engine x p).settings.replyTimeout)) } x)) ∧
      ((pollSearch x p 32 pe.position pe.pass).1 ≠ none →
        (tryPoll p x).1 = true ∧ polls x (tryPoll p x).2)) ∧
    let idle := (engine x p).enabled = true ∧ pe.inFlight = none ∧ (engine x p).buffer = none ∧
      (engine x p).shifter = none
    let y := if pe.nonPollRun = 3 then (tryPoll p x).2 else x
    (¬idle → arbitrate p x = x) ∧
    (idle → pe.nonPollRun = 3 → (tryPoll p x).1 = true → arbitrate p x = (tryPoll p x).2) ∧
    (idle → pe.nonPollRun ≠ 3 ∨ (tryPoll p x).1 = false →
      (∀ g, pe.inProgress = some g →
        orders .control g.order.roster g.order.address g.order.code g.order.argument
          (some (g.attempt + 1))
          (setPoll p { pollEngine y p with
            inProgress := some { g with attempt := g.attempt + 1 } } y) (arbitrate p x)) ∧
      (pe.inProgress = none →
        (∀ o rest, pe.control = o :: rest →
          orders .control o.roster o.address o.code o.argument (some 1)
            (setPoll p { pollEngine y p with control := rest, inProgress := some ⟨o, 1⟩ } y)
            (arbitrate p x)) ∧
        (pe.control = [] →
          (∀ o rest, pe.command = o :: rest →
            orders .command o.roster o.address o.code o.argument none
              (setPoll p { pollEngine y p with command := rest } y) (arbitrate p x)) ∧
          (pe.command = [] → arbitrate p x = (tryPoll p y).2))))

/-- The Router removes a damage mark and counts nothing further, and discards and counts a stray frame (R164, R165). The
upstream arbiter takes a waiting TELEMETRY copy after four other frames, and otherwise REPLY before NOTICE before
TELEMETRY; a full Notice Queue discards the arriving notice and sets MORE on the newest (R167, R168). What is taken
goes to the EMPTY buffer, and to the shifter where that is IDLE (R162). A reply joins the REPLY queue where it has a
place and no reply waits, and otherwise the reply wait (R149, R165). An entry that arrives on UP is taken at once
where none stands before it, no reply waits and no restart is pending; otherwise it waits, and the Router takes the
head, with all that follows from it, once both are so (R161, R165, R170). At a full receive queue an arriving entry
is discarded and counted, and where the OVERRUN mark was clear it is set and PORT-ERROR is posted (R161). The number
of the reason OVERRUN, and where in an event the arbiter and the Router act, are the model's (log entries 25 and
13). A counter that goes up stops at 65,535, and the frame that answers an ORDER is an ORDER-ACK of its code and a
status (R149). -/
def Obligations.UpstreamLinkServed : Prop :=
  (∀ (e : Ambient) (s : State), Quiet s.toShelf → s.engUp.rx = [.damage] → s.replyWait = [] →
    s.restart = none →
    exec (.upDamageMarkTaken e) s =
      .next (settled (editEngine .up fun g => { g with rx := [] }) (opening e s))) ∧
  (∀ (e : Ambient) (f : Frame) (s : State), Calm s → frameValid f = true →
    (f.kind = kindOrder ∧ f.payload.length ≠ 3 ∨ f.kind = kindRequest ∧ f.payload = [] ∨
      f.kind ≠ kindOrder ∧ f.kind ≠ kindRequest ∨ f.kind = kindRequest ∧ f.address ≠ 0 ∨
      f.kind = kindOrder ∧ (f.address = 0 ∨ 62 < f.address.toNat)) →
    exec (.upStrayFrame e f) s =
      .next (settled (editEngine .up fun g => { g with stray := satInc g.stray }) (heard e s))) ∧
  (∀ x : Shelf,
    (∀ f rest, x.telemetryRun = 4 → x.telemetry = f :: rest →
      chooseUp x = some (⟨f, false⟩, { x with telemetry := rest, telemetryRun := 0 })) ∧
    (x.telemetryRun ≠ 4 ∨ x.telemetry = [] →
      (∀ r rest, x.replies = r :: rest →
        chooseUp x = some (r, { x with
          replies := rest ++ x.replyWait.take 1, replyWait := x.replyWait.drop 1
          telemetryRun := min (x.telemetryRun + 1) 4 })) ∧
      (∀ n rest, x.replies = [] → x.notices = n :: rest →
        chooseUp x = some (⟨noticeFrame n, false⟩, { x with
          notices := rest, telemetryRun := min (x.telemetryRun + 1) 4 })) ∧
      (∀ f rest, x.replies = [] → x.notices = [] → x.telemetry = f :: rest →
        chooseUp x = some (⟨f, false⟩, { x with telemetry := rest, telemetryRun := 0 })) ∧
      (x.replies = [] → x.notices = [] → x.telemetry = [] → chooseUp x = none))) ∧
  (∀ n : Nat, satInc n = min (n + 1) 65535) ∧
  (∀ (x : Shelf) (address code status : Byte),
    answerOrder address code status x = placeReply
      { frame := { address, kind := kindOrderAck, payload := [code, status] }, restartDone := false }
      x) ∧
  (∀ (n : Notice) (q : List Notice),
    (q.length < 32 → offerNotice n q = q ++ [n]) ∧
      ∀ front newest, q = front ++ [newest] → 32 ≤ q.length →
        offerNotice n q = front ++ [{ newest with more := true }]) ∧
  (∀ (x : Shelf) (f : TxFrame),
    (x.replies.length < 4 → x.replyWait = [] →
      placeReply f x = { x with replies := x.replies ++ [f] }) ∧
    (4 ≤ x.replies.length ∨ x.replyWait ≠ [] →
      placeReply f x = { x with replyWait := x.replyWait ++ [f] })) ∧
  (∀ x : Shelf,
    (x.engUp.enabled = false ∨ x.engUp.buffer ≠ none ∨ chooseUp x = none → arbitrateUp x = x) ∧
    (x.engUp.enabled = true → x.engUp.buffer = none → ∀ f z, chooseUp x = some (f, z) →
      arbitrateUp x = { z with
        engUp := { x.engUp with
          shifter := if x.engUp.shifter = none then some f else x.engUp.shifter
          buffer := if x.engUp.shifter = none then none else some f } })) ∧
  (∀ (x : Shelf) (entry : RxEntry),
    let y := offerUp entry x
    let count := min (x.engUp.overruns + 1) 65535
    let counted := { x with engUp := { x.engUp with overruns := count, overrun := true } }
    (x.engUp.rx.length < 2 →
      y = { x with engUp := { x.engUp with rx := x.engUp.rx ++ [entry] } }) ∧
    (2 ≤ x.engUp.rx.length →
      (x.engUp.overrun = true → y = counted) ∧
      (x.engUp.overrun = false → y = { counted with
        notices := offerNotice
          { time := x.shelfTime, source := 9, index := 0, code := 14, more := false
            word1 := 1, word2 := count } x.notices }))) ∧
  (∀ (s : State) (f : Frame), s.engUp.enabled = true → frameValid f = true →
    let h := onShelf (hunt .up) s
    (s.engUp.rx = [] → s.replyWait = [] → s.restart = none →
      receiveUp f s = takeEntry (.frame f) h) ∧
    (s.engUp.rx ≠ [] ∨ s.replyWait ≠ [] ∨ s.restart ≠ none →
      receiveUp f s = onShelf (offerUp (.frame f)) h)) ∧
  (∀ s : State,
    let counted := onShelf (editEngine .up fun g =>
      { g with damaged := satInc g.damaged, assembling := none }) s
    (s.engUp.rx = [] → s.replyWait = [] → s.restart = none → damageUp s = counted) ∧
    (s.engUp.rx ≠ [] ∨ s.replyWait ≠ [] ∨ s.restart ≠ none →
      damageUp s = onShelf (offerUp .damage) counted)) ∧
  (∀ (s : State) (f : Frame),
    let strays := f.kind = kindOrder ∧ f.payload.length ≠ 3 ∨ f.kind = kindRequest ∧ f.payload = [] ∨
      f.kind ≠ kindOrder ∧ f.kind ≠ kindRequest ∨ f.kind = kindRequest ∧ f.address ≠ 0 ∨
      f.kind = kindOrder ∧ (f.address = 0 ∨ 62 < f.address.toNat)
    takeEntry .damage s = s ∧
    (strays → takeEntry (.frame f) s =
      onShelf (editEngine .up fun g => { g with stray := satInc g.stray }) s) ∧
    (¬strays → f.kind = kindOrder → ∀ c v, f.payload = c :: be16 v → v < 65536 →
      takeEntry (.frame f) s = onShelf (decideOrder f.address c v) s) ∧
    (¬strays → f.kind = kindRequest → takeEntry (.frame f) s = handleRequest f.payload s)) ∧
  (∀ (n : Nat) (s : State),
    routeWaiting 0 s = s ∧
    (s.engUp.rx = [] ∨ s.replyWait ≠ [] ∨ s.restart ≠ none → routeWaiting (n + 1) s = s) ∧
    (s.replyWait = [] → s.restart = none → ∀ entry rest, s.engUp.rx = entry :: rest →
      routeWaiting (n + 1) s = routeWaiting n (onShelf react (takeEntry entry
        (onShelf (fun x => { x with engUp := { x.engUp with rx := rest } }) s))))) ∧
  ∀ s : State,
    closing s = onShelf (fun x => arbitrate .tp (arbitrate .sp x))
      (routeWaiting 2 (onShelf arbitrateUp (routeWaiting 2 (onShelf react s))))

/-! ### Sense lines and signals -/

/-- A change of a watched line, and the third agreeing sample of a filtered one, are accepted, whichever of the three
rows of the lines brings that sample: the line takes the level, an edge is captured where the entry selects it, and
a first acceptance captures nothing (R4, R6, R7). A drive line is at its active level while its zone is WET (VALVE),
while some zone is WET (LEAK-ALARM) or while the ride state is not NORMAL (RIDE-ACTIVE), and at the other level in
every other case (R11). The new logical state is delivered to the owner of the line's role, with the edge time where
it is an edge (R6): to the Module Monitor, the Leak Zone Unit, or for an edge the Tray Controller. The shelf stop
condition is active exactly while some SHELF-STOP line is; becoming active it reaches every in-use tray in ascending
index and the sequencer (R104, R119), and becoming inactive it asks for an admission evaluation and an autostart
test (R93, R120). Whether the trays or the sequencer come first is the event's to say, the model's choice (log entry
3). An apply to a line clears its filter history where the period changed, tells a former owner that the line is
INACTIVE, and gives a new owner, or a new logical state, as an initial state, with no capture and no edge (R5); then
the drive lines are set (R12). That the first sample of a new period may come at any time, and the order of several
lines, are log entries 27 and 46. A line is ACTIVE at its active level, a tray's TRAY-GOOD line is the one that its
entry and the Line table agree on (R2), and a candidate at its third agreeing sample completes a change (R4). -/
def Obligations.LinesAcceptAndDrive : Prop :=
  (∀ (e : Ambient) (l : Fin 16) (level : Level) (s : State),
    let now := s.shelfTime + e.elapsed
    let x := (opening e s).toShelf
    let r := vget s.lines l
    let accepted := fun time => Host.Outcome.next (closing (onShelf (acceptLevel l level time)
      (opening e s)))
    (watched x l = true → r.accepted = none →
      exec (.firstAcceptance e l level) s = accepted now) ∧
    (watched x l = true → r.accepted ≠ none → r.accepted ≠ some level →
      exec (.lineEdge e l level) s = accepted now) ∧
    (sampleDue x l = true → r.history.candidate = some level → 2 ≤ r.history.count →
      r.accepted ≠ some level →
      let third := Host.Outcome.next (closing (onShelf
        (fun x => acceptLevel l level r.history.first
          (editLine l (fun r => { r with lastSample := some now }) x)) (opening e s)))
      exec (.filterSample e l level) s = third ∧
        (r.accepted = none → exec (.firstAcceptance e l level) s = third) ∧
        (r.accepted ≠ none → exec (.lineEdge e l level) s = third)) ∧
    (watched x l = true ↔ s.sampling = true ∧ (senseAt x l).period = 0) ∧
    (sampleDue x l = true ↔ s.sampling = true ∧ (senseAt x l).period ≠ 0 ∧
      ∀ t, r.lastSample = some t →
        reached now (t + BitVec.ofNat 32 (senseAt x l).period) = true) ∧
    (Still s → sampleDue x l = true → completes r level = false →
      exec (.filterSample e l level) s =
        .next (settled
          (editLine l fun r => { r with
            lastSample := some now
            history :=
              if r.accepted = some level then ⟨none, 0, 0⟩
              else if r.history.candidate = some level then
                { r.history with count := r.history.count + 1 }
              else ⟨some level, 1, now⟩ }) (opening e s)))) ∧
  (∀ (x : Shelf) (l t : Nat),
    (lineActive x l = true ↔ (vget x.lines l).accepted = some (senseAt x l).active) ∧
    (goodLineOf x t = some l ↔ ∃ entry, trayAt x t = some entry ∧ entry.goodLine = some l ∧
      (senseAt x l).role = .trayGood ∧ (senseAt x l).index = t)) ∧
  (∀ (r : SenseLine) (level : Level),
    completes r level = true ↔ r.accepted ≠ some level ∧ r.history.candidate = some level ∧
      2 ≤ r.history.count) ∧
  (∀ (l : Nat) (level : Level) (time : Time) (x : Shelf), l < 16 →
    let old := vget x.lines l
    let rising : Bool := level = (senseAt x l).active
    let new := vget (acceptLevel l level time x).lines l
    new.accepted = some level ∧ new.history = ⟨none, 0, 0⟩ ∧
      (old.accepted = none → new.capture = old.capture) ∧
      (old.accepted ≠ none →
        new.capture =
          if (senseAt x l).edge = .both ∨ ((senseAt x l).edge = .rising ↔ rising = true) then
            { latest := time, previous := old.capture.latest
              edge := some (if rising then .rising else .falling), captured := true
              missed := old.capture.missed || old.capture.captured }
          else old.capture) ∧
      (∀ k ≠ l, vget (acceptLevel l level time x).lines k = vget x.lines k) ∧
      acceptLevel l level time x =
        deliverLine (senseAt x l) l rising (if old.accepted = none then none else some time)
          { x with lines := (acceptLevel l level time x).lines }) ∧
  (∀ (entry : SenseEntry) (l : Nat) (active : Bool) (edge : Option Time) (x : Shelf),
    let y := deliverLine entry l active edge x
    let stops := ∃ k < 16, (senseAt x k).role = .shelfStop ∧
      (vget x.lines k).accepted = some (senseAt x k).active
    let trays := ((List.range 24).filter fun t => (trayAt x t).isSome).map Task.shelfStopTray
    (entry.role = .unused → y = x) ∧
    (entry.role = .inputLoss → y = psmLine entry.index active x) ∧
    (entry.role = .leak → y = { x with raised := x.raised ++ [.zones] }) ∧
    (entry.role = .trayGood →
      (edge = none → y = x) ∧
      ∀ time, edge = some time →
        (goodLineOf x entry.index = some l → y = trayLineEdge entry.index active time x) ∧
        (goodLineOf x entry.index ≠ some l → y = x)) ∧
    (entry.role = .shelfStop →
      (y.shelfStop = true ↔ stops) ∧
      ((x.shelfStop = true ↔ stops) → y = x) ∧
      (x.shelfStop = false → stops →
        y = { x with
          shelfStop := true
          raised := x.raised ++
            if x.ambient.programFirst then .seqShelfStop :: trays else trays ++ [.seqShelfStop] }) ∧
      (x.shelfStop = true → ¬stops →
        y.admitDue = true ∧ Task.autostartTest ∈ y.deferred ∧
          y = { x with shelfStop := false, admitDue := true, deferred := y.deferred }))) ∧
  (∀ (x : Shelf) (d : Nat), d < 8 →
    let e := driveAt x d
    let wet := fun z => (zoneAt x z).isSome = true ∧ (vget x.zones z).state = .wet
    let drives := (e.role = .valve ∧ wet e.index) ∨ (e.role = .leakAlarm ∧ ∃ z < 8, wet z) ∨
      (e.role = .rideActive ∧ x.ride.state ≠ .normal)
    (drives → driveLevel x d = e.active) ∧ (¬drives → driveLevel x d ≠ e.active) ∧
      vget (setDrives x).drives d = driveLevel x d ∧
      setDrives x = { x with drives := (setDrives x).drives }) ∧
  (∀ (old : List Record) (latched : List Nat) (x : Shelf),
    let before := fun l => (decodeSense (recordOf old l)).getD defaultSense
    let sense := latched.filter fun l => l < 16
    applyLines old latched x =
      setDrives (sense.foldl (fun z l => deliverSense l (before l) z)
        (sense.foldl (fun z l => withdrawSense l (before l) z) x))) ∧
  ∀ (l : Nat) (old : SenseEntry) (x : Shelf), l < 16 →
    let new := senseAt x l
    let moved := old.role ≠ new.role ∨ old.index ≠ new.index
    let active : Bool := (vget x.lines l).accepted = some new.active
    let was : Bool := (vget x.lines l).accepted = some old.active
    let cleared := if old.period = new.period then x else { x with
      lines := vset x.lines l { vget x.lines l with history := ⟨none, 0, 0⟩, lastSample := none } }
    (¬moved ∨ old.role = .unused ∨ old.role = .leak ∨ old.role = .trayGood →
      withdrawSense l old x = cleared) ∧
    (moved → old.role = .inputLoss ∨ old.role = .shelfStop →
      withdrawSense l old x = deliverLine old l false none cleared) ∧
    (moved ∨ was ≠ active → deliverSense l old x = deliverLine new l active none x) ∧
    (¬moved → was = active → deliverSense l old x = x)

/-- R17: the raw band of a value by the five tests in order; the places of the bands, their sides, and that
a value equal to a threshold belongs to the band nearer NORMAL. -/
def Obligations.RawBands : Prop :=
  (∀ (l : LimitSet) (v : Nat),
    (v < l.cl → rawBand l v = .critLow) ∧
    (¬v < l.cl → v < l.lw → rawBand l v = .low) ∧
    (¬v < l.cl → ¬v < l.lw → l.ch < v → rawBand l v = .critHigh) ∧
    (¬v < l.cl → ¬v < l.lw → ¬l.ch < v → l.hw < v → rawBand l v = .high) ∧
    (¬v < l.cl → ¬v < l.lw → ¬l.ch < v → ¬l.hw < v → rawBand l v = .normal) ∧
    (l.cl ≤ l.lw → l.lw ≤ l.hw → l.hw ≤ l.ch →
      rawBand l l.lw = .normal ∧ rawBand l l.hw = .normal ∧
        (l.cl < l.lw → rawBand l l.cl = .low) ∧ (l.hw < l.ch → rawBand l l.ch = .high))) ∧
  [Band.critLow, .low, .normal, .high, .critHigh].map bandDistance = [2, 1, 0, 1, 2] ∧
  (∀ b, highSide b = true ↔ b = .high ∨ b = .critHigh) ∧
  (∀ b, lowSide b = true ↔ b = .low ∨ b = .critLow) ∧
  ∀ a b, farther a b = if bandDistance a < bandDistance b then b else a

/-- R19: a candidate band is applied to a signal record by agreement, an UNKNOWN band takes the raw band of the
first sample at once, and every sample updates the value. -/
def Obligations.BandsAgree : Prop :=
  ∀ (l : LimitSet) (v : Nat) (time : Time) (g : Signal), 1 ≤ l.n →
    let h := sampleSignal l v time g
    let c := candidateBand l g.band v
    h.value = v ∧
    (g.band = .unknown → h.band = rawBand l v ∧ h.pending = none ∧ h.count = 0) ∧
    (g.band ≠ .unknown →
      (c = g.band → h.band = g.band ∧ h.pending = none ∧ h.count = 0) ∧
      (c ≠ g.band → g.pending = some c →
        (g.count + 1 < l.n → h.band = g.band ∧ h.pending = some c ∧ h.count = g.count + 1) ∧
        (l.n ≤ g.count + 1 → h.band = c ∧ h.pending = none ∧ h.count = 0)) ∧
      (c ≠ g.band → g.pending ≠ some c →
        (l.n ≠ 1 → h.band = g.band ∧ h.pending = some c ∧ h.count = 1) ∧
        (l.n = 1 → h.band = c ∧ h.pending = none ∧ h.count = 0)))

/-- The candidate band holds a band with hysteresis on its way back to NORMAL and nowhere else: HIGH is left
for NORMAL, and CRIT-HIGH for HIGH, only once min(v + h, 65535) is no longer above HW, or CH; the low side
works the same way with max(v − h, 0), LW and CL. It is never farther from NORMAL than the current band
while it stays on its side, and moves outward or across without hysteresis (R18). -/
def Obligations.HysteresisHolds : Prop :=
  ∀ (l : LimitSet) (v : Nat) (current : Band), LimitsLegal l → v < 65536 → current ≠ .unknown →
    let raw := rawBand l v
    let c := candidateBand l current v
    let above := min (v + l.h) 65535
    let below := v - l.h
    (bandDistance current ≤ bandDistance raw → c = raw) ∧
    (highSide current = true → lowSide raw = true → c = raw) ∧
    (lowSide current = true → highSide raw = true → c = raw) ∧
    (current = .high → raw = .normal → c = if l.hw < above then .high else .normal) ∧
    (current = .critHigh → raw = .high → c = if l.ch < above then .critHigh else .high) ∧
    (current = .critHigh → raw = .normal →
      c = if l.ch < above then .critHigh else if l.hw < above then .high else .normal) ∧
    (current = .low → raw = .normal → c = if below < l.lw then .low else .normal) ∧
    (current = .critLow → raw = .low → c = if below < l.cl then .critLow else .low) ∧
    (current = .critLow → raw = .normal →
      c = if below < l.cl then .critLow else if below < l.lw then .low else .normal) ∧
    (highSide current = true → lowSide raw = false → bandDistance raw < bandDistance current →
      bandDistance raw ≤ bandDistance c ∧ bandDistance c ≤ bandDistance current ∧
        (c = raw ∨ highSide c = true) ∧ (l.h = 0 → c = raw)) ∧
    (lowSide current = true → highSide raw = false → bandDistance raw < bandDistance current →
      bandDistance raw ≤ bandDistance c ∧ bandDistance c ≤ bandDistance current ∧
        (c = raw ∨ lowSide c = true) ∧ (l.h = 0 → c = raw))

/-- A raw field value is multiplied by the gain in 1/256 and rounded, halves up, the offset is added, and the
result is clamped to 16 bits; a sample updates its signal alone by that value and the entry's limit set, makes the
sample time its last and clears STALE, and posts SIGNAL-BAND where the band changes and the entry notifies (R14, R15,
R21, R22). A signal is fed by the in-use Sample Map entry that names it (R13). Its stale time has passed where the
limit set that feeds it now has one, it is not STALE, its band is known, and that time since its last sample is
reached; a signal not sampled since a reset, or since an apply that reset it, is left out (R21; log entries 44 and
69). It then becomes STALE: UNKNOWN, its value and its last time kept; no other signal changes; and so does every
signal fed from a module that becomes ABSENT (R21). A report is taken
whole: its pairs in order, each a sample where an in-use entry names its module and field id, all applied before
anything is handed on; then its status words to the owner of the sender's kind, then the value updates and band
changes, in one hand-on (R14, R20, R139; log entry 28 for the order). A PSM is evaluated for a status word or
the end of its absence, and for no other report (R47); that it stands ahead of the PSMs which the same report
evaluates for a band change is the model's choice (log entry 71). An apply to the Sample Map resets a signal whose
source changed or that is no longer fed, clears the pending band of one whose entry changed otherwise, and hands the
band changes on together; one to the Limit Sets clears the pending band of every signal it classifies, and makes
STALE those whose stale time has passed (R23; log entry 44 for the stale time, 45 for the kinds under which a
change is handed on, 47 for the order). PSM states that a band change gives without a report and outside an
apply are a change of their own (log entry 43). -/
def Obligations.SignalsConvertedAndStale : Prop :=
  (∀ (raw gain : Nat) (offset : Int),
    let sum : Int := ((raw * gain + 128) / 256 : Nat) + offset
    (sum < 0 → convert raw gain offset = 0) ∧ (65535 < sum → convert raw gain offset = 65535) ∧
      (0 ≤ sum → sum ≤ 65535 → (convert raw gain offset : Int) = sum)) ∧
  (∀ (entry : SampleEntry) (raw : Nat) (time : Time) (x : Shelf), entry.signal < 128 →
    let y := applySample entry raw time x
    let old := vget x.signals entry.signal
    let new := sampleSignal (limitsAt x entry.limitSet) (convert raw entry.gain entry.offset) time old
    y.signals = vset x.signals entry.signal new ∧
      (new.value = convert raw entry.gain entry.offset ∧ new.last = time ∧ new.stale = false) ∧
      y = { x with signals := y.signals, notices := y.notices } ∧
      y.notices =
        if entry.notify = true ∧ old.band ≠ new.band then
          offerNotice
            { time := x.shelfTime, source := 1, index := entry.signal, code := 13, more := false
              word1 := twoItems (bandNumber old.band) (bandNumber new.band), word2 := new.value }
            x.notices
        else x.notices) ∧
  (∀ (x : Shelf) (r : Nat) (pairs : List (Nat × Nat)) (time : Time),
    (rosterAt x r = none → takeReport r pairs time x = x) ∧
    ∀ entry, rosterAt x r = some entry →
      let fed := fun id : Nat => ((List.range 128).filterMap (sampleAt x)).find? fun g =>
        g.roster = r && g.fieldId = id
      let samples := pairs.filterMap fun q =>
        if q.1 = 1 then none else (fed q.1).map fun g => (g, q.2)
      let words := pairs.filterMap fun q => if q.1 = 1 then some q.2 else none
      let sampled := samples.foldl (fun y g => applySample g.1 g.2 time y) x
      let owned := deliverStatus entry r words time sampled
      let judged := if entry.kind = .psm ∧ (psmAt x entry.index).map (·.roster) = some r ∧
          (words ≠ [] ∨ (vget x.psms entry.index).state = .absent) then
          checkPsm entry.index .report owned
        else owned
      ∃ changes,
        takeReport r pairs time x =
          handOnSignals ⟨samples.map fun g => (g.1.signal, g.1.kind), changes⟩ .report judged ∧
        (∀ n kind, (n, kind) ∈ changes →
          ∃ front g back, samples = front ++ g :: back ∧ n = g.1.signal ∧ kind = g.1.kind ∧
            let before := front.foldl (fun y g => applySample g.1 g.2 time y) x
            (vget before.signals n).band ≠ (vget (applySample g.1 g.2 time before).signals n).band) ∧
        ∀ front g back, samples = front ++ g :: back →
          let before := front.foldl (fun y g => applySample g.1 g.2 time y) x
          (vget before.signals g.1.signal).band ≠
              (vget (applySample g.1 g.2 time before).signals g.1.signal).band →
            (g.1.signal, g.1.kind) ∈ changes) ∧
  (∀ (x : Shelf) (entry : RosterEntry) (r : Nat) (words : List Nat) (time : Time),
    let i := entry.index
    let y := deliverStatus entry r words time x
    (entry.kind = .leakNode → y = x) ∧
    (entry.kind = .psm →
      y = if (psmAt x i).map (·.roster) = some r then
          words.foldl (fun z w => { z with psms := vmod z.psms i (psmStatusWord w) }) x
        else x) ∧
    (entry.kind = .bbm →
      y = if (bbmAt x i).map (·.roster) = some r then bbmReport i words x else x) ∧
    (entry.kind = .tray →
      y = if (trayAt x i).map (·.roster) = some r then
          words.foldl (fun z w => trayStatus i w time z) x
        else x)) ∧
  (∀ (w : Nat) (r : Psm),
    psmStatusWord w r = { r with
      status := some ⟨w.testBit 0, w.testBit 1, w.testBit 2⟩
      inputHold := if w.testBit 0 = false then true
        else if r.lineActive = false then false else r.inputHold }) ∧
  (∀ (h : HandOn) (trigger : PsmTrigger) (x : Shelf),
    let y := handOnSignals h trigger x
    let atOnce := trigger = .report ∨ x.applying ≠ none
    let moved := fun (kinds : List SignalKind) (n : Nat) => ∃ k ∈ kinds, (n, k) ∈ h.changes
    let updated := fun (kinds : List SignalKind) (n : Nat) => ∃ k ∈ kinds, (n, k) ∈ h.updates
    let reading := fun n => updated [.electrical, .power] n ∨ moved [.electrical, .temperature, .power] n
    let told := fun c => c ∈ y.causes ∧ Task.balance ∈ y.raised
    (h = ⟨[], []⟩ → y = x) ∧
    ((∃ n, moved [.leak] n) → Task.zones ∈ y.raised) ∧
    (∀ i < 6, ∀ g, psmAt x i = some g →
      let bands := moved [.electrical, .temperature] g.temperature ∨
        moved [.electrical, .temperature] g.voltage
      (bands → atOnce → (vget y.psms i).state =
        (evaluatePsm (ownedPresence x g.roster .psm i) (vget x.psms i)
          (vget x.signals g.temperature).band (vget x.signals g.voltage).band trigger).1) ∧
      (bands → ¬atOnce → ∃ is, i ∈ is ∧ Task.psmBands is ∈ y.raised) ∧
      (¬bands ∨ ¬atOnce → vget y.psms i = vget x.psms i) ∧
      (moved [.electrical, .temperature, .power] g.temperature → told .psmTemperature) ∧
      (reading g.voltage ∨ reading g.current → told .psmReading)) ∧
    (∀ k < 6, ∀ g, bbmAt x k = some g → reading g.discharge → told .bbmReading) ∧
    let energy := ∃ k < 6, ∃ g, bbmAt x k = some g ∧ updated [.energy] g.energy
    (energy → y.ride = (energyUpdate x).ride) ∧ (¬energy → y.ride = x.ride)) ∧
  (∀ (x : Shelf) (n : Nat),
    let g := vget x.signals n
    (∀ e, feeding x n = some e → e.signal = n ∧ ∃ i < 128, sampleAt x i = some e) ∧
    (feeding x n = none → ∀ i < 128, ∀ e, sampleAt x i = some e → e.signal ≠ n) ∧
    (staleDue x n = true ↔ ∃ e, feeding x n = some e ∧
      let ms := (limitsAt x e.limitSet).stale
      ms ≠ 0 ∧ g.stale = false ∧ g.band ≠ .unknown ∧
        reached x.shelfTime (g.last + BitVec.ofNat 32 (1000 * ms)) = true)) ∧
  (∀ (x : Shelf) (r : Nat),
    (∀ e, e ∈ fedFrom x r ↔ e.roster = r ∧ ∃ i < 128, sampleAt x i = some e) ∧
      perform (.signalsStale r) x = staleAll (fedFrom x r) x) ∧
  (∀ (e : Ambient) (n : Fin 128) (s : State) (entry : SampleEntry),
    let x := (opening e s).toShelf
    feeding x n = some entry → staleDue x n = true →
    exec (.staleTimeExpiry e n) s = .next (closing (onShelf (staleAll [entry]) (opening e s))) ∧
      (staleAll [entry] x).signals =
        vset x.signals n
          { vget x.signals n with band := .unknown, pending := none, count := 0, stale := true }) ∧
  let becomes := fun (n : Nat) (new : Signal) (notify : Bool) (x y : Shelf) =>
    y = { x with
      signals := vset x.signals n new
      notices :=
        if notify = true ∧ (vget x.signals n).band ≠ new.band then
          offerNotice
            { time := x.shelfTime, source := 1, index := n, code := 13, more := false
              word1 := twoItems (bandNumber (vget x.signals n).band) (bandNumber new.band)
              word2 := new.value } x.notices
        else x.notices }
  (∀ (es : List SampleEntry) (x : Shelf),
    let after := es.foldl (fun z e => staleSignal e.signal e.notify z) x
    let moved := es.filter fun e => (vget x.signals e.signal).band ≠ (vget after.signals e.signal).band
    staleAll es x = handOnSignals ⟨[], moved.map fun e => (e.signal, e.kind)⟩ .band after ∧
    ∀ n < 128, ∀ notify,
      let g := vget x.signals n
      (g.stale = true → staleSignal n notify x = x) ∧
      (g.stale = false →
        becomes n { g with band := .unknown, pending := none, count := 0, stale := true } notify
          x (staleSignal n notify x))) ∧
  (∀ (old : List Record) (x : Shelf) (n : Nat), n < 128 →
    let g := vget x.signals n
    let y := applySignal old n x
    let kept := { g with pending := none, count := 0 }
    let fresh := { kept with band := .unknown, value := 0, stale := false }
    ((∀ e, feedingIn old n = some e → e.signal = n ∧ ∃ r ∈ old, decodeSample r = some e) ∧
      (feedingIn old n = none → ∀ r ∈ old, ∀ e, decodeSample r = some e → e.signal ≠ n)) ∧
    (feedingIn old n = none → feeding x n = none → y = x) ∧
    (∀ e, feedingIn old n = none → feeding x n = some e → becomes n fresh e.notify x y) ∧
    (∀ a, feedingIn old n = some a → feeding x n = none → becomes n fresh a.notify x y) ∧
    ∀ a b, feedingIn old n = some a → feeding x n = some b →
      let same := a.roster = b.roster ∧ a.fieldId = b.fieldId ∧ a.kind = b.kind
      (a = b → y = x) ∧ (a ≠ b → same → y = { x with signals := vset x.signals n kept }) ∧
      (¬same → becomes n fresh b.notify x y)) ∧
  (∀ (old : List Record) (x : Shelf),
    let after := (List.range 128).foldl (fun z n => applySignal old n z) x
    ∃ changes, applySampleMap old x = handOnSignals ⟨[], changes⟩ .band after ∧
      ∀ n kind, (n, kind) ∈ changes ↔
        n < 128 ∧ (vget x.signals n).band ≠ (vget after.signals n).band ∧
          ∃ e, (feedingIn old n = some e ∨ feeding x n = some e) ∧ e.kind = kind) ∧
  ∀ (old : List Record) (x : Shelf),
    let limited := fun e : SampleEntry => (∃ i < 128, sampleAt x i = some e) ∧
      recordOf old e.limitSet ≠ recordAt x 5 e.limitSet
    ∃ cleared stale, applyLimits old x = staleAll stale cleared ∧
      cleared = { x with signals := cleared.signals } ∧
      (∀ n < 128,
        ((∃ e, limited e ∧ e.signal = n) →
          vget cleared.signals n = { vget x.signals n with pending := none, count := 0 }) ∧
        ((∀ e, limited e → e.signal ≠ n) → vget cleared.signals n = vget x.signals n)) ∧
      ∀ e, e ∈ stale ↔ limited e ∧ staleDue cleared e.signal = true

/-! ### Balance, supplies and batteries -/

/-- R33: S_grid is the sum of the capacities, Q the largest of them under N+1 with at least two above 0 and
0 otherwise, and S_adm the difference, never negative. R32: the capacity of a PSM is its rating where it
is OK with a LOW or NORMAL temperature, the derated rating where it is OK with a HIGH, CRIT-LOW or
UNKNOWN one, and 0 in every other state and for an entry not in use. -/
def Obligations.ReserveStage : Prop :=
  (∀ (x : Shelf) (causes : List Cause) (i : Nat), i < 6 →
    let g := vget (balanceNow x causes).g i
    (psmAt x i = none → g = 0) ∧
    ∀ e, psmAt x i = some e →
      let st := (vget x.psms i).state
      let band := (vget x.signals e.temperature).band
      (st = .ok → band = .low ∨ band = .normal → g = e.rated) ∧
      (st = .ok → band = .high ∨ band = .critLow ∨ band = .unknown → g = e.rated * e.derate / 100) ∧
      (st = .failed ∨ st = .inputLost ∨ st = .absent → g = 0)) ∧
  ∀ (x : Shelf) (causes : List Cause),
    let b := balanceNow x causes
    let above := (List.range 6).filter fun i => 0 < vget b.g i
    b.sGrid = ((List.range 6).map fun i => vget b.g i).sum ∧
      ((policy x).redundant = true → 2 ≤ above.length →
        (∃ i < 6, b.q = vget b.g i) ∧ ∀ i < 6, vget b.g i ≤ b.q) ∧
      ((policy x).redundant = true → above.length < 2 → b.q = 0) ∧
      ((policy x).redundant = false → b.q = 0) ∧
      b.q ≤ b.sGrid ∧ (b.sAdm : Int) = (b.sGrid : Int) - b.q

/-- The measured side of the balance: P_i is V times I in watts, rounded, while both bands are known, held and
marked where one is not, and 0 for an ABSENT PSM or an entry not in use (R29, R30); B_k is the discharge
signal of a DISCHARGING BBM, held and marked where its band is UNKNOWN (R31), at 0 where an apply has named
that signal and it has not been known since (R39; log entry 31 for the mark that says so); M is their
sum (R31). D is M above the grid capacity, and DEFICIT says that it is greater than the Policy's
threshold, which is 0 by default (R36). -/
def Obligations.MeasuredLoadAndDeficit : Prop :=
  (∀ (x : Shelf) (causes : List Cause),
    let b := balanceNow x causes
    let known := fun n => (vget x.signals n).band ≠ .unknown
    (∀ i < 6,
      let zero := vget b.p i = 0 ∧ vget b.pHeld i = false
      (psmAt x i = none → zero) ∧
      ∀ e, psmAt x i = some e →
        ((vget x.psms i).state = .absent → zero) ∧
        ((vget x.psms i).state ≠ .absent →
          (known e.voltage → known e.current →
            vget b.p i =
              ((vget x.signals e.voltage).value * (vget x.signals e.current).value + 50000) / 100000 ∧
              vget b.pHeld i = false) ∧
          (¬known e.voltage ∨ ¬known e.current →
            vget b.p i = vget x.balance.p i ∧ vget b.pHeld i = true))) ∧
    (∀ k < 6,
      let zero := vget b.b k = 0 ∧ vget b.bHeld k = false ∧ vget b.bDischarging k = false
      (bbmAt x k = none → zero) ∧
      ∀ e, bbmAt x k = some e →
        let value := (vget x.signals e.discharge).value
        ((vget x.bbms k).state ≠ .discharging → zero) ∧
        ((vget x.bbms k).state = .discharging →
          vget b.bDischarging k = true ∧
          (known e.discharge → vget b.b k = value ∧ vget b.bHeld k = false) ∧
          (¬known e.discharge → vget b.bHeld k = true ∧
            vget b.b k =
              if vget x.balance.bUnread k = true then 0
              else if vget x.balance.bDischarging k = true then vget x.balance.b k else value)) ∧
        (vget b.bUnread k = true ↔ vget x.balance.bUnread k = true ∧ ¬known e.discharge)) ∧
    b.m = ((List.range 6).map fun i => vget b.p i).sum + ((List.range 6).map fun k => vget b.b k).sum ∧
    (b.held = true ↔ ∃ i < 6, vget b.pHeld i = true ∨ vget b.bHeld i = true) ∧
    (b.d : Int) = max 0 ((b.m : Int) - b.sGrid) ∧ b.d ≤ b.m ∧
    (b.deficit = true ↔ (policy x).deficitThreshold < b.d)) ∧
  (∀ x : Shelf, (policy x).deficitThreshold < 65536) ∧ defaultPolicy.deficitThreshold = 0 ∧
  ∀ (old : List Record) (k : Nat) (x : Shelf) (e : BbmEntry), k < 6 → bbmAt x k = some e →
    (∀ before, decodeBbm (recordOf old k) = some before → before.discharge = e.discharge →
      (applyBbm old k x).balance = x.balance) ∧
    ((∀ before, decodeBbm (recordOf old k) = some before → before.discharge ≠ e.discharge) →
      (applyBbm old k x).balance = { x.balance with bUnread := vset x.balance.bUnread k true })

/-- The commitment of a tray by state and output-seen, and the committed load as their sum over the in-use trays
with the charge allocation K, the sum of the acknowledged rates of the in-use BBMs (R34, R58); H and H0 compare
with the admission capacity, and OVERCOMMIT says that H is negative (R35). A change handed to the Balance Unit
is one recomputation: its record replaces the last, names every cause gathered, posts OVERCOMMIT where the mark
becomes set, and is handed to the Ride-Through Controller, the Tray Controller, the Module Monitor and the
Program Sequencer (R27, R28, R35, R37). Within the side effects of an apply it waits for their end, and an apply
or START that gives a cause of its own is one recomputation with it (R39, R40). The turn of the Ride-Through
Controller is the event's, but in a walk never before the Tray Controller, a ride's cause is that of the record
handed on, and an apply of a table that R39 does not name recomputes for the causes gathered alone: log entries 3, 39,
20 and 19. The trial headroom is that of
Stages 3 to 6 with one PSM's capacity taken as 0 (R38). -/
def Obligations.CommitmentAndHeadroom : Prop :=
  (∀ (st : TrayState) (seen : Seen) (a i : Nat),
    (st = .starting → commitmentOf st seen a i = a + i) ∧
    (st = .on ∨ st = .stopping ∨ st = .shedding ∨ st = .unknown → commitmentOf st seen a i = a) ∧
    (st = .off ∨ st = .queued ∨ st = .shed →
      commitmentOf st seen a i = if seen = .on then a else 0) ∧
    (st = .fault ∨ st = .locked → commitmentOf st seen a i = if seen = .off then 0 else a)) ∧
  (∀ (x : Shelf) (causes : List Cause),
    let b := balanceNow x causes
    let committed := fun t => ((trayAt x t).map fun e =>
      commitmentOf (vget x.bay.trays t).state (vget x.bay.trays t).seen e.allocation e.inrush).getD 0
    trayCommitment x = ((List.range 24).map committed).sum ∧
      chargeAllocation x = ((List.range 6).map fun k =>
        if (bbmAt x k).isSome then (vget x.bbms k).acknowledged else 0).sum ∧
      b.k = chargeAllocation x ∧ b.c = trayCommitment x + b.k ∧
      b.h = (b.sAdm : Int) - b.c ∧ b.h0 = (b.sAdm : Int) - (b.c - b.k : Nat) ∧
      (b.overcommit = true ↔ b.h < 0) ∧ b.time = x.shelfTime ∧
      b.count = (x.balance.count + 1) % 65536) ∧
  (∀ x : Shelf,
    (x.causes = [] ∨ x.applying ≠ none → perform .balance x = x) ∧
    (x.causes ≠ [] → x.applying = none → BalanceHanded x.causes x (perform .balance x))) ∧
  (∀ x : Shelf,
    let y := perform .endApply x
    (x.applying = none → y = x) ∧
    (x.applying = some [] → x.causes = [] → y = { x with applying := none }) ∧
    (x.applying = some [] → x.causes ≠ [] → BalanceHanded x.causes x y) ∧
    ∀ c, x.applying = some [c] →
      BalanceHanded (if c ∈ x.causes then x.causes else x.causes ++ [c]) x y) ∧
  ∀ (x : Shelf) (j : Nat),
    let b := balanceNow x []
    let g := (List.range 6).map fun i => if i = j then 0 else vget b.g i
    let above := g.filter (0 < ·)
    (∃ q : Nat, trialHeadroom x j = (g.sum : Int) - q - b.c ∧
      ((policy x).redundant = true → 2 ≤ above.length → q ∈ g ∧ ∀ v ∈ g, v ≤ q) ∧
      ((policy x).redundant = false ∨ above.length < 2 → q = 0)) ∧
    (j < 6 → vget b.g j = 0 → trialHeadroom x j = b.h)

/-- A PSM's state is given by the tests of R45 in order; the output tests apply with the input present alone, and an
UNKNOWN band fails none. The reason is that of R48: APPLY at an apply, and otherwise the first of R48's table that
holds. An evaluation that gives another state writes the record, posts PSM-STATE and hands the change on, as
PSM-LINE for a line's delivery and PSM-STATE otherwise; one that gives the same state changes nothing (R45, R46,
R48). A line's delivery of ACTIVE sets the line state and the input hold, and changes no state of an ABSENT or
FAILED PSM; one of INACTIVE clears the line state alone (R46; log entry 16). The absence of its module drops its
status copy, sets its input hold and has it evaluated (R47). That a band change takes a PSM to INPUT-LOST with
reason INPUT within an apply too is log entry 66, and that every change to INPUT-LOST by a line's delivery has the
reason LINE, also where the delivery did not take the input away, is log entry 73. An apply to a PSM's entry drops
the record, starts it afresh, or clears its status and sets its input hold, as R60 states, with the held P_i at 0 where R39 says, and has it
evaluated; its notices carry the reason APPLY (log entry 32). A Roster entry is a module's own where it is in use
with that kind and index; no other entry gives a presence, and the module then counts as ABSENT. -/
def Obligations.SuppliesJudged : Prop :=
  (∀ (x : Shelf) (r i : Nat) (kind : ModuleKind),
    let mine := ∃ m, rosterAt x r = some m ∧ m.kind = kind ∧ m.index = i
    (rosterIs x r kind i = true ↔ mine) ∧
      (mine → ownedPresence x r kind i = (vget x.modules r).presence) ∧
      (¬mine → ownedPresence x r kind i = .absent)) ∧
  (∀ (presence : Presence) (r : Psm) (temperature voltage : Band) (trigger : PsmTrigger),
    let judged := evaluatePsm presence r temperature voltage trigger
    let st := judged.1
    let present := r.lineActive = false ∧ r.inputHold = false ∧
      ∃ c, r.status = some c ∧ c.inputOk = true
    let faulty := ∃ c, r.status = some c ∧ c.fault = true
    let noOutput := present ∧ ∃ c, r.status = some c ∧ c.outputOk = false
    let failed := faulty ∨ temperature = .critHigh ∨
      voltage = .critHigh ∨ noOutput ∨ (present ∧ voltage = .critLow)
    (presence = .absent → st = .absent) ∧
    (presence ≠ .absent → failed → st = .failed) ∧
    (presence ≠ .absent → ¬failed → ¬present → st = .inputLost) ∧
    (presence ≠ .absent → ¬failed → present → st = .ok) ∧
    (trigger = .apply → judged.2 = .apply) ∧
    (trigger ≠ .apply →
      (st = .absent → judged.2 = .presence) ∧
      (st = .failed →
        (faulty → judged.2 = .fault) ∧ (¬faulty → noOutput → judged.2 = .output) ∧
        (¬faulty → ¬noOutput → temperature = .critHigh → judged.2 = .temperature) ∧
        (¬faulty → ¬noOutput → temperature ≠ .critHigh → judged.2 = .voltage)) ∧
      (st = .inputLost → judged.2 = if trigger = .line then .line else .input) ∧
      (st = .ok → (trigger = .report → judged.2 = .report) ∧ (trigger = .band → judged.2 = .band)))) ∧
  (∀ (i : Nat) (trigger : PsmTrigger) (x : Shelf) (entry : PsmEntry), i < 6 →
    psmAt x i = some entry →
    let r := vget x.psms i
    let judged := evaluatePsm (ownedPresence x entry.roster .psm i) r
      (vget x.signals entry.temperature).band (vget x.signals entry.voltage).band trigger
    let cause := if trigger = .line then Cause.psmLine else .psmState
    (judged.1 = r.state → checkPsm i trigger x = x) ∧
    (judged.1 ≠ r.state →
      checkPsm i trigger x = { x with
        psms := vset x.psms i
          { r with state := judged.1, reason := judged.2, stateTime := x.shelfTime }
        notices := offerNotice
          { time := x.shelfTime, source := 3, index := i, code := 2, more := false
            word1 := twoItems (psmStateNumber r.state) (psmStateNumber judged.1)
            word2 := psmReasonNumber judged.2 } x.notices
        causes := if cause ∈ x.causes then x.causes else x.causes ++ [cause]
        raised := x.raised ++ [.balance] })) ∧
  (∀ (i : Nat) (x : Shelf), i < 6 → (psmAt x i).isSome →
    let r := vget x.psms i
    let lost := { x with psms := vset x.psms i { r with lineActive := true, inputHold := true } }
    (r.state = .absent ∨ r.state = .failed → psmLine i true x = lost) ∧
    (r.state = .ok ∨ r.state = .inputLost → psmLine i true x = checkPsm i .line lost) ∧
    psmLine i false x =
      checkPsm i .line { x with psms := vset x.psms i { r with lineActive := false } }) ∧
  (∀ (i : Nat) (x : Shelf), i < 6 →
    (psmAt x i = none → psmAbsent i x = x) ∧
    ((psmAt x i).isSome →
      psmAbsent i x = checkPsm i .presence { x with
        psms := vset x.psms i { vget x.psms i with status := none, inputHold := true } })) ∧
  ∀ (old : List Record) (i : Nat) (x : Shelf), i < 6 →
    let before := decodePsm (recordOf old i)
    let r := vget x.psms i
    let y := applyPsm old i x
    let unheld := fun z : Shelf => { z with balance := { z.balance with p := vset z.balance.p i 0 } }
    let renewed := { x with psms := vset x.psms i resetPsm }
    (psmAt x i = none →
      (before = none → y = x) ∧
      (before.isSome → r.state = .absent → y = renewed) ∧
      (before.isSome → r.state ≠ .absent → y = { renewed with
        notices := offerNotice
          { time := x.shelfTime, source := 3, index := i, code := 2, more := false
            word1 := twoItems (psmStateNumber r.state) 0, word2 := psmReasonNumber .apply } x.notices
        causes := if Cause.psmState ∈ x.causes then x.causes else x.causes ++ [.psmState]
        raised := x.raised ++ [.balance] })) ∧
    ∀ e, psmAt x i = some e →
      (before = none → y = checkPsm i .apply (unheld renewed)) ∧
      ∀ a, before = some a →
        let z := if a.voltage ≠ e.voltage ∨ a.current ≠ e.current then unheld x else x
        (a.roster ≠ e.roster ∨ a.voltage ≠ e.voltage ∨ a.temperature ≠ e.temperature →
          y = checkPsm i .apply { z with
            psms := vset x.psms i { r with status := none, inputHold := true } }) ∧
        (a.roster = e.roster → a.voltage = e.voltage → a.temperature = e.temperature →
          y = checkPsm i .apply z)

/-- A BBM is adopted by a report while seen is clear (R51); its status words, its module's absence and the outcomes of
its orders change its record as R52 and R53 state; and each state change is posted with its reason and handed on to
the Balance Unit and the Ride-Through Controller, which follows it with its account and its orders (R54, R55, R66). A
status word with FULL and FAULT of a CHARGING BBM makes two changes, the second as from the record that FULL alone (a
word of 8) leaves. As the ride state leaves NORMAL every rate becomes 0 (R59). That FULL is taken before FAULT of one
status word, that an adoption with FAULT posts ADOPTED, that a BBM made FAULT by an order before its first report is
adopted by it, and that a report without a status word adopts with FAULT clear and FULL kept are the model's choices
(log entries 50, 51, 49, 40). An apply to a BBM's entry starts its record afresh, ABSENT where its module is, or drops
it (R60); its notices carry the reason APPLY (log entry 32), and its orders act on the record as it then is (log entry
59). -/
def Obligations.BatteriesJudged : Prop :=
  (∀ (x : Shelf) (k : Nat) (entry : BbmEntry), k < 6 → bbmAt x k = some entry →
    let r := vget x.bbms k
    let recorded := fun (y : Shelf) (new : Bbm) => vget y.bbms k =
      { new with stateTime := if new.state = r.state then r.stateTime else x.shelfTime }
    let becomes := fun (y : Shelf) (new : Bbm) (reason : BbmReason) =>
      recorded y new ∧ BbmTold k reason x y
    let draws := (vget x.signals entry.discharge).band ≠ .unknown ∧
      0 < (vget x.signals entry.discharge).value
    let adopted := fun (fault full : Bool) => { r with
      state := if fault then .fault else if draws then .discharging else .idle
      fault := if fault then some .status else none
      seen := true, full := full, acknowledged := 0, ordered := none }
    let stays := fun (st : BbmState) => if r.state = .fault then BbmState.fault else st
    (r.seen = false →
      becomes (bbmReport k [] x) (adopted false r.full) .adopted ∧
      ∀ w rest, becomes (bbmReport k [w] x) (adopted (w.testBit 2) (w.testBit 3)) .adopted ∧
        bbmReport k (w :: rest) x =
          rest.foldl (fun y v => bbmStatusWord k v y) (bbmReport k [w] x)) ∧
    (r.seen = true →
      ∀ words, bbmReport k words x = words.foldl (fun y v => bbmStatusWord k v y) x) ∧
    (∀ w : Nat,
      let fault := w.testBit 2
      let full := w.testBit 3
      let y := bbmStatusWord k w x
      let filled := if r.state = .charging ∧ full then
          { r with full, state := .idle, acknowledged := 0 }
        else { r with full }
      (fault = false → ¬(r.state = .fault ∧ r.fault = some .status) → becomes y filled .full) ∧
      (fault = false → r.state = .fault → r.fault = some .status →
        becomes y (adopted false full) .adopted) ∧
      (fault = true → r.state = .fault → becomes y filled .status) ∧
      (fault = true → r.state ≠ .fault →
        recorded y { filled with state := .fault, fault := some .status } ∧
          (r.state ≠ .charging ∨ full = false → BbmTold k .status x y) ∧
          (r.state = .charging → full = true → BbmTold k .status (bbmStatusWord k 8 x) y))) ∧
    becomes (bbmAbsent k x)
      { r with state := .absent, fault := none, seen := false, full := false, acknowledged := 0 }
      .presence ∧
    (r.state = .absent → ∀ code argument o, bbmOutcome k code argument o x = x) ∧
    (r.state ≠ .absent →
      (∀ a, becomes (bbmOutcome k 0x11 a (.ack 0x00) x)
        { r with state := stays .discharging, acknowledged := 0 } .orderOk) ∧
      (∀ a, becomes (bbmOutcome k 0x12 a (.ack 0x00) x)
        { r with state := stays .idle, acknowledged := 0, ordered := some 0 } .orderOk) ∧
      becomes (bbmOutcome k 0x10 0 (.ack 0x00) x)
        { r with state := stays .idle, acknowledged := 0 } .orderOk ∧
      (∀ a, 0 < a → becomes (bbmOutcome k 0x10 a (.ack 0x00) x)
        { r with
          state := stays .charging
          acknowledged := if x.ride.state = .normal then a else 0 } .orderOk) ∧
      ∀ code a,
        bbmOutcome k code a .portOff x = x ∧
        (r.state = .fault →
          bbmOutcome k code a .noAnswer x = x ∧ ∀ st ≠ 0, bbmOutcome k code a (.ack st) x = x) ∧
        (r.state ≠ .fault →
          becomes (bbmOutcome k code a .noAnswer x)
            { r with state := .fault, fault := some .noAnswer } .noAnswer ∧
          ∀ st ≠ 0, becomes (bbmOutcome k code a (.ack st) x)
            { r with state := .fault, fault := some .refused } .refused))) ∧
  (∀ x : Shelf,
    let y := chargeZero x
    (∀ k < 6, vget y.bbms k = { vget x.bbms k with acknowledged := 0, ordered := some 0 }) ∧
      chargeAllocation y = 0 ∧ y.notices = x.notices ∧
      (chargeAllocation x = 0 → y = { x with bbms := y.bbms }) ∧
      (chargeAllocation x ≠ 0 →
        y = { x with
          bbms := y.bbms
          causes := if Cause.charge ∈ x.causes then x.causes else x.causes ++ [.charge]
          raised := x.raised ++ [.balance] })) ∧
  ∀ (old : List Record) (k : Nat) (x : Shelf), k < 6 →
    let before := decodeBbm (recordOf old k)
    let y := applyBbm old k x
    let renewed := fun z : Shelf => { z with bbms := vset z.bbms k resetBbm }
    let becomes := fun (u v : Shelf) (st : BbmState) =>
      vget v.bbms k = { resetBbm with
        state := st, stateTime := if st = (vget u.bbms k).state then 0 else x.shelfTime } ∧
      BbmTold k .apply u v ∧ (x.ride.state = .normal → v.pollSp = x.pollSp)
    (bbmAt x k = none →
      (before = none → y = x) ∧
      (before.isSome → ∃ z, becomes x z .absent ∧ y = renewed z)) ∧
    ∀ e, bbmAt x k = some e →
      let st := if ownedPresence x e.roster .bbm k = .absent then BbmState.absent else .idle
      (before = none → becomes (renewed x) y st) ∧ (before.isSome → becomes x y st)

/-- The charge budget is the smaller of what the eligible BBMs can take and what H0 leaves after the charge floor
and the head need, never below 0. Every BBM in use and seen that is IDLE or CHARGING has a new rate, 0
with FULL set and otherwise the smaller of its maximum charge and its equal share of the budget; no other
BBM has one, and the rates stay within the budget (R56). Every BBM in use in DISCHARGING has a HOLD queued or in
flight after the evaluation (R55). A rate is ordered where R57 says, with the rate last ordered following it,
and nothing else is ordered; outside NORMAL, or with DEFICIT set, the evaluation does nothing (R55). -/
def Obligations.ChargeWithinBudget : Prop :=
  ∀ x : Shelf,
    let takes := fun k => (bbmAt x k).isSome && (vget x.bbms k).seen &&
      ((vget x.bbms k).state = .idle || (vget x.bbms k).state = .charging)
    let eligible := (List.range 6).filter fun k => takes k && !(vget x.bbms k).full
    let most := fun k => ((bbmAt x k).map (·.maxCharge)).getD 0
    let head : Nat := ((x.bay.queue.head?).map fun t =>
      ((trayAt x t).map fun e => e.allocation + e.inrush).getD 0).getD 0
    let rates := newRates x
    headNeed x = head ∧
    ((chargeBudgetOf x : Int) =
      min ((eligible.map most).sum : Int)
        (max 0 (x.balance.h0 - ((policy x).chargeFloor : Int) - (head : Int)))) ∧
    (∀ k rate, (k, rate) ∈ rates ↔
      k < 6 ∧ takes k = true ∧
        rate = if (vget x.bbms k).full = true then 0
          else min (most k) (chargeBudgetOf x / eligible.length)) ∧
    (rates.map Prod.fst).Nodup ∧ (rates.map Prod.snd).sum ≤ chargeBudgetOf x ∧
    (∀ step rate last,
      rateOrdered step rate last = true ↔
        last = none ∨ ∃ old, last = some old ∧
          ((rate ≠ old ∧ (step ≤ rate - old ∨ step ≤ old - rate)) ∨ (rate = 0 ∧ old ≠ 0))) ∧
    (x.ride.state ≠ .normal ∨ x.balance.deficit = true → chargeEvaluation x = x) ∧
    (x.ride.state = .normal → x.balance.deficit = false →
      let y := chargeEvaluation x
      y.chargeBudget = chargeBudgetOf x ∧
      (∀ k < 6, (bbmAt x k).isSome → (vget x.bbms k).state = .discharging →
        BbmOrdered k 0x12 x y) ∧
      (∀ o ∈ y.pollSp.control, o ∈ x.pollSp.control ∨ ∃ k < 6, o.target = .bbm k ∧
        (o.code = 0x12 ∧ o.argument = 0 ∧ (vget x.bbms k).state = .discharging ∨
          o.code = 0x10 ∧ (k, o.argument) ∈ rates)) ∧
      (∀ k < 6, (∀ rate, (k, rate) ∉ rates) → vget y.bbms k = vget x.bbms k) ∧
      ∀ k rate, (k, rate) ∈ rates →
        let ordered := rateOrdered (policy x).chargeStep rate (vget x.bbms k).ordered
        (ordered = false → vget y.bbms k = vget x.bbms k) ∧
        (ordered = true → vget y.bbms k = { vget x.bbms k with ordered := some rate }) ∧
        (ordered = true → ∀ entry, bbmAt x k = some entry →
          rosterIs x entry.roster .bbm k = true → x.engSp.enabled = true →
          ∃ o ∈ y.pollSp.control, o.target = .bbm k ∧ o.code = 0x10 ∧ o.argument = rate))

/-! ### Ride-through -/

/-- A record with DEFICIT in NORMAL begins a ride: its summary, anchor, shares and tick; every usable battery in
IDLE or CHARGING has a DISCHARGE queued or in flight, and no other battery gets an order; the STARTING trays are
to be shed in ascending index, RIDE-ENTER is to be posted and the Module Monitor told; a pending restart is
dropped, a WAITING sequencer HELD and the drive lines set; without DEFICIT nothing changes (R63, R64, R65, R85,
R116, R170). -/
def Obligations.RideBegins : Prop :=
  ∀ (x : Shelf) (line ok : Bool) (d : Nat), x.ride.state = .normal →
    rideRecord false line ok d x = x ∧
    (∀ st, (traysIn x st).Pairwise (· < ·) ∧
      ∀ t, t ∈ traysIn x st ↔ t < 24 ∧ (trayAt x t).isSome = true ∧ trayState x t = st) ∧
    let y := rideRecord true line ok d x
    y.ride = { x.ride with
      state := .ride, eAnchor := x.ride.eRem
      shares := Vector.ofFn fun k : Fin 6 => if usable x k then batteryEnergy x k else 0
      tick := some (x.shelfTime + 10000), qualify := none
      openSummary := some
        { entry := x.shelfTime, cause := if line then .line else .deficit, anchor := x.ride.eRem
          returnTime := none, normalTime := none, used := none, shedCount := 0, returns := 0
          smallestT := 65535, depleted := false } } ∧
    y.raised = (dischargeBatteries x).raised ++ (traysIn x .starting).map Task.shed ++
      [.postRideEnter d, .chargeZero] ∧
    DischargeOrdered x y ∧ y.admitDue = true ∧ (∀ n < 8, vget y.drives n = driveLevel y n) ∧
    y.restart = none ∧ (x.seq.state = .waiting → y.seq.state = .held) ∧
    (x.seq.state ≠ .waiting → y.seq = x.seq) ∧
    y.bay = x.bay ∧ y.zones = x.zones ∧ y.balance = x.balance ∧ y.tables = x.tables ∧
    ∀ z : Shelf,
      postRideEnter d z = { z with
        notices := offerNotice
          { time := z.shelfTime, source := 5, index := 0, code := 4, more := false
            word1 := twoItems ((z.ride.openSummary.map fun w => rideCauseNumber w.cause).getD 0)
              (min ((z.ride.openSummary.map (·.returns)).getD 0) 255)
            word2 := min d 65535 } z.notices }

/-- A tick debits the deficit in hundredths of a joule, losing none to rounding; with no usable energy left the
ride is DEPLETED, marked so in its open summary, every ON tray is to be shed, the batteries are ordered to hold, and
RIDE-DEPLETED is posted after the sheds, with the number of these trays and the shed count of the summary as it then
stands (R68, R75, R83, R85). Otherwise it projects: D less the allocations of the SHEDDING trays, B_max, and T (R71).
Where the batteries cannot carry D_proj, ON trays are shed in ascending shed rank until they can, or none is left
(R72); where they can, the ON tray of lowest rank is shed if its keep time is greater than T, or is 0 (R73; log entry
56). That D_proj stops at 0 is the model's choice (log entry 53), and so is what is recorded: D_proj after the
overload shedding, and at a tick with E_use 0 the D_proj, B_max and T of before (log entry 31). -/
def Obligations.EnergyDebited : Prop :=
  (∀ (e : Ambient) (s : State) (t : Time), s.ride.state = .ride → s.ride.tick = some t →
    reached (s.shelfTime + e.elapsed) t = true →
    exec (.energyTick e) s = .next (closing (onShelf energyTick (opening e s)))) ∧
  (∀ (r : Ride) (d : Nat), r.r ≤ 99 →
    let q := debit d r
    q.r ≤ 99 ∧
      ((r.r + d) / 100 ≤ r.eRem → 100 * (r.eRem - q.eRem) + q.r = r.r + d) ∧
      (r.eRem < (r.r + d) / 100 → q.eRem = 0) ∧ q = { r with eRem := q.eRem, r := q.r }) ∧
  (∀ x : Shelf, x.ride.state = .ride →
    let left := (debit x.balance.d x.ride).eRem
    (left ≤ (policy x).energyReserve →
      (energyTick x).ride.state = .depleted ∧ (energyTick x).ride.tick = none) ∧
    ((policy x).energyReserve < left →
      (energyTick x).ride.state = .ride ∧
        (energyTick x).ride.tick = x.ride.tick.map fun t => t + 10000) ∧
    (energyTick x).ride.eRem = left) ∧
  (∀ x : Shelf, x.ride.state = .ride →
    let y := energyTick x
    let left := (debit x.balance.d x.ride).eRem
    let eUse := left - (policy x).energyReserve
    let on := onByRank x
    let shedding := (List.range 24).filter fun t => (trayAt x t).isSome && trayState x t = .shedding
    let dProj := x.balance.d - (shedding.map fun t => ((trayAt x t).map (·.allocation)).getD 0).sum
    let usable := (List.range 6).filter fun k => (bbmAt x k).isSome &&
      (vget x.bbms k).state ≠ .absent && (vget x.bbms k).state ≠ .fault
    let bMax := (usable.map fun k => ((bbmAt x k).map (·.maxDischarge)).getD 0).sum
    let time := if dProj = 0 then 65535 else min (eUse / dProj) 65535
    let heavy := overloadShed x bMax on dProj
    y.bay = x.bay ∧
    (eUse = 0 →
      y.raised = (holdBatteries x).raised ++ on.map Task.shed ++ [.postDepleted on.length] ∧
        HoldOrdered x y ∧ y.admitDue = true ∧ y.notices = x.notices ∧
        y.ride = { debit x.balance.d x.ride with
          state := .depleted, tick := none, eUse := 0
          openSummary := x.ride.openSummary.map fun z => { z with depleted := true } }) ∧
    (0 < eUse →
      y.ride.eUse = eUse ∧ y.ride.bMax = bMax ∧ y.ride.t = time ∧ y.ride.dProj = heavy.2 ∧
      y.ride.openSummary = x.ride.openSummary.map (fun z =>
        { z with smallestT := min z.smallestT time }) ∧
      (bMax < dProj → y.raised = x.raised ++ heavy.1.map Task.shed) ∧
      (dProj ≤ bMax →
        (on = [] → y.raised = x.raised) ∧
        ∀ tray rest entry, on = tray :: rest → trayAt x tray = some entry →
          (time < entry.keepTime ∨ entry.keepTime = 0 → y.raised = x.raised ++ [.shed tray]) ∧
          (entry.keepTime ≤ time → entry.keepTime ≠ 0 → y.raised = x.raised)))) ∧
  (∀ x : Shelf,
    let rank := fun t => ((trayAt x t).map (·.shedRank)).getD 0
    let inUse := fun t => t < 24 ∧ (trayAt x t).isSome = true
    (onByRank x).Pairwise (fun a b => rank a < rank b) ∧
      (∀ t ∈ onByRank x, inUse t ∧ trayState x t = .on) ∧
      ((∀ a b, inUse a → inUse b → rank a = rank b → a = b) →
        ∀ t, inUse t → trayState x t = .on → t ∈ onByRank x)) ∧
  (∀ (x : Shelf) (trays : Nat),
    postDepleted trays x = { x with
      notices := offerNotice
        { time := x.shelfTime, source := 5, index := 0, code := 7, more := false, word1 := trays
          word2 := (x.ride.openSummary.map (·.shedCount)).getD 0 } x.notices }) ∧
  (∀ (x : Shelf) (t : Nat), trayAllocation x t = ((trayAt x t).map (·.allocation)).getD 0) ∧
  ∀ (x : Shelf) (bMax dProj : Nat) (trays : List Nat),
    let shed := overloadShed x bMax trays dProj
    ∃ rest, trays = shed.1 ++ rest ∧ (rest = [] ∨ shed.2 ≤ bMax) ∧
      shed.2 = shed.1.foldl (fun d t => d - trayAllocation x t) dProj ∧
      ∀ front t back, shed.1 = front ++ t :: back →
        bMax < front.foldl (fun d t => d - trayAllocation x t) dProj

/-- The energy account apart from the tick: a battery is usable while it is in use and neither ABSENT nor FAULT;
E_cap is the capacity of the usable ones, with E_rem clamped to it, and in NORMAL E_rem is re-anchored to
what their energy signals hold (R62, R67, R70). A battery lost outside NORMAL takes its share of what
remains, in proportion to the anchor, before E_cap is formed anew (R69). A battery that enters IDLE or CHARGING in
RIDE is ordered DISCHARGE, and one that enters DISCHARGING in DEPLETED or RETURNING is ordered HOLD, unless that order
is queued or in flight already; no other change of a battery's state places an order (R66). -/
def Obligations.EnergyAccounted : Prop :=
  (∀ x : Shelf,
    let able := (List.range 6).filter fun k => (bbmAt x k).isSome &&
      (vget x.bbms k).state ≠ .absent && (vget x.bbms k).state ≠ .fault
    let cap := (able.map fun k => ((bbmAt x k).map (·.capacity)).getD 0).sum
    let stored := (able.map fun k =>
      1000 * ((bbmAt x k).map fun e => (vget x.signals e.energy).value).getD 0).sum
    (∀ k, usable x k = true ↔ (bbmAt x k).isSome = true ∧ (vget x.bbms k).state ≠ .absent ∧
      (vget x.bbms k).state ≠ .fault) ∧
    (∀ k, batteryEnergy x k =
      1000 * ((bbmAt x k).map fun e => (vget x.signals e.energy).value).getD 0) ∧
    storedEnergy x = stored ∧
    (x.ride.state = .normal →
      (energyUpdate x).ride = { x.ride with eRem := min x.ride.eCap stored, r := 0 } ∧
      (recomputeCapacity x).ride = { x.ride with eCap := cap, eRem := min cap stored, r := 0 }) ∧
    (x.ride.state ≠ .normal →
      energyUpdate x = x ∧
      (recomputeCapacity x).ride = { x.ride with eCap := cap, eRem := min x.ride.eRem cap })) ∧
  (∀ (x : Shelf) (k : Nat), k < 6 →
    let a := min (vget x.ride.shares k) x.ride.eAnchor
    (x.ride.state = .normal → batteryLost k x = x) ∧
    (x.ride.state ≠ .normal →
      (batteryLost k x).ride = { x.ride with
        eRem := if x.ride.eAnchor = 0 then x.ride.eRem
          else x.ride.eRem - a * x.ride.eRem / x.ride.eAnchor
        eAnchor := x.ride.eAnchor - a
        shares := vset x.ride.shares k 0 }) ∧
    ∀ old new : BbmState,
      let gone := fun st : BbmState => st = .absent ∨ st = .fault
      (¬gone old → gone new →
        (rideBattery k old new x).ride = (recomputeCapacity (batteryLost k x)).ride) ∧
      (gone old → (rideBattery k old new x).ride = (recomputeCapacity x).ride) ∧
      (¬gone old → ¬gone new → (rideBattery k old new x).ride = x.ride) ∧
      RideOrdered k (vget x.bbms k).state x (rideBattery k old new x))

/-- When the return qualify time has passed with its timer RUNNING, RETURNING is entered: every battery in
DISCHARGING or with a DISCHARGE queued or in flight has a HOLD placed and no other gets an order, the tick and
the timer stop, the return time is recorded and RIDE-RETURN posted, and the stack is to be tested (R79, R80). A
record with DEFICIT set in RETURNING is a second loss: RIDE again, DISCHARGE ordered as at the first entry, the
anchor, the shares and the summary kept, with one more return (R81). With the restore stack empty RETURNING
becomes NORMAL: the summary is closed, the account re-anchored and cleared, RIDE-NORMAL posted, and the Tray
Controller, the Module Monitor and the sequencer are told; with a tray on it nothing changes (R65, R82). -/
def Obligations.RideReturns : Prop :=
  (∀ (e : Ambient) (s : State) (t : Time), s.ride.state = .ride ∨ s.ride.state = .depleted →
    s.ride.qualify = some t →
    reached (s.shelfTime + e.elapsed)
      (t + BitVec.ofNat 32 (1000 * (policy s.toShelf).qualifyTime)) = true →
    exec (.qualifyTimerExpiry e) s = .next (closing (onShelf enterReturning (opening e s)))) ∧
  (∀ x : Shelf, x.ride.state = .ride ∨ x.ride.state = .depleted →
    let y := enterReturning x
    y.ride = { x.ride with
      state := .returning, tick := none, qualify := none
      openSummary := x.ride.openSummary.map fun z => { z with returnTime := some x.shelfTime } } ∧
    y.notices = offerNotice
      { time := x.shelfTime, source := 5, index := 0, code := 5, more := false
        word1 := x.bay.stack.length, word2 := min (x.balance.sGrid - x.balance.m) 65535 }
      x.notices ∧
    y.raised = (holdBatteries x).raised ++ [.stackChanged] ∧ HoldOrdered x y ∧ y.admitDue = true ∧
    y.bay = x.bay ∧ y.seq = x.seq ∧ y.balance = x.balance) ∧
  (∀ (x : Shelf) (line ok : Bool) (d : Nat), x.ride.state = .returning →
    rideRecord false line ok d x = x ∧
    let y := rideRecord true line ok d x
    y.ride = { x.ride with
      state := .ride, tick := some (x.shelfTime + 10000)
      openSummary := x.ride.openSummary.map fun z => { z with returns := min (z.returns + 1) 65535 } } ∧
    y.raised = (dischargeBatteries x).raised ++ (traysIn x .starting).map Task.shed ++
      [.postRideEnter d] ∧ DischargeOrdered x y ∧
    y.bay = x.bay ∧ y.seq = x.seq ∧ y.balance = x.balance ∧ y.notices = x.notices) ∧
  (∀ x : Shelf,
    (x.ride.state ≠ .returning ∨ x.bay.stack ≠ [] → stackChanged x = x) ∧
    (x.ride.state = .returning → x.bay.stack = [] →
      let y := stackChanged x
      let used := x.ride.eAnchor - x.ride.eRem
      y.ride = { x.ride with
        state := .normal
        closedSummary := x.ride.openSummary.map fun z =>
          { z with normalTime := some x.shelfTime, used := some used }
        openSummary := none
        eRem := min x.ride.eCap (storedEnergy x), r := 0, eAnchor := 0
        shares := Vector.replicate 6 0, qualify := none, tick := none } ∧
      y.notices = offerNotice
        { time := x.shelfTime, source := 5, index := 0, code := 6, more := false
          word1 := (x.ride.openSummary.map (·.shedCount)).getD 0
          word2 := min (used / 1000) 65535 } x.notices ∧
      y.admitDue = true ∧ Task.charge ∈ y.deferred ∧ Task.seqResume ∈ y.deferred ∧
      (∀ n < 8, vget y.drives n = driveLevel y n) ∧
      y.bay = x.bay ∧ y.seq = x.seq ∧ y.balance = x.balance ∧ y.bbms = x.bbms)) ∧
  ∀ (x : Shelf) (ok : Bool) (d : Nat), x.ride.state = .ride ∨ x.ride.state = .depleted →
    ∀ deficit line,
      (rideRecord deficit line ok d x).ride = { x.ride with
        qualify :=
          if ok then (if x.ride.qualify.isSome then x.ride.qualify else some x.shelfTime)
          else none }

/-! ### Zones -/

/-- A zone evaluation gives the state, the epoch, the confirm timer and the latch of R126, R127 and R128; an
expired confirm timer makes the zone WET with its latch time (R127, R129). CLEAR-ZONE is decided by the tests of
R132, in order; a clear makes the zone DRY with its epoch raised and its latch time kept, posts ZONE-STATE with
cause CLEAR, releases its trays and sets the drive lines (R130). A point is WET, DRY or UNKNOWN by the band of
its LEAK signal or the state of its LEAK line of this zone (R124); each in-use zone with a changed point is
evaluated (R125), and an evaluation that changes the state posts ZONE-STATE with cause POINT, DRY or COUNT, and
at an entry to WET has the zone's trays locked and sets the drive lines (R129, R131). An apply raises the epoch
and gives an entry in use an evaluation (R135). That zones are evaluated, and a cleared zone's trays released,
in ascending order is the model's choice (log entry 60). -/
def Obligations.ZonesEvaluatedAndCleared : Prop :=
  (∀ (e : Ambient) (zone epoch : Byte) (s : State), Calm s →
    let h := heard e s
    let z := zone.toNat
    let r := vget s.zones z
    let refused := fun st =>
      exec (.clearZone e zone epoch) s = .next (answered rqClearZone st [] h)
    (7 < z → refused stInvalid) ∧
    (z ≤ 7 →
      (zoneAt h.toShelf z = none → refused stNoEntry) ∧
      ((zoneAt h.toShelf z).isSome →
        (r.state ≠ .wet → refused stInvalid) ∧
        (r.state = .wet →
          (r.epoch ≠ epoch → refused stStaleEpoch) ∧
          (r.epoch = epoch →
            ((∃ p ∈ r.points, p ≠ .dry) → refused stNotDry) ∧
            ((∀ p ∈ r.points, p = .dry) →
              exec (.clearZone e zone epoch) s =
                .next (closing (told rqClearZone stDone [] (onShelf (clearZone z) h))))))))) ∧
  (∀ (z : Nat) (x : Shelf), z < 8 → (vget x.zones z).state = .wet →
    let y := clearZone z x
    let cleared := { vget x.zones z with state := .dry, epoch := (vget x.zones z).epoch + 1 }
    y.zones = vset x.zones z cleared ∧
      y.raised = x.raised ++ (zoneTrays x z).map Task.releaseTray ∧
      y.notices = offerNotice
        { time := x.shelfTime, source := 8, index := z, code := 9, more := false
          word1 := twoItems 2 0, word2 := twoItems cleared.epoch.toNat 4 } x.notices ∧
      (∀ d < 8, vget y.drives d = driveLevel y d) ∧
      y = { x with zones := y.zones, raised := y.raised, notices := y.notices, drives := y.drives }) ∧
  (∀ (entry : ZoneEntry) (points : List PointState) (now : Time) (z : Zone),
    let y := evaluateZone entry points now z
    let wet := (points.filter fun p => p = .wet).length
    let unknown := (points.filter fun p => p = .unknown).length
    let rises : Prop := z.state ≠ .wet ∧ z.wet = 0 ∧ 0 < wet
    y.points = points ∧ y.wet = wet ∧ y.unknown = unknown ∧
    (z.state = .wet → y.state = .wet ∧ y.latch = z.latch) ∧
    (z.state ≠ .wet → entry.confirmCount ≤ wet → y.state = .wet ∧ y.latch = now) ∧
    (z.state ≠ .wet → wet < entry.confirmCount →
      y.latch = z.latch ∧
        (wet = 0 → unknown = 0 → y.state = .dry) ∧ (0 < wet ∨ 0 < unknown → y.state = .suspect)) ∧
    (y.epoch =
      if y.state = z.state ∧ y.wet = z.wet ∧ y.unknown = z.unknown then z.epoch else z.epoch + 1) ∧
    (rises → y.firstWet = now) ∧ (¬rises → y.firstWet = z.firstWet) ∧
    (y.state ≠ .suspect ∨ wet = 0 → y.timer = .stopped) ∧
    (y.state = .suspect → rises → entry.confirmTime ≠ 0 →
      y.timer = .running (now + BitVec.ofNat 32 (entry.confirmTime * 1000))) ∧
    (y.state = .suspect → rises → entry.confirmTime = 0 → y.timer = .stopped) ∧
    (y.state = .suspect → 0 < wet → 0 < z.wet → y.timer = z.timer)) ∧
  (∀ (e : Ambient) (z : Fin 8) (s : State), (vget s.zones z).state = .suspect →
    expired (s.shelfTime + e.elapsed) (vget s.zones z).timer = true →
    exec (.confirmTimerExpiry e z) s = .next (closing (onShelf (confirmExpiry z) (opening e s)))) ∧
  (∀ (x : Shelf) (z : Nat), z < 8 → (vget x.zones z).state = .suspect →
    let y := confirmExpiry z x
    let old := vget x.zones z
    y.zones = vset x.zones z
      { old with state := .wet, timer := .stopped, latch := x.shelfTime, epoch := old.epoch + 1 } ∧
    y.raised = x.raised ++ (zoneTrays x z).map Task.lockTray ∧
    y.notices = offerNotice
      { time := x.shelfTime, source := 8, index := z, code := 9, more := false
        word1 := twoItems 1 2, word2 := twoItems (old.epoch + 1).toNat 3 } x.notices ∧
    ∀ d < 8, vget y.drives d = driveLevel y d) ∧
  (∀ (x : Shelf) (z : Nat),
    (∀ n,
      let fed := ∃ g, feeding x n = some g ∧ g.kind = .leak
      let band := (vget x.signals n).band
      (fed → band = .low ∨ band = .critLow → pointState x z (.signal n) = .wet) ∧
      (fed → band = .normal ∨ band = .high ∨ band = .critHigh → pointState x z (.signal n) = .dry) ∧
      (¬fed ∨ band = .unknown → pointState x z (.signal n) = .unknown)) ∧
    ∀ l,
      let mine := (senseAt x l).role = .leak ∧ (senseAt x l).index = z
      let active := (vget x.lines l).accepted = some (senseAt x l).active
      (mine → active → pointState x z (.line l) = .wet) ∧
      (mine → ¬active → pointState x z (.line l) = .dry) ∧
      (¬mine → pointState x z (.line l) = .unknown)) ∧
  (∀ x : Shelf, ∃ zs : List Nat,
    perform .zones x = { x with raised := x.raised ++ zs.map Task.zoneEval } ∧
      zs.Pairwise (· < ·) ∧
      ∀ z, z ∈ zs ↔ z < 8 ∧ ∃ entry, zoneAt x z = some entry ∧
        entry.points.map (pointState x z) ≠ (vget x.zones z).points) ∧
  (∀ (x : Shelf) (z : Nat), z < 8 →
    let y := perform (.zoneEval z) x
    (zoneAt x z = none → y = x) ∧
    ∀ entry, zoneAt x z = some entry →
      let old := vget x.zones z
      let new := evaluateZone entry (entry.points.map (pointState x z)) x.shelfTime old
      (new.state = old.state → y = { x with zones := vset x.zones z new }) ∧
      (new.state ≠ old.state →
        let number := fun st : ZoneState => match st with
          | .dry => 0
          | .suspect => 1
          | .wet => 2
        let cause := match new.state with
          | .suspect => 0
          | .dry => 1
          | .wet => 2
        y = { x with
          zones := vset x.zones z new
          notices := offerNotice
            { time := x.shelfTime, source := 8, index := z, code := 9, more := false
              word1 := twoItems (number old.state) (number new.state)
              word2 := twoItems new.epoch.toNat cause } x.notices
          raised := if new.state = .wet then x.raised ++ (zoneTrays x z).map Task.lockTray
            else x.raised
          drives := y.drives } ∧
        (new.state = .wet → ∀ d < 8, vget y.drives d = driveLevel y d) ∧
        (new.state ≠ .wet → y.drives = x.drives))) ∧
  (∀ (x : Shelf) (z : Nat), (zoneTrays x z).Pairwise (· < ·) ∧
    ∀ t, t ∈ zoneTrays x z ↔ t < 24 ∧ ∃ g, trayAt x t = some g ∧ g.zone = some z) ∧
  ∀ (old : Option ZoneEntry) (x : Shelf) (z : Nat), z < 8 →
    let y := applyZone z old x
    let r := vget x.zones z
    let becomes := fun (new : Zone) => vget y.zones z = { new with epoch := r.epoch + 1 }
    y = { x with zones := y.zones, raised := y.raised } ∧
    (∀ w ≠ z, vget y.zones w = vget x.zones w) ∧
    (y.raised = if (zoneAt x z).isSome then x.raised ++ [.zoneEval z] else x.raised) ∧
    (old.isSome → (zoneAt x z).isSome → becomes r) ∧
    (old = none → ∀ entry, zoneAt x z = some entry →
      becomes { r with
        state := .dry, points := List.replicate entry.points.length .dry, wet := 0, unknown := 0
        timer := .stopped, firstWet := 0 }) ∧
    (old.isSome → zoneAt x z = none →
      becomes { r with state := .dry, points := [], wet := 0, unknown := 0, timer := .stopped }) ∧
    (old = none → zoneAt x z = none → becomes r)

/-! ### Trays and programs -/

/-- An admission evaluation takes its candidate from the source that the ride state gives, and none while the
shelf stop condition is active or adoption is incomplete (R93); it admits the candidate while fewer trays are
STARTING than the start window and H is at least the tray's need, and ends otherwise (R94). Shedding takes an ON
or STARTING tray to SHEDDING on the top of the restore stack (R74, R98); a lock takes a tray from any state to
LOCKED, out of the queue and the stack (R100). The shelf stop takes a STARTING or ON tray to STOPPING with its
OUTPUT-OFF ordered, a SHEDDING one to STOPPING, and a QUEUED or SHED one to OFF; it leaves a tray in any other
state (R97, R104). A release takes a LOCKED tray to OFF with no order, and no other tray (R100, R130). At an
apply an entry taken out of use drops its record, leaves the queue, and is told of no outcome; one newly in use,
or moved to another Roster entry, starts afresh, LOCKED where its zone is WET; and one kept is locked or
released as its zone changes, a new head need being handed on (R106). That an order still queued stays,
forgotten like the one in flight, is log entry 55, and that a tray whose module is ABSENT is UNKNOWN like any
other taken in use is log entry 36. -/
def Obligations.TraysAdmittedShedAndLocked : Prop :=
  (∀ x : Shelf,
    let adopting := ∃ t < 24, (trayAt x t).isSome ∧ trayState x t = .unknown
    (x.shelfStop = true ∨ adopting → candidate x = none) ∧
    (x.shelfStop = false → ¬adopting →
      (x.ride.state = .normal → candidate x = x.bay.queue.head?) ∧
      (x.ride.state = .returning → candidate x = x.bay.stack.head?) ∧
      (x.ride.state = .ride ∨ x.ride.state = .depleted → candidate x = none)) ∧
    (candidate x = none → admissionTry x = { x with admitDue := false })) ∧
  (∀ (x : Shelf) (t : Nat) (entry : TrayEntry), candidate x = some t → t < 24 →
    trayAt x t = some entry →
    let starting := (List.range 24).filter fun u => (trayAt x u).isSome && trayState x u = .starting
    let admits : Prop := (trayState x t = .queued ∨ trayState x t = .shed) ∧
      starting.length < (policy x).startWindow ∧
      ((entry.allocation + entry.inrush : Nat) : Int) ≤ x.balance.h
    let y := admissionTry x
    (¬admits → y = { x with admitDue := false }) ∧
    (admits →
      vget y.bay.trays t = { vget x.bay.trays t with
        state := .starting, awaited := .on, startTimer := .stopped, fault := none, queuedBy := none
        stateTime := x.shelfTime } ∧
      y.bay.queue = x.bay.queue.filter (fun u => u ≠ t) ∧
      y.bay.stack = x.bay.stack.filter (fun u => u ≠ t) ∧
      y.admitDue = true ∧ TrayTold t x y ∧ TrayOrdered t 0x01 x y)) ∧
  (∀ (x : Shelf) (t : Nat), t < 24 →
    let r := vget x.bay.trays t
    let y := shedTray t x
    (r.state ≠ .on → r.state ≠ .starting → y = x) ∧
    (r.state = .on ∨ r.state = .starting →
      vget y.bay.trays t = { r with
        state := .shedding, awaited := .off, startTimer := .stopped, fault := none, queuedBy := none
        stateTime := x.shelfTime } ∧
      (t ∉ x.bay.stack → y.bay.stack = t :: x.bay.stack) ∧
      y.ride = { x.ride with
        openSummary := x.ride.openSummary.map fun z =>
          { z with shedCount := min (z.shedCount + 1) 65535 } } ∧
      TrayTold t x y ∧ TrayOrdered t 0x02 x y)) ∧
  (∀ (x : Shelf) (t : Nat), t < 24 →
    let r := vget x.bay.trays t
    let y := shelfStopTray t x
    let enters := fun (st : TrayState) (new : Tray) =>
      vget y.bay.trays t = { new with
        state := st, fault := none, queuedBy := none, stateTime := x.shelfTime } ∧
      y.bay.queue = x.bay.queue.filter (fun u => u ≠ t) ∧
      y.bay.stack = x.bay.stack.filter (fun u => u ≠ t) ∧ TrayTold t x y
    (r.state = .starting ∨ r.state = .on →
      enters .stopping { r with awaited := .off, startTimer := .stopped } ∧ TrayOrdered t 0x02 x y) ∧
    (r.state = .shedding →
      enters .stopping { r with awaited := .off, startTimer := .stopped } ∧ y.pollTp = x.pollTp) ∧
    (r.state = .queued ∨ r.state = .shed → enters .off r ∧ y.pollTp = x.pollTp) ∧
    (r.state = .unknown ∨ r.state = .off ∨ r.state = .stopping ∨ r.state = .locked ∨
      r.state = .fault → y = x)) ∧
  (∀ (x : Shelf) (t : Nat), t < 24 →
    let r := vget x.bay.trays t
    let y := lockTray t x
    (r.state = .locked → y = x) ∧
    (r.state ≠ .locked →
      vget y.bay.trays t = { r with
        state := .locked, awaited := .nothing, startTimer := .stopped, fault := none, queuedBy := none
        stateTime := x.shelfTime } ∧
      y.bay.queue = x.bay.queue.filter (fun u => u ≠ t) ∧
      y.bay.stack = x.bay.stack.filter (fun u => u ≠ t) ∧
      TrayTold t x y ∧
      (r.seen = .off → y.pollTp = x.pollTp) ∧ (r.seen ≠ .off → TrayOrdered t 0x02 x y))) ∧
  (∀ (x : Shelf) (t : Nat), t < 24 →
    let r := vget x.bay.trays t
    let y := releaseTray t x
    (r.state ≠ .locked → y = x) ∧
    (r.state = .locked →
      vget y.bay.trays t = { r with
        state := .off, fault := none, queuedBy := none, stateTime := x.shelfTime } ∧
      y.bay.queue = x.bay.queue.filter (fun u => u ≠ t) ∧
      y.bay.stack = x.bay.stack.filter (fun u => u ≠ t) ∧
      TrayTold t x y ∧ y.pollTp = x.pollTp)) ∧
  ∀ (old : List Record) (x : Shelf) (t : Nat), t < 24 →
    let before := decodeTray (recordOf old t)
    let r := vget x.bay.trays t
    let y := applyTray old t x
    let wet := fun e : TrayEntry => ∃ z, e.zone = some z ∧ (zoneAt x z).isSome = true ∧
      (vget x.zones z).state = .wet
    let forgotten := { x with pollTp := { x.pollTp with
      control := x.pollTp.control.map fun o : ControlOrder =>
        if o.target = Target.tray t then { o with target := .gone } else o
      inProgress := x.pollTp.inProgress.map fun g : Progress =>
        if g.order.target = Target.tray t then { g with order := { g.order with target := .gone } }
        else g } }
    let fresh := { forgotten with bay := { x.bay with trays := vset x.bay.trays t resetTray } }
    let leaves := (∀ u ≠ t, vget y.bay.trays u = vget x.bay.trays u) ∧
      y.bay.queue = x.bay.queue.filter (fun u => u ≠ t) ∧
      y.bay.stack = x.bay.stack.filter (fun u => u ≠ t) ∧
      (r.state = .starting → y.admitDue = true)
    let dropped := vget y.bay.trays t = resetTray ∧ y.pollTp = forgotten.pollTp ∧
      y.notices = x.notices
    (trayAt x t = none → (before = none → y = x) ∧ (before.isSome → leaves ∧ dropped)) ∧
    ∀ e, trayAt x t = some e →
      (before = none ∨ (∃ a, before = some a ∧ a.roster ≠ e.roster) →
        leaves ∧
        (before.isSome → r.state ≠ .unknown ∨ r.seen ≠ .unknown →
          Task.balance ∈ y.raised ∧ Cause.tray ∈ y.causes) ∧
        (¬wet e → dropped) ∧
        (wet e →
          vget y.bay.trays t = { resetTray with state := .locked, stateTime := x.shelfTime } ∧
            TrayTold t fresh y ∧ TrayOrdered t 0x02 x y)) ∧
      ∀ a, before = some a → a.roster = e.roster →
        let turned := fun z : Shelf =>
          let headNeed := (a.allocation ≠ e.allocation ∨ a.inrush ≠ e.inrush) ∧
            z.bay.queue.head? = some t
          (headNeed → y = { z with deferred := alsoWaits .charge z.deferred }) ∧
            (¬headNeed → y = z)
        (a.zone = e.zone → turned x) ∧ (a.zone ≠ e.zone → wet e → turned (lockTray t x)) ∧
          (a.zone ≠ e.zone → ¬wet e → turned (releaseTray t x))

/-- A tray's record follows the outcome of the order it awaits, and of no other (R90, R91); the status words of its
reports, with its power-good (R88, R89, R95, R96); the edges of its TRAY-GOOD line (R95, R96); its module's absence
(R96); and its start timer, which makes a STARTING tray FAULT with cause NO-GOOD (R95, R96). An entry to FAULT from
STARTING or ON orders OUTPUT-OFF unless output-seen is OFF. A tray adopted ON is then to be stopped while the shelf
stop condition is active, to be shed in DEPLETED while it is not, and otherwise neither (R89, R98, R104); that the
stop goes before the shedding, and that it is a change of its own, are log entries 41 and 48. A status word's bit 2,
FAULT, does nothing to a tray (log entry 68). Adoption is complete where no in-use tray is UNKNOWN (R89). -/
def Obligations.TrayRecordsFollow : Prop :=
  (∀ (e : Ambient) (t : Fin 24) (s : State), trayState s.toShelf t = .starting →
    expired (s.shelfTime + e.elapsed) (vget s.bay.trays t).startTimer = true →
    exec (.startTimerExpiry e t) s =
        .next (closing (onShelf (faultTray t .noGood) (opening e s))) ∧
      let y := faultTray t .noGood (opening e s).toShelf
      (vget y.bay.trays t).state = .fault ∧ (vget y.bay.trays t).fault = some .noGood ∧
        (vget y.bay.trays t).awaited = .nothing ∧ (vget y.bay.trays t).startTimer = .stopped ∧
        ∀ u ≠ t.val, vget y.bay.trays u = vget s.bay.trays u) ∧
  (∀ x : Shelf, adoptionComplete x = true ↔
    ∀ t < 24, (trayAt x t).isSome = true → trayState x t ≠ .unknown) ∧
  ∀ (x : Shelf) (t : Nat) (entry : TrayEntry), t < 24 → trayAt x t = some entry →
    let r := vget x.bay.trays t
    let now := x.shelfTime
    let enters := fun (y : Shelf) (st : TrayState) (new : Tray) =>
      vget y.bay.trays t = { new with state := st, stateTime := now, queuedBy := none } ∧
        TrayTold t x y
    let faulted := fun (y : Shelf) (seen : Seen) (cause : TrayFault) =>
      enters y .fault
          { r with seen, fault := some cause, awaited := .nothing, startTimer := .stopped } ∧
        (r.state = .starting ∨ r.state = .on → seen ≠ .off → TrayOrdered t 0x02 x y) ∧
        (r.state = .stopping ∨ r.state = .shedding ∨ seen = .off → y.pollTp = x.pollTp)
    let good := fun (y : Shelf) (seen : Seen) (time : Time) =>
      enters y .on { r with
        seen, fault := none, awaited := .nothing, startTimer := .stopped
        duration := if (time - r.enableTime).toNat < 2147483648 then time - r.enableTime else 0 }
    let fails := fun (o : OrderOutcome) (cause : TrayFault) =>
      (∃ st ≠ 0, o = .ack st ∧ cause = .refused) ∨ (o = .noAnswer ∧ cause = .noAnswer) ∨
        (o = .portOff ∧ cause = .absent)
    (∀ code o, (r.awaited = .nothing ∨ (r.awaited = .on ∧ code ≠ 0x01) ∨
        (r.awaited = .off ∧ code ≠ 0x02)) → trayOutcome t code o x = x) ∧
    (r.state = .starting → r.awaited = .on →
      let lit := (goodLineOf x t).any (lineActive x)
      let y := trayOutcome t 0x01 (.ack 0x00) x
      (lit = false →
        y = { x with bay := { x.bay with
          trays := vset x.bay.trays t { r with
            awaited := .nothing, enableTime := now
            startTimer := .running (now + BitVec.ofNat 32 (entry.startTimeout * 1000)) } } }) ∧
      (lit = true → enters y .on { r with
        fault := none, awaited := .nothing, enableTime := now, startTimer := .stopped
        duration := 0 }) ∧
      ∀ o cause, fails o cause → faulted (trayOutcome t 0x01 o x) r.seen cause) ∧
    (r.state = .stopping ∨ r.state = .shedding → r.awaited = .off →
      enters (trayOutcome t 0x02 (.ack 0x00) x) (if r.state = .stopping then .off else .shed)
          { r with fault := none, awaited := .nothing } ∧
        ∀ o cause, fails o cause → faulted (trayOutcome t 0x02 o x) r.seen cause) ∧
    (∀ (word : Nat) (time : Time),
      let seen := if word.testBit 4 then Seen.on else .off
      let ready := word.testBit 5
      let y := trayStatus t word time x
      let kept := vget y.bay.trays t = { r with seen } ∧
        (∀ u, u ≠ t → vget y.bay.trays u = vget x.bay.trays u) ∧ y.notices = x.notices
      (r.seen ≠ seen → Task.balance ∈ y.raised ∧ Cause.tray ∈ y.causes) ∧
      (r.state = .unknown →
        let on := word.testBit 4 && ready
        let acts := on = true ∧ (x.shelfStop = true ∨ x.ride.state = .depleted)
        enters y (if on then .on else .off) { r with seen, fault := none } ∧
        (acts → y.raised.getLast? = some
          (if x.shelfStop then .shelfStopTray t else .shed t)) ∧
        (¬acts → ∀ u, (Task.shed u ∈ y.raised → Task.shed u ∈ x.raised) ∧
          (Task.shelfStopTray u ∈ y.raised → Task.shelfStopTray u ∈ x.raised))) ∧
      (r.state = .starting →
        (ready = true → isRunning r.startTimer = true → good y seen time) ∧
        (ready = false ∨ isRunning r.startTimer = false → kept)) ∧
      (r.state = .on → (ready = true → kept) ∧ (ready = false → faulted y seen .goodLost)) ∧
      (r.state ≠ .unknown → r.state ≠ .starting → r.state ≠ .on → kept)) ∧
    (∀ (rising : Bool) (time : Time),
      let y := trayLineEdge t rising time x
      (r.state = .starting →
        (rising = true → isRunning r.startTimer = true → good y r.seen time) ∧
        (rising = false ∨ isRunning r.startTimer = false → y = x)) ∧
      (r.state = .on → (rising = true → y = x) ∧ (rising = false → faulted y r.seen .goodLost)) ∧
      (r.state ≠ .starting → r.state ≠ .on → y = x)) ∧
    let y := trayAbsent t x
    (r.seen ≠ .unknown → Task.balance ∈ y.raised ∧ Cause.tray ∈ y.causes) ∧
    (r.state = .unknown ∨ r.state = .queued →
      enters y .off { r with seen := .unknown, fault := none }) ∧
    (r.state = .starting ∨ r.state = .on → faulted y .unknown .absent) ∧
    (r.state ≠ .unknown → r.state ≠ .queued → r.state ≠ .starting → r.state ≠ .on →
      vget y.bay.trays t = { r with seen := .unknown } ∧
        (∀ u, u ≠ t → vget y.bay.trays u = vget x.bay.trays u) ∧ y.notices = x.notices)

/-- A step that completes counts, stops its timers and names the step to follow: entered if it is in use,
halting the run with BAD-STEP if not, and with LOOP at the 32nd in one walk (R110, R115). An expired step
timer completes its step with alternate and an expired delay timer with next; a pending autostart starts
its run when its condition holds, and a run whose entry step is not in use halts at once with BAD-STEP, the notice
naming the entry step twice (R113, R114, R120). A WAITING step of any kind but DELAY tests its condition again when it
is asked to, and completes with next where it holds (R113). A step that is entered is counted and carried out by its
kind: START asks for its trays and then completes, BRANCH-ZONE completes at once by its zone, END ends the run,
and every other kind completes with next where its condition holds and waits with its timer where it does not
(R111, R112, R113, R114). As the ride state leaves NORMAL a WAITING sequencer is HELD and its RUNNING timers are
FROZEN; at NORMAL they run on for the time that was left, and the step tests its condition (R116; a step that
waits in a ride state other than NORMAL is HELD at once, log entry 39). That a resume which comes
when a DEFICIT record of the same event has made the ride state RIDE again changes nothing is the model's choice (log
entry 75). The shelf stop aborts a run, and does nothing to an IDLE sequencer (R119). The step of a HALTED last outcome is the notice's source
index (log entry 62). -/
def Obligations.ProgramStepsAndTimers : Prop :=
  (∀ (e : Ambient) (s : State) (n : Nat) (entry : StepEntry), s.seq.state = .waiting →
    s.seq.pointer = some n → stepAt s.toShelf n = some entry →
    (expired (s.shelfTime + e.elapsed) s.seq.stepTimer = true →
      exec (.stepTimerExpiry e) s =
        .next (closing (onShelf (completeStep entry.alternate) (opening e s)))) ∧
    (expired (s.shelfTime + e.elapsed) s.seq.delayTimer = true →
      exec (.delayTimerExpiry e) s =
        .next (closing (onShelf (completeStep entry.next) (opening e s))))) ∧
  (∀ (e : Ambient) (s : State),
    exec (.autostart e) s = .next (closing (onShelf (perform .autostartTest) (opening e s)))) ∧
  (∀ x : Shelf,
    (autostartCondition x = true ↔ (∀ t < 24, (trayAt x t).isSome → trayState x t ≠ .unknown) ∧
      x.ride.state = .normal ∧ x.shelfStop = false ∧ x.seq.state = .idle) ∧
    (x.seq.autostart = none ∨ autostartCondition x = false → perform .autostartTest x = x) ∧
    ∀ n, x.seq.autostart = some n → autostartCondition x = true →
      let run := { x.seq with
        state := .running, entry := some n, origin := some .autostart, runCount := 0
        stepsTaken := 0, outcome := none, autostart := none }
      ((stepAt x n).isSome →
        perform .autostartTest x = { x with seq := run, raised := x.raised ++ [.seqEnter n] }) ∧
      (stepAt x n = none →
        perform .autostartTest x = { x with
          seq := { run with
            state := .idle, pointer := none, stepTimer := .stopped, delayTimer := .stopped
            outcome := some (.halted .badStep n) }
          notices := offerNotice
            { time := x.shelfTime, source := 7, index := n, code := 12, more := false
              word1 := 0, word2 := n } x.notices })) ∧
  (∀ (x : Shelf) (n : Nat) (entry : StepEntry), stepAt x n = some entry →
    let at_ := { x with
      seq := { x.seq with
        state := .running, pointer := some n, stepsTaken := min (x.seq.stepsTaken + 1) 65535 } }
    let y := enterStep n x
    let timer := fun ms : Nat => if ms = 0 then Timer.stopped
      else .running (x.shelfTime + BitVec.ofNat 32 (1000 * ms))
    let trays := (List.range 24).filter fun t => entry.traySet.testBit t
    let holds := StepHolds x entry
    (entry.kind = .start → y = { at_ with raised := x.raised ++ [.seqStart trays] }) ∧
    (entry.kind = .branchZone →
      y = completeStep
        (if (zoneAt x entry.argument).isSome ∧ (vget x.zones entry.argument).state = .wet then
          entry.alternate else entry.next) at_) ∧
    (entry.kind = .finish →
      y = { at_ with
        seq := { at_.seq with
          state := .idle, pointer := none, stepTimer := .stopped, delayTimer := .stopped
          outcome := some (.ended n) }
        notices := offerNotice
          { time := x.shelfTime, source := 7, index := n, code := 11, more := false
            word1 := x.seq.entry.getD 0, word2 := at_.seq.stepsTaken } x.notices }) ∧
    (holds → y = completeStep entry.next at_) ∧
    (entry.kind = .awaitTrays ∨ entry.kind = .awaitHeadroom ∨ entry.kind = .awaitEnergy ∨
        entry.kind = .delay → ¬holds →
      let waits := { at_ with
        seq := { at_.seq with
          state := .waiting, runCount := 0
          stepTimer := if entry.kind = .delay then .stopped else timer entry.timeout
          delayTimer := if entry.kind = .delay then timer entry.argument else .stopped } }
      (x.ride.state = .normal → y = waits) ∧ (x.ride.state ≠ .normal → y = holdSequencer waits))) ∧
  (∀ (x : Shelf) (n : Nat) (entry : StepEntry) (trays : List Nat), x.seq.state = .running →
    x.seq.pointer = some n → stepAt x n = some entry →
    startTrays [] x = completeStep entry.next x ∧
      ∀ t, startTrays (t :: trays) x =
        let y := requestAdmission t .program x
        { y with deferred := .seqStart trays :: y.deferred }) ∧
  (∀ (x : Shelf) (t : Nat) (origin : QueuedBy), t < 24 →
    let r := vget x.bay.trays t
    let y := requestAdmission t origin x
    ((trayAt x t).isSome → r.state = .off →
      vget y.bay.trays t = { r with
        state := .queued, fault := none, queuedBy := some origin, stateTime := x.shelfTime } ∧
      (t ∉ x.bay.queue → y.bay.queue = x.bay.queue ++ [t]) ∧ y.admitDue = true ∧ TrayTold t x y) ∧
    (trayAt x t = none ∨ r.state ≠ .off → y = x)) ∧
  (∀ x : Shelf,
    let frozen := fun timer : Timer => match timer with
      | .running expiry => Timer.frozen (expiry - x.shelfTime)
      | other => other
    let resumed := fun timer : Timer => match timer with
      | .frozen left => Timer.running (x.shelfTime + left)
      | other => other
    (x.seq.state = .waiting →
      holdSequencer x = { x with
        seq := { x.seq with
          state := .held, stepTimer := frozen x.seq.stepTimer
          delayTimer := frozen x.seq.delayTimer } }) ∧
    (x.seq.state ≠ .waiting → holdSequencer x = x) ∧
    let again := { x with
      seq := { x.seq with
        state := .waiting, stepTimer := resumed x.seq.stepTimer
        delayTimer := resumed x.seq.delayTimer } }
    (x.seq.state ≠ .held ∨ x.ride.state ≠ .normal → resumeSequencer x = x) ∧
    (x.seq.state = .held → x.ride.state = .normal →
      ∀ n entry, x.seq.pointer = some n → stepAt x n = some entry →
        resumeSequencer x =
          if entry.kind ≠ .delay ∧ stepCondition x entry = true then completeStep entry.next again
          else again) ∧
    (∀ entry, stepCondition x entry = true ↔ StepHolds x entry) ∧
    (x.seq.state ≠ .waiting → testStep x = x) ∧
    (x.seq.state = .waiting → ∀ n entry, x.seq.pointer = some n → stepAt x n = some entry →
      (entry.kind ≠ .delay → StepHolds x entry → testStep x = completeStep entry.next x) ∧
      (entry.kind = .delay ∨ ¬StepHolds x entry → testStep x = x))) ∧
  (∀ x : Shelf,
    let withdrawn := x.bay.queue.filter fun t => (vget x.bay.trays t).queuedBy = some .program
    let at_ := x.seq.pointer.getD 0
    (x.seq.state = .idle → seqShelfStop x = x) ∧
    (x.seq.state ≠ .idle →
      seqShelfStop x = { x with
        raised := x.raised ++ withdrawn.map Task.withdraw ++
          [.seqHalt .shelfStop at_ withdrawn.length] }) ∧
    ∀ (cause : HaltCause) (source word : Nat),
      perform (.seqHalt cause source word) x = { x with
        seq := { x.seq with
          state := .idle, pointer := none, stepTimer := .stopped, delayTimer := .stopped
          outcome := some (.halted cause source) }
        notices := offerNotice
          { time := x.shelfTime, source := 7, index := source, code := 12, more := false
            word1 := haltCauseNumber cause, word2 := word } x.notices }) ∧
  ∀ (x : Shelf) (n : Nat),
    let q := { x.seq with
      state := .running, runCount := x.seq.runCount + 1, stepTimer := .stopped
      delayTimer := .stopped }
    let at_ := x.seq.pointer.getD 0
    let halted := fun (cause : HaltCause) (number : Nat) => { x with
      seq := { q with
        state := .idle, pointer := none, outcome := some (.halted cause at_) }
      notices := offerNotice
        { time := x.shelfTime, source := 7, index := at_, code := 12, more := false
          word1 := number, word2 := n } x.notices }
    (x.seq.runCount < 31 → (stepAt x n).isSome →
      completeStep n x = { x with seq := q, raised := x.raised ++ [.seqEnter n] }) ∧
    (x.seq.runCount < 31 → stepAt x n = none → completeStep n x = halted .badStep 0) ∧
    (31 ≤ x.seq.runCount → completeStep n x = halted .loop 1)
end

