-- ==== Sys2Proof/Laws/Ops.lean ====
section
/-! SUPPORT. The laws of the shared operations: items of fixed populations, notices (R168), replies (R165)
and the fields of ports. -/

namespace Sys2Proof.Machine

/-! ### Fixed populations -/

section Populations

variable {α : Type} [Inhabited α] {n : Nat}

/-- An item replaced is read back, where there is one; no other item changes. -/
theorem vget_vset (v : Vector α n) (i j : Nat) (a : α) :
    vget (vset v i a) j = if i = j ∧ j < n then a else vget v j := by
  unfold vget vset
  rw [Vector.getElem?_setIfInBounds]
  by_cases h : i = j
  · subst h
    by_cases hn : i < n
    · simp [hn]
    · simp [hn]
  · simp [h]

/-- An item replaced within the population is read back. -/
@[simp] theorem vget_vset_self (v : Vector α n) (i : Nat) (a : α) (h : i < n) :
    vget (vset v i a) i = a := by simp [vget_vset, h]

/-- No other item changes. -/
@[simp] theorem vget_vset_ne (v : Vector α n) {i j : Nat} (a : α) (h : i ≠ j) :
    vget (vset v i a) j = vget v j := by simp [vget_vset, h]

/-- An item changed is read back changed, where there is one; no other item changes. -/
theorem vget_vmod (v : Vector α n) (i j : Nat) (f : α → α) :
    vget (vmod v i f) j = if i = j ∧ j < n then f (vget v j) else vget v j := by
  unfold vmod
  rw [vget_vset]
  by_cases h : i = j
  · subst h
    rfl
  · simp [h]

/-- An item outside the population reads as the default. -/
theorem vget_default (v : Vector α n) {i : Nat} (h : n ≤ i) : vget v i = default := by
  simp [vget, h]

/-- Every item of a population that repeats one. -/
@[simp] theorem vget_replicate (a : α) {i : Nat} (h : i < n) : vget (Vector.replicate n a) i = a := by
  simp [vget, h]

/-- Every item of a population given by a function. -/
@[simp] theorem vget_ofFn (f : Fin n → α) {i : Nat} (h : i < n) :
    vget (Vector.ofFn f) i = f ⟨i, h⟩ := by simp [vget, h]

end Populations

/-! ### Notices -/

/-- Marking the newest notice keeps their number. -/
@[simp] theorem length_markMore : ∀ q : List Notice, (markMore q).length = q.length
  | [] => rfl
  | [_] => rfl
  | _ :: b :: rest => by
    simp only [markMore, List.length_cons]
    exact congrArg (· + 1) (length_markMore (b :: rest))

/-- The newest notice is the one that is marked. -/
theorem markMore_append (front : List Notice) (newest : Notice) :
    markMore (front ++ [newest]) = front ++ [{ newest with more := true }] := by
  induction front with
  | nil => rfl
  | cons a front ih =>
    cases front with
    | nil => rfl
    | cons b rest => simpa [markMore] using ih

/-- A queue within its depth stays within it when a notice is offered (R168). -/
theorem length_offerNotice (n : Notice) {q : List Notice} (h : q.length ≤ Config.noticeDepth) :
    (offerNotice n q).length ≤ Config.noticeDepth := by
  unfold offerNotice
  split
  · simp only [List.length_append, List.length_cons, List.length_nil]
    omega
  · simpa using h

/-- A notice that finds a place joins the tail (R168). -/
theorem offerNotice_place (n : Notice) {q : List Notice} (h : q.length < Config.noticeDepth) :
    offerNotice n q = q ++ [n] := if_pos h

/-! ### Replies -/

/-- Placing a reply touches the reply queue and the reply wait alone (R165). -/
theorem placeReply_eq (f : TxFrame) (s : Shelf) :
    placeReply f s =
      { s with replies := (placeReply f s).replies, replyWait := (placeReply f s).replyWait } := by
  unfold placeReply
  split <;> rfl

/-- The reply queue stays within its depth (R167). -/
theorem length_placeReply (f : TxFrame) {s : Shelf} (h : s.replies.length ≤ Config.replyDepth) :
    (placeReply f s).replies.length ≤ Config.replyDepth := by
  unfold placeReply
  split
  · simp only [List.length_append, List.length_cons, List.length_nil]
    omega
  · exact h

/-- Placing several replies touches the reply queue and the reply wait alone. -/
theorem placeReplies_eq (fs : List Frame) (s : Shelf) :
    placeReplies fs s =
      { s with
        replies := (placeReplies fs s).replies, replyWait := (placeReplies fs s).replyWait } := by
  unfold placeReplies
  induction fs generalizing s with
  | nil => rfl
  | cons f rest ih =>
    rw [List.foldl_cons, ih, placeReply_eq]

/-! ### Fields of ports -/

/-- A port's Port Engine after it is set, and every other port's. -/
theorem engine_setEngine (p q : Port) (e : PortEngine) (s : Shelf) :
    engine (setEngine p e s) q = if q = p then e else engine s q := by
  cases p <;> cases q <;> rfl

/-- A downstream port's Poll Engine after it is set, and every other port's. -/
theorem pollEngine_setPoll (p q : Port) (e : PollEngine) (s : Shelf) :
    pollEngine (setPoll p e s) q = if q = p ∧ p ≠ .up then e else pollEngine s q := by
  cases p <;> cases q <;> rfl

/-- Setting a Port Engine leaves the Poll Engines. -/
@[simp] theorem pollEngine_setEngine (p q : Port) (e : PortEngine) (s : Shelf) :
    pollEngine (setEngine p e s) q = pollEngine s q := by
  cases p <;> cases q <;> rfl

/-- Setting a Poll Engine leaves the Port Engines. -/
@[simp] theorem engine_setPoll (p q : Port) (e : PollEngine) (s : Shelf) :
    engine (setPoll p e s) q = engine s q := by
  cases p <;> cases q <;> rfl

/-- Setting a Port Engine touches the Port Engines alone. -/
theorem setEngine_eq (p : Port) (e : PortEngine) (s : Shelf) :
    setEngine p e s =
      { s with
        engUp := (setEngine p e s).engUp, engSp := (setEngine p e s).engSp
        engTp := (setEngine p e s).engTp } := by
  cases p <;> rfl

/-- Setting a Poll Engine touches the Poll Engines alone. -/
theorem setPoll_eq (p : Port) (e : PollEngine) (s : Shelf) :
    setPoll p e s =
      { s with pollSp := (setPoll p e s).pollSp, pollTp := (setPoll p e s).pollTp } := by
  cases p <;> rfl

/-! ### Reactions -/

/-- Leaving a reaction for later touches the deferred reactions alone. -/
theorem postpone_eq (t : Task) (s : Shelf) :
    postpone t s = { s with deferred := (postpone t s).deferred } := by
  unfold postpone
  split <;> rfl

/-- Gathering a cause touches the causes alone. -/
theorem addCause_eq (s : Shelf) (c : Cause) : addCause s c = { s with causes := (addCause s c).causes } := by
  unfold addCause
  split <;> rfl

/-- Gathering causes touches the causes alone. -/
theorem foldl_addCause_eq (cs : List Cause) (s : Shelf) :
    cs.foldl addCause s = { s with causes := (cs.foldl addCause s).causes } := by
  induction cs generalizing s with
  | nil => rfl
  | cons c rest ih => rw [List.foldl_cons, ih, addCause_eq]

/-- A change handed on to the Balance Unit touches the causes and the reactions alone. -/
theorem changed_eq (cs : List Cause) (s : Shelf) :
    changed cs s = { s with causes := (changed cs s).causes, raised := (changed cs s).raised } := by
  unfold changed
  split
  · rfl
  · rw [foldl_addCause_eq]
    rfl

end Sys2Proof.Machine
end

