-- ==== Sys2Proof/Laws/Balance.lean ====
section
/-! SUPPORT. What a recomputation can do (R27, R35, R37), said once. -/

namespace Sys2Proof.Machine

/-- A postponed reaction waits, once. -/
theorem postpone_alsoWaits (t : Task) (s : Shelf) :
    postpone t s = { s with deferred := alsoWaits t s.deferred } := by
  unfold postpone alsoWaits
  split <;> rfl

/-- An admission evaluation that is asked for on a condition. -/
theorem admissionDue_if (b : Prop) [Decidable b] (s : Shelf) :
    (if b then admissionDue s else s) = { s with admitDue := s.admitDue || decide b } := by
  by_cases h : b <;> simp [h, admissionDue]

/-- OVERCOMMIT is posted where the mark becomes set (R35). -/
theorem overcommitNotice_eq (old new : Balance) (s : Shelf) :
    overcommitNotice old new s = { s with
      notices :=
        if new.overcommit = true ∧ old.overcommit = false then
          offerNotice
            { time := s.shelfTime, source := 2, index := 0, code := 10, more := false
              word1 := min (-new.h).toNat 65535, word2 := min new.sAdm 65535 } s.notices
        else s.notices } := by
  unfold overcommitNotice
  cases new.overcommit <;> cases old.overcommit <;> rfl

/-- The Module Monitor and the Program Sequencer are told in the event's order (R37; log entry 3). -/
theorem tellMonitorAndSequencer_eq (b : Bool) (s : Shelf) :
    tellMonitorAndSequencer b s = { s with
      deferred :=
        if s.ambient.chargeFirst then
          alsoWaits .seqTest (if b then alsoWaits .charge s.deferred else s.deferred)
        else if b then alsoWaits .charge (alsoWaits .seqTest s.deferred)
        else alsoWaits .seqTest s.deferred } := by
  unfold tellMonitorAndSequencer
  simp only [postpone_alsoWaits]
  cases h : s.ambient.chargeFirst <;> cases b <;> simp

/-- A recomputation over a state whose causes have been taken is handed on as R37 says. -/
theorem recompute_handed (causes cs : List Cause) (x : Shelf) :
    BalanceHanded causes x (recompute causes { x with causes := cs, applying := none }) := by
  refine ⟨rfl, ?_⟩
  unfold recompute
  have same : balanceNow { x with causes := cs, applying := none } causes = balanceNow x causes := rfl
  simp only [same]
  generalize hn : balanceNow x causes = new
  rw [overcommitNotice_eq]
  unfold handOnBalance
  simp only [admissionDue_if, tellMonitorAndSequencer_eq, emit]
  have line : causes.contains Cause.psmLine = decide (Cause.psmLine ∈ causes) := List.elem_eq_mem _ _
  have given : new.causes = causes := by rw [← hn]; rfl
  rw [given]
  simp only [line]
  unfold rideTurnOf
  cases x.ambient.rideTurn <;> by_cases walk : x.seq.state = .running <;>
    by_cases h : new.h0 = x.balance.h0 <;>
    simp only [h, walk, reduceCtorEq, and_true, and_false, and_self, decide_true, decide_false, ne_eq, not_true_eq_false, not_false_eq_true,
      Bool.false_eq_true, if_true, if_false, Ne.symm] <;>
    rfl

end Sys2Proof.Machine
end

