-- ==== Sys2Proof/Laws/State.lean ====
section
/-! SUPPORT. One lemma for each field and each named update of the state: the fields an update does not touch
stay as they were. -/

namespace Sys2Proof.Machine

set_option Elab.async false

/-! ### `emit` touches `raised` -/

@[simp] theorem emit_shelfTime (t : Task) (s : Shelf) : (emit t s).shelfTime = s.shelfTime := rfl
@[simp] theorem emit_ambient (t : Task) (s : Shelf) : (emit t s).ambient = s.ambient := rfl
@[simp] theorem emit_tables (t : Task) (s : Shelf) : (emit t s).tables = s.tables := rfl
@[simp] theorem emit_loads (t : Task) (s : Shelf) : (emit t s).loads = s.loads := rfl
@[simp] theorem emit_window (t : Task) (s : Shelf) : (emit t s).window = s.window := rfl
@[simp] theorem emit_lines (t : Task) (s : Shelf) : (emit t s).lines = s.lines := rfl
@[simp] theorem emit_sampling (t : Task) (s : Shelf) : (emit t s).sampling = s.sampling := rfl
@[simp] theorem emit_shelfStop (t : Task) (s : Shelf) : (emit t s).shelfStop = s.shelfStop := rfl
@[simp] theorem emit_drives (t : Task) (s : Shelf) : (emit t s).drives = s.drives := rfl
@[simp] theorem emit_signals (t : Task) (s : Shelf) : (emit t s).signals = s.signals := rfl
@[simp] theorem emit_balance (t : Task) (s : Shelf) : (emit t s).balance = s.balance := rfl
@[simp] theorem emit_psms (t : Task) (s : Shelf) : (emit t s).psms = s.psms := rfl
@[simp] theorem emit_bbms (t : Task) (s : Shelf) : (emit t s).bbms = s.bbms := rfl
@[simp] theorem emit_chargeBudget (t : Task) (s : Shelf) :
    (emit t s).chargeBudget = s.chargeBudget := rfl
@[simp] theorem emit_ride (t : Task) (s : Shelf) : (emit t s).ride = s.ride := rfl
@[simp] theorem emit_bay (t : Task) (s : Shelf) : (emit t s).bay = s.bay := rfl
@[simp] theorem emit_seq (t : Task) (s : Shelf) : (emit t s).seq = s.seq := rfl
@[simp] theorem emit_zones (t : Task) (s : Shelf) : (emit t s).zones = s.zones := rfl
@[simp] theorem emit_engUp (t : Task) (s : Shelf) : (emit t s).engUp = s.engUp := rfl
@[simp] theorem emit_engSp (t : Task) (s : Shelf) : (emit t s).engSp = s.engSp := rfl
@[simp] theorem emit_engTp (t : Task) (s : Shelf) : (emit t s).engTp = s.engTp := rfl
@[simp] theorem emit_pollSp (t : Task) (s : Shelf) : (emit t s).pollSp = s.pollSp := rfl
@[simp] theorem emit_pollTp (t : Task) (s : Shelf) : (emit t s).pollTp = s.pollTp := rfl
@[simp] theorem emit_modules (t : Task) (s : Shelf) : (emit t s).modules = s.modules := rfl
@[simp] theorem emit_replies (t : Task) (s : Shelf) : (emit t s).replies = s.replies := rfl
@[simp] theorem emit_replyWait (t : Task) (s : Shelf) : (emit t s).replyWait = s.replyWait := rfl
@[simp] theorem emit_notices (t : Task) (s : Shelf) : (emit t s).notices = s.notices := rfl
@[simp] theorem emit_telemetry (t : Task) (s : Shelf) : (emit t s).telemetry = s.telemetry := rfl
@[simp] theorem emit_telemetryRun (t : Task) (s : Shelf) :
    (emit t s).telemetryRun = s.telemetryRun := rfl
@[simp] theorem emit_telemetryDrops (t : Task) (s : Shelf) :
    (emit t s).telemetryDrops = s.telemetryDrops := rfl
@[simp] theorem emit_restart (t : Task) (s : Shelf) : (emit t s).restart = s.restart := rfl
@[simp] theorem emit_level (t : Task) (s : Shelf) : (emit t s).level = s.level := rfl
@[simp] theorem emit_agenda (t : Task) (s : Shelf) : (emit t s).agenda = s.agenda := rfl
@[simp] theorem emit_deferred (t : Task) (s : Shelf) : (emit t s).deferred = s.deferred := rfl
@[simp] theorem emit_admitDue (t : Task) (s : Shelf) : (emit t s).admitDue = s.admitDue := rfl
@[simp] theorem emit_causes (t : Task) (s : Shelf) : (emit t s).causes = s.causes := rfl
@[simp] theorem emit_applying (t : Task) (s : Shelf) : (emit t s).applying = s.applying := rfl

/-! ### `emitAll` touches `raised` -/

@[simp] theorem emitAll_shelfTime (ts : List Task) (s : Shelf) :
    (emitAll ts s).shelfTime = s.shelfTime := rfl
@[simp] theorem emitAll_ambient (ts : List Task) (s : Shelf) :
    (emitAll ts s).ambient = s.ambient := rfl
@[simp] theorem emitAll_tables (ts : List Task) (s : Shelf) :
    (emitAll ts s).tables = s.tables := rfl
@[simp] theorem emitAll_loads (ts : List Task) (s : Shelf) : (emitAll ts s).loads = s.loads := rfl
@[simp] theorem emitAll_window (ts : List Task) (s : Shelf) :
    (emitAll ts s).window = s.window := rfl
@[simp] theorem emitAll_lines (ts : List Task) (s : Shelf) : (emitAll ts s).lines = s.lines := rfl
@[simp] theorem emitAll_sampling (ts : List Task) (s : Shelf) :
    (emitAll ts s).sampling = s.sampling := rfl
@[simp] theorem emitAll_shelfStop (ts : List Task) (s : Shelf) :
    (emitAll ts s).shelfStop = s.shelfStop := rfl
@[simp] theorem emitAll_drives (ts : List Task) (s : Shelf) :
    (emitAll ts s).drives = s.drives := rfl
@[simp] theorem emitAll_signals (ts : List Task) (s : Shelf) :
    (emitAll ts s).signals = s.signals := rfl
@[simp] theorem emitAll_balance (ts : List Task) (s : Shelf) :
    (emitAll ts s).balance = s.balance := rfl
@[simp] theorem emitAll_psms (ts : List Task) (s : Shelf) : (emitAll ts s).psms = s.psms := rfl
@[simp] theorem emitAll_bbms (ts : List Task) (s : Shelf) : (emitAll ts s).bbms = s.bbms := rfl
@[simp] theorem emitAll_chargeBudget (ts : List Task) (s : Shelf) :
    (emitAll ts s).chargeBudget = s.chargeBudget := rfl
@[simp] theorem emitAll_ride (ts : List Task) (s : Shelf) : (emitAll ts s).ride = s.ride := rfl
@[simp] theorem emitAll_bay (ts : List Task) (s : Shelf) : (emitAll ts s).bay = s.bay := rfl
@[simp] theorem emitAll_seq (ts : List Task) (s : Shelf) : (emitAll ts s).seq = s.seq := rfl
@[simp] theorem emitAll_zones (ts : List Task) (s : Shelf) : (emitAll ts s).zones = s.zones := rfl
@[simp] theorem emitAll_engUp (ts : List Task) (s : Shelf) : (emitAll ts s).engUp = s.engUp := rfl
@[simp] theorem emitAll_engSp (ts : List Task) (s : Shelf) : (emitAll ts s).engSp = s.engSp := rfl
@[simp] theorem emitAll_engTp (ts : List Task) (s : Shelf) : (emitAll ts s).engTp = s.engTp := rfl
@[simp] theorem emitAll_pollSp (ts : List Task) (s : Shelf) :
    (emitAll ts s).pollSp = s.pollSp := rfl
@[simp] theorem emitAll_pollTp (ts : List Task) (s : Shelf) :
    (emitAll ts s).pollTp = s.pollTp := rfl
@[simp] theorem emitAll_modules (ts : List Task) (s : Shelf) :
    (emitAll ts s).modules = s.modules := rfl
@[simp] theorem emitAll_replies (ts : List Task) (s : Shelf) :
    (emitAll ts s).replies = s.replies := rfl
@[simp] theorem emitAll_replyWait (ts : List Task) (s : Shelf) :
    (emitAll ts s).replyWait = s.replyWait := rfl
@[simp] theorem emitAll_notices (ts : List Task) (s : Shelf) :
    (emitAll ts s).notices = s.notices := rfl
@[simp] theorem emitAll_telemetry (ts : List Task) (s : Shelf) :
    (emitAll ts s).telemetry = s.telemetry := rfl
@[simp] theorem emitAll_telemetryRun (ts : List Task) (s : Shelf) :
    (emitAll ts s).telemetryRun = s.telemetryRun := rfl
@[simp] theorem emitAll_telemetryDrops (ts : List Task) (s : Shelf) :
    (emitAll ts s).telemetryDrops = s.telemetryDrops := rfl
@[simp] theorem emitAll_restart (ts : List Task) (s : Shelf) :
    (emitAll ts s).restart = s.restart := rfl
@[simp] theorem emitAll_level (ts : List Task) (s : Shelf) : (emitAll ts s).level = s.level := rfl
@[simp] theorem emitAll_agenda (ts : List Task) (s : Shelf) :
    (emitAll ts s).agenda = s.agenda := rfl
@[simp] theorem emitAll_deferred (ts : List Task) (s : Shelf) :
    (emitAll ts s).deferred = s.deferred := rfl
@[simp] theorem emitAll_admitDue (ts : List Task) (s : Shelf) :
    (emitAll ts s).admitDue = s.admitDue := rfl
@[simp] theorem emitAll_causes (ts : List Task) (s : Shelf) :
    (emitAll ts s).causes = s.causes := rfl
@[simp] theorem emitAll_applying (ts : List Task) (s : Shelf) :
    (emitAll ts s).applying = s.applying := rfl

/-! ### `postpone` touches `deferred` -/

@[simp] theorem postpone_shelfTime (t : Task) (s : Shelf) :
    (postpone t s).shelfTime = s.shelfTime := by rw [postpone_eq]
@[simp] theorem postpone_ambient (t : Task) (s : Shelf) :
    (postpone t s).ambient = s.ambient := by rw [postpone_eq]
@[simp] theorem postpone_tables (t : Task) (s : Shelf) :
    (postpone t s).tables = s.tables := by rw [postpone_eq]
@[simp] theorem postpone_loads (t : Task) (s : Shelf) :
    (postpone t s).loads = s.loads := by rw [postpone_eq]
@[simp] theorem postpone_window (t : Task) (s : Shelf) :
    (postpone t s).window = s.window := by rw [postpone_eq]
@[simp] theorem postpone_lines (t : Task) (s : Shelf) :
    (postpone t s).lines = s.lines := by rw [postpone_eq]
@[simp] theorem postpone_sampling (t : Task) (s : Shelf) :
    (postpone t s).sampling = s.sampling := by rw [postpone_eq]
@[simp] theorem postpone_shelfStop (t : Task) (s : Shelf) :
    (postpone t s).shelfStop = s.shelfStop := by rw [postpone_eq]
@[simp] theorem postpone_drives (t : Task) (s : Shelf) :
    (postpone t s).drives = s.drives := by rw [postpone_eq]
@[simp] theorem postpone_signals (t : Task) (s : Shelf) :
    (postpone t s).signals = s.signals := by rw [postpone_eq]
@[simp] theorem postpone_balance (t : Task) (s : Shelf) :
    (postpone t s).balance = s.balance := by rw [postpone_eq]
@[simp] theorem postpone_psms (t : Task) (s : Shelf) :
    (postpone t s).psms = s.psms := by rw [postpone_eq]
@[simp] theorem postpone_bbms (t : Task) (s : Shelf) :
    (postpone t s).bbms = s.bbms := by rw [postpone_eq]
@[simp] theorem postpone_chargeBudget (t : Task) (s : Shelf) :
    (postpone t s).chargeBudget = s.chargeBudget := by rw [postpone_eq]
@[simp] theorem postpone_ride (t : Task) (s : Shelf) :
    (postpone t s).ride = s.ride := by rw [postpone_eq]
@[simp] theorem postpone_bay (t : Task) (s : Shelf) :
    (postpone t s).bay = s.bay := by rw [postpone_eq]
@[simp] theorem postpone_seq (t : Task) (s : Shelf) :
    (postpone t s).seq = s.seq := by rw [postpone_eq]
@[simp] theorem postpone_zones (t : Task) (s : Shelf) :
    (postpone t s).zones = s.zones := by rw [postpone_eq]
@[simp] theorem postpone_engUp (t : Task) (s : Shelf) :
    (postpone t s).engUp = s.engUp := by rw [postpone_eq]
@[simp] theorem postpone_engSp (t : Task) (s : Shelf) :
    (postpone t s).engSp = s.engSp := by rw [postpone_eq]
@[simp] theorem postpone_engTp (t : Task) (s : Shelf) :
    (postpone t s).engTp = s.engTp := by rw [postpone_eq]
@[simp] theorem postpone_pollSp (t : Task) (s : Shelf) :
    (postpone t s).pollSp = s.pollSp := by rw [postpone_eq]
@[simp] theorem postpone_pollTp (t : Task) (s : Shelf) :
    (postpone t s).pollTp = s.pollTp := by rw [postpone_eq]
@[simp] theorem postpone_modules (t : Task) (s : Shelf) :
    (postpone t s).modules = s.modules := by rw [postpone_eq]
@[simp] theorem postpone_replies (t : Task) (s : Shelf) :
    (postpone t s).replies = s.replies := by rw [postpone_eq]
@[simp] theorem postpone_replyWait (t : Task) (s : Shelf) :
    (postpone t s).replyWait = s.replyWait := by rw [postpone_eq]
@[simp] theorem postpone_notices (t : Task) (s : Shelf) :
    (postpone t s).notices = s.notices := by rw [postpone_eq]
@[simp] theorem postpone_telemetry (t : Task) (s : Shelf) :
    (postpone t s).telemetry = s.telemetry := by rw [postpone_eq]
@[simp] theorem postpone_telemetryRun (t : Task) (s : Shelf) :
    (postpone t s).telemetryRun = s.telemetryRun := by rw [postpone_eq]
@[simp] theorem postpone_telemetryDrops (t : Task) (s : Shelf) :
    (postpone t s).telemetryDrops = s.telemetryDrops := by rw [postpone_eq]
@[simp] theorem postpone_restart (t : Task) (s : Shelf) :
    (postpone t s).restart = s.restart := by rw [postpone_eq]
@[simp] theorem postpone_level (t : Task) (s : Shelf) :
    (postpone t s).level = s.level := by rw [postpone_eq]
@[simp] theorem postpone_agenda (t : Task) (s : Shelf) :
    (postpone t s).agenda = s.agenda := by rw [postpone_eq]
@[simp] theorem postpone_raised (t : Task) (s : Shelf) :
    (postpone t s).raised = s.raised := by rw [postpone_eq]
@[simp] theorem postpone_admitDue (t : Task) (s : Shelf) :
    (postpone t s).admitDue = s.admitDue := by rw [postpone_eq]
@[simp] theorem postpone_causes (t : Task) (s : Shelf) :
    (postpone t s).causes = s.causes := by rw [postpone_eq]
@[simp] theorem postpone_applying (t : Task) (s : Shelf) :
    (postpone t s).applying = s.applying := by rw [postpone_eq]

/-! ### `postponeFirst` touches `deferred` -/

@[simp] theorem postponeFirst_shelfTime (t : Task) (s : Shelf) :
    (postponeFirst t s).shelfTime = s.shelfTime := rfl
@[simp] theorem postponeFirst_ambient (t : Task) (s : Shelf) :
    (postponeFirst t s).ambient = s.ambient := rfl
@[simp] theorem postponeFirst_tables (t : Task) (s : Shelf) :
    (postponeFirst t s).tables = s.tables := rfl
@[simp] theorem postponeFirst_loads (t : Task) (s : Shelf) :
    (postponeFirst t s).loads = s.loads := rfl
@[simp] theorem postponeFirst_window (t : Task) (s : Shelf) :
    (postponeFirst t s).window = s.window := rfl
@[simp] theorem postponeFirst_lines (t : Task) (s : Shelf) :
    (postponeFirst t s).lines = s.lines := rfl
@[simp] theorem postponeFirst_sampling (t : Task) (s : Shelf) :
    (postponeFirst t s).sampling = s.sampling := rfl
@[simp] theorem postponeFirst_shelfStop (t : Task) (s : Shelf) :
    (postponeFirst t s).shelfStop = s.shelfStop := rfl
@[simp] theorem postponeFirst_drives (t : Task) (s : Shelf) :
    (postponeFirst t s).drives = s.drives := rfl
@[simp] theorem postponeFirst_signals (t : Task) (s : Shelf) :
    (postponeFirst t s).signals = s.signals := rfl
@[simp] theorem postponeFirst_balance (t : Task) (s : Shelf) :
    (postponeFirst t s).balance = s.balance := rfl
@[simp] theorem postponeFirst_psms (t : Task) (s : Shelf) : (postponeFirst t s).psms = s.psms := rfl
@[simp] theorem postponeFirst_bbms (t : Task) (s : Shelf) : (postponeFirst t s).bbms = s.bbms := rfl
@[simp] theorem postponeFirst_chargeBudget (t : Task) (s : Shelf) :
    (postponeFirst t s).chargeBudget = s.chargeBudget := rfl
@[simp] theorem postponeFirst_ride (t : Task) (s : Shelf) : (postponeFirst t s).ride = s.ride := rfl
@[simp] theorem postponeFirst_bay (t : Task) (s : Shelf) : (postponeFirst t s).bay = s.bay := rfl
@[simp] theorem postponeFirst_seq (t : Task) (s : Shelf) : (postponeFirst t s).seq = s.seq := rfl
@[simp] theorem postponeFirst_zones (t : Task) (s : Shelf) :
    (postponeFirst t s).zones = s.zones := rfl
@[simp] theorem postponeFirst_engUp (t : Task) (s : Shelf) :
    (postponeFirst t s).engUp = s.engUp := rfl
@[simp] theorem postponeFirst_engSp (t : Task) (s : Shelf) :
    (postponeFirst t s).engSp = s.engSp := rfl
@[simp] theorem postponeFirst_engTp (t : Task) (s : Shelf) :
    (postponeFirst t s).engTp = s.engTp := rfl
@[simp] theorem postponeFirst_pollSp (t : Task) (s : Shelf) :
    (postponeFirst t s).pollSp = s.pollSp := rfl
@[simp] theorem postponeFirst_pollTp (t : Task) (s : Shelf) :
    (postponeFirst t s).pollTp = s.pollTp := rfl
@[simp] theorem postponeFirst_modules (t : Task) (s : Shelf) :
    (postponeFirst t s).modules = s.modules := rfl
@[simp] theorem postponeFirst_replies (t : Task) (s : Shelf) :
    (postponeFirst t s).replies = s.replies := rfl
@[simp] theorem postponeFirst_replyWait (t : Task) (s : Shelf) :
    (postponeFirst t s).replyWait = s.replyWait := rfl
@[simp] theorem postponeFirst_notices (t : Task) (s : Shelf) :
    (postponeFirst t s).notices = s.notices := rfl
@[simp] theorem postponeFirst_telemetry (t : Task) (s : Shelf) :
    (postponeFirst t s).telemetry = s.telemetry := rfl
@[simp] theorem postponeFirst_telemetryRun (t : Task) (s : Shelf) :
    (postponeFirst t s).telemetryRun = s.telemetryRun := rfl
@[simp] theorem postponeFirst_telemetryDrops (t : Task) (s : Shelf) :
    (postponeFirst t s).telemetryDrops = s.telemetryDrops := rfl
@[simp] theorem postponeFirst_restart (t : Task) (s : Shelf) :
    (postponeFirst t s).restart = s.restart := rfl
@[simp] theorem postponeFirst_level (t : Task) (s : Shelf) :
    (postponeFirst t s).level = s.level := rfl
@[simp] theorem postponeFirst_agenda (t : Task) (s : Shelf) :
    (postponeFirst t s).agenda = s.agenda := rfl
@[simp] theorem postponeFirst_raised (t : Task) (s : Shelf) :
    (postponeFirst t s).raised = s.raised := rfl
@[simp] theorem postponeFirst_admitDue (t : Task) (s : Shelf) :
    (postponeFirst t s).admitDue = s.admitDue := rfl
@[simp] theorem postponeFirst_causes (t : Task) (s : Shelf) :
    (postponeFirst t s).causes = s.causes := rfl
@[simp] theorem postponeFirst_applying (t : Task) (s : Shelf) :
    (postponeFirst t s).applying = s.applying := rfl

/-! ### `admissionDue` touches `admitDue` -/

@[simp] theorem admissionDue_shelfTime (s : Shelf) : (admissionDue s).shelfTime = s.shelfTime := rfl
@[simp] theorem admissionDue_ambient (s : Shelf) : (admissionDue s).ambient = s.ambient := rfl
@[simp] theorem admissionDue_tables (s : Shelf) : (admissionDue s).tables = s.tables := rfl
@[simp] theorem admissionDue_loads (s : Shelf) : (admissionDue s).loads = s.loads := rfl
@[simp] theorem admissionDue_window (s : Shelf) : (admissionDue s).window = s.window := rfl
@[simp] theorem admissionDue_lines (s : Shelf) : (admissionDue s).lines = s.lines := rfl
@[simp] theorem admissionDue_sampling (s : Shelf) : (admissionDue s).sampling = s.sampling := rfl
@[simp] theorem admissionDue_shelfStop (s : Shelf) : (admissionDue s).shelfStop = s.shelfStop := rfl
@[simp] theorem admissionDue_drives (s : Shelf) : (admissionDue s).drives = s.drives := rfl
@[simp] theorem admissionDue_signals (s : Shelf) : (admissionDue s).signals = s.signals := rfl
@[simp] theorem admissionDue_balance (s : Shelf) : (admissionDue s).balance = s.balance := rfl
@[simp] theorem admissionDue_psms (s : Shelf) : (admissionDue s).psms = s.psms := rfl
@[simp] theorem admissionDue_bbms (s : Shelf) : (admissionDue s).bbms = s.bbms := rfl
@[simp] theorem admissionDue_chargeBudget (s : Shelf) :
    (admissionDue s).chargeBudget = s.chargeBudget := rfl
@[simp] theorem admissionDue_ride (s : Shelf) : (admissionDue s).ride = s.ride := rfl
@[simp] theorem admissionDue_bay (s : Shelf) : (admissionDue s).bay = s.bay := rfl
@[simp] theorem admissionDue_seq (s : Shelf) : (admissionDue s).seq = s.seq := rfl
@[simp] theorem admissionDue_zones (s : Shelf) : (admissionDue s).zones = s.zones := rfl
@[simp] theorem admissionDue_engUp (s : Shelf) : (admissionDue s).engUp = s.engUp := rfl
@[simp] theorem admissionDue_engSp (s : Shelf) : (admissionDue s).engSp = s.engSp := rfl
@[simp] theorem admissionDue_engTp (s : Shelf) : (admissionDue s).engTp = s.engTp := rfl
@[simp] theorem admissionDue_pollSp (s : Shelf) : (admissionDue s).pollSp = s.pollSp := rfl
@[simp] theorem admissionDue_pollTp (s : Shelf) : (admissionDue s).pollTp = s.pollTp := rfl
@[simp] theorem admissionDue_modules (s : Shelf) : (admissionDue s).modules = s.modules := rfl
@[simp] theorem admissionDue_replies (s : Shelf) : (admissionDue s).replies = s.replies := rfl
@[simp] theorem admissionDue_replyWait (s : Shelf) : (admissionDue s).replyWait = s.replyWait := rfl
@[simp] theorem admissionDue_notices (s : Shelf) : (admissionDue s).notices = s.notices := rfl
@[simp] theorem admissionDue_telemetry (s : Shelf) : (admissionDue s).telemetry = s.telemetry := rfl
@[simp] theorem admissionDue_telemetryRun (s : Shelf) :
    (admissionDue s).telemetryRun = s.telemetryRun := rfl
@[simp] theorem admissionDue_telemetryDrops (s : Shelf) :
    (admissionDue s).telemetryDrops = s.telemetryDrops := rfl
@[simp] theorem admissionDue_restart (s : Shelf) : (admissionDue s).restart = s.restart := rfl
@[simp] theorem admissionDue_level (s : Shelf) : (admissionDue s).level = s.level := rfl
@[simp] theorem admissionDue_agenda (s : Shelf) : (admissionDue s).agenda = s.agenda := rfl
@[simp] theorem admissionDue_deferred (s : Shelf) : (admissionDue s).deferred = s.deferred := rfl
@[simp] theorem admissionDue_raised (s : Shelf) : (admissionDue s).raised = s.raised := rfl
@[simp] theorem admissionDue_causes (s : Shelf) : (admissionDue s).causes = s.causes := rfl
@[simp] theorem admissionDue_applying (s : Shelf) : (admissionDue s).applying = s.applying := rfl

/-! ### `changed` touches `raised`, `causes` -/

@[simp] theorem changed_shelfTime (cs : List Cause) (s : Shelf) :
    (changed cs s).shelfTime = s.shelfTime := by rw [changed_eq]
@[simp] theorem changed_ambient (cs : List Cause) (s : Shelf) :
    (changed cs s).ambient = s.ambient := by rw [changed_eq]
@[simp] theorem changed_tables (cs : List Cause) (s : Shelf) :
    (changed cs s).tables = s.tables := by rw [changed_eq]
@[simp] theorem changed_loads (cs : List Cause) (s : Shelf) :
    (changed cs s).loads = s.loads := by rw [changed_eq]
@[simp] theorem changed_window (cs : List Cause) (s : Shelf) :
    (changed cs s).window = s.window := by rw [changed_eq]
@[simp] theorem changed_lines (cs : List Cause) (s : Shelf) :
    (changed cs s).lines = s.lines := by rw [changed_eq]
@[simp] theorem changed_sampling (cs : List Cause) (s : Shelf) :
    (changed cs s).sampling = s.sampling := by rw [changed_eq]
@[simp] theorem changed_shelfStop (cs : List Cause) (s : Shelf) :
    (changed cs s).shelfStop = s.shelfStop := by rw [changed_eq]
@[simp] theorem changed_drives (cs : List Cause) (s : Shelf) :
    (changed cs s).drives = s.drives := by rw [changed_eq]
@[simp] theorem changed_signals (cs : List Cause) (s : Shelf) :
    (changed cs s).signals = s.signals := by rw [changed_eq]
@[simp] theorem changed_balance (cs : List Cause) (s : Shelf) :
    (changed cs s).balance = s.balance := by rw [changed_eq]
@[simp] theorem changed_psms (cs : List Cause) (s : Shelf) :
    (changed cs s).psms = s.psms := by rw [changed_eq]
@[simp] theorem changed_bbms (cs : List Cause) (s : Shelf) :
    (changed cs s).bbms = s.bbms := by rw [changed_eq]
@[simp] theorem changed_chargeBudget (cs : List Cause) (s : Shelf) :
    (changed cs s).chargeBudget = s.chargeBudget := by rw [changed_eq]
@[simp] theorem changed_ride (cs : List Cause) (s : Shelf) :
    (changed cs s).ride = s.ride := by rw [changed_eq]
@[simp] theorem changed_bay (cs : List Cause) (s : Shelf) :
    (changed cs s).bay = s.bay := by rw [changed_eq]
@[simp] theorem changed_seq (cs : List Cause) (s : Shelf) :
    (changed cs s).seq = s.seq := by rw [changed_eq]
@[simp] theorem changed_zones (cs : List Cause) (s : Shelf) :
    (changed cs s).zones = s.zones := by rw [changed_eq]
@[simp] theorem changed_engUp (cs : List Cause) (s : Shelf) :
    (changed cs s).engUp = s.engUp := by rw [changed_eq]
@[simp] theorem changed_engSp (cs : List Cause) (s : Shelf) :
    (changed cs s).engSp = s.engSp := by rw [changed_eq]
@[simp] theorem changed_engTp (cs : List Cause) (s : Shelf) :
    (changed cs s).engTp = s.engTp := by rw [changed_eq]
@[simp] theorem changed_pollSp (cs : List Cause) (s : Shelf) :
    (changed cs s).pollSp = s.pollSp := by rw [changed_eq]
@[simp] theorem changed_pollTp (cs : List Cause) (s : Shelf) :
    (changed cs s).pollTp = s.pollTp := by rw [changed_eq]
@[simp] theorem changed_modules (cs : List Cause) (s : Shelf) :
    (changed cs s).modules = s.modules := by rw [changed_eq]
@[simp] theorem changed_replies (cs : List Cause) (s : Shelf) :
    (changed cs s).replies = s.replies := by rw [changed_eq]
@[simp] theorem changed_replyWait (cs : List Cause) (s : Shelf) :
    (changed cs s).replyWait = s.replyWait := by rw [changed_eq]
@[simp] theorem changed_notices (cs : List Cause) (s : Shelf) :
    (changed cs s).notices = s.notices := by rw [changed_eq]
@[simp] theorem changed_telemetry (cs : List Cause) (s : Shelf) :
    (changed cs s).telemetry = s.telemetry := by rw [changed_eq]
@[simp] theorem changed_telemetryRun (cs : List Cause) (s : Shelf) :
    (changed cs s).telemetryRun = s.telemetryRun := by rw [changed_eq]
@[simp] theorem changed_telemetryDrops (cs : List Cause) (s : Shelf) :
    (changed cs s).telemetryDrops = s.telemetryDrops := by rw [changed_eq]
@[simp] theorem changed_restart (cs : List Cause) (s : Shelf) :
    (changed cs s).restart = s.restart := by rw [changed_eq]
@[simp] theorem changed_level (cs : List Cause) (s : Shelf) :
    (changed cs s).level = s.level := by rw [changed_eq]
@[simp] theorem changed_agenda (cs : List Cause) (s : Shelf) :
    (changed cs s).agenda = s.agenda := by rw [changed_eq]
@[simp] theorem changed_deferred (cs : List Cause) (s : Shelf) :
    (changed cs s).deferred = s.deferred := by rw [changed_eq]
@[simp] theorem changed_admitDue (cs : List Cause) (s : Shelf) :
    (changed cs s).admitDue = s.admitDue := by rw [changed_eq]
@[simp] theorem changed_applying (cs : List Cause) (s : Shelf) :
    (changed cs s).applying = s.applying := by rw [changed_eq]

/-! ### `post` touches `notices` -/

@[simp] theorem post_shelfTime (a b c d e : Nat) (s : Shelf) :
    (post a b c d e s).shelfTime = s.shelfTime := rfl
@[simp] theorem post_ambient (a b c d e : Nat) (s : Shelf) :
    (post a b c d e s).ambient = s.ambient := rfl
@[simp] theorem post_tables (a b c d e : Nat) (s : Shelf) :
    (post a b c d e s).tables = s.tables := rfl
@[simp] theorem post_loads (a b c d e : Nat) (s : Shelf) : (post a b c d e s).loads = s.loads := rfl
@[simp] theorem post_window (a b c d e : Nat) (s : Shelf) :
    (post a b c d e s).window = s.window := rfl
@[simp] theorem post_lines (a b c d e : Nat) (s : Shelf) : (post a b c d e s).lines = s.lines := rfl
@[simp] theorem post_sampling (a b c d e : Nat) (s : Shelf) :
    (post a b c d e s).sampling = s.sampling := rfl
@[simp] theorem post_shelfStop (a b c d e : Nat) (s : Shelf) :
    (post a b c d e s).shelfStop = s.shelfStop := rfl
@[simp] theorem post_drives (a b c d e : Nat) (s : Shelf) :
    (post a b c d e s).drives = s.drives := rfl
@[simp] theorem post_signals (a b c d e : Nat) (s : Shelf) :
    (post a b c d e s).signals = s.signals := rfl
@[simp] theorem post_balance (a b c d e : Nat) (s : Shelf) :
    (post a b c d e s).balance = s.balance := rfl
@[simp] theorem post_psms (a b c d e : Nat) (s : Shelf) : (post a b c d e s).psms = s.psms := rfl
@[simp] theorem post_bbms (a b c d e : Nat) (s : Shelf) : (post a b c d e s).bbms = s.bbms := rfl
@[simp] theorem post_chargeBudget (a b c d e : Nat) (s : Shelf) :
    (post a b c d e s).chargeBudget = s.chargeBudget := rfl
@[simp] theorem post_ride (a b c d e : Nat) (s : Shelf) : (post a b c d e s).ride = s.ride := rfl
@[simp] theorem post_bay (a b c d e : Nat) (s : Shelf) : (post a b c d e s).bay = s.bay := rfl
@[simp] theorem post_seq (a b c d e : Nat) (s : Shelf) : (post a b c d e s).seq = s.seq := rfl
@[simp] theorem post_zones (a b c d e : Nat) (s : Shelf) : (post a b c d e s).zones = s.zones := rfl
@[simp] theorem post_engUp (a b c d e : Nat) (s : Shelf) : (post a b c d e s).engUp = s.engUp := rfl
@[simp] theorem post_engSp (a b c d e : Nat) (s : Shelf) : (post a b c d e s).engSp = s.engSp := rfl
@[simp] theorem post_engTp (a b c d e : Nat) (s : Shelf) : (post a b c d e s).engTp = s.engTp := rfl
@[simp] theorem post_pollSp (a b c d e : Nat) (s : Shelf) :
    (post a b c d e s).pollSp = s.pollSp := rfl
@[simp] theorem post_pollTp (a b c d e : Nat) (s : Shelf) :
    (post a b c d e s).pollTp = s.pollTp := rfl
@[simp] theorem post_modules (a b c d e : Nat) (s : Shelf) :
    (post a b c d e s).modules = s.modules := rfl
@[simp] theorem post_replies (a b c d e : Nat) (s : Shelf) :
    (post a b c d e s).replies = s.replies := rfl
@[simp] theorem post_replyWait (a b c d e : Nat) (s : Shelf) :
    (post a b c d e s).replyWait = s.replyWait := rfl
@[simp] theorem post_telemetry (a b c d e : Nat) (s : Shelf) :
    (post a b c d e s).telemetry = s.telemetry := rfl
@[simp] theorem post_telemetryRun (a b c d e : Nat) (s : Shelf) :
    (post a b c d e s).telemetryRun = s.telemetryRun := rfl
@[simp] theorem post_telemetryDrops (a b c d e : Nat) (s : Shelf) :
    (post a b c d e s).telemetryDrops = s.telemetryDrops := rfl
@[simp] theorem post_restart (a b c d e : Nat) (s : Shelf) :
    (post a b c d e s).restart = s.restart := rfl
@[simp] theorem post_level (a b c d e : Nat) (s : Shelf) : (post a b c d e s).level = s.level := rfl
@[simp] theorem post_agenda (a b c d e : Nat) (s : Shelf) :
    (post a b c d e s).agenda = s.agenda := rfl
@[simp] theorem post_deferred (a b c d e : Nat) (s : Shelf) :
    (post a b c d e s).deferred = s.deferred := rfl
@[simp] theorem post_raised (a b c d e : Nat) (s : Shelf) :
    (post a b c d e s).raised = s.raised := rfl
@[simp] theorem post_admitDue (a b c d e : Nat) (s : Shelf) :
    (post a b c d e s).admitDue = s.admitDue := rfl
@[simp] theorem post_causes (a b c d e : Nat) (s : Shelf) :
    (post a b c d e s).causes = s.causes := rfl
@[simp] theorem post_applying (a b c d e : Nat) (s : Shelf) :
    (post a b c d e s).applying = s.applying := rfl

/-! ### `placeReply` touches `replies`, `replyWait` -/

@[simp] theorem placeReply_shelfTime (f : TxFrame) (s : Shelf) :
    (placeReply f s).shelfTime = s.shelfTime := by rw [placeReply_eq]
@[simp] theorem placeReply_ambient (f : TxFrame) (s : Shelf) :
    (placeReply f s).ambient = s.ambient := by rw [placeReply_eq]
@[simp] theorem placeReply_tables (f : TxFrame) (s : Shelf) :
    (placeReply f s).tables = s.tables := by rw [placeReply_eq]
@[simp] theorem placeReply_loads (f : TxFrame) (s : Shelf) :
    (placeReply f s).loads = s.loads := by rw [placeReply_eq]
@[simp] theorem placeReply_window (f : TxFrame) (s : Shelf) :
    (placeReply f s).window = s.window := by rw [placeReply_eq]
@[simp] theorem placeReply_lines (f : TxFrame) (s : Shelf) :
    (placeReply f s).lines = s.lines := by rw [placeReply_eq]
@[simp] theorem placeReply_sampling (f : TxFrame) (s : Shelf) :
    (placeReply f s).sampling = s.sampling := by rw [placeReply_eq]
@[simp] theorem placeReply_shelfStop (f : TxFrame) (s : Shelf) :
    (placeReply f s).shelfStop = s.shelfStop := by rw [placeReply_eq]
@[simp] theorem placeReply_drives (f : TxFrame) (s : Shelf) :
    (placeReply f s).drives = s.drives := by rw [placeReply_eq]
@[simp] theorem placeReply_signals (f : TxFrame) (s : Shelf) :
    (placeReply f s).signals = s.signals := by rw [placeReply_eq]
@[simp] theorem placeReply_balance (f : TxFrame) (s : Shelf) :
    (placeReply f s).balance = s.balance := by rw [placeReply_eq]
@[simp] theorem placeReply_psms (f : TxFrame) (s : Shelf) :
    (placeReply f s).psms = s.psms := by rw [placeReply_eq]
@[simp] theorem placeReply_bbms (f : TxFrame) (s : Shelf) :
    (placeReply f s).bbms = s.bbms := by rw [placeReply_eq]
@[simp] theorem placeReply_chargeBudget (f : TxFrame) (s : Shelf) :
    (placeReply f s).chargeBudget = s.chargeBudget := by rw [placeReply_eq]
@[simp] theorem placeReply_ride (f : TxFrame) (s : Shelf) :
    (placeReply f s).ride = s.ride := by rw [placeReply_eq]
@[simp] theorem placeReply_bay (f : TxFrame) (s : Shelf) :
    (placeReply f s).bay = s.bay := by rw [placeReply_eq]
@[simp] theorem placeReply_seq (f : TxFrame) (s : Shelf) :
    (placeReply f s).seq = s.seq := by rw [placeReply_eq]
@[simp] theorem placeReply_zones (f : TxFrame) (s : Shelf) :
    (placeReply f s).zones = s.zones := by rw [placeReply_eq]
@[simp] theorem placeReply_engUp (f : TxFrame) (s : Shelf) :
    (placeReply f s).engUp = s.engUp := by rw [placeReply_eq]
@[simp] theorem placeReply_engSp (f : TxFrame) (s : Shelf) :
    (placeReply f s).engSp = s.engSp := by rw [placeReply_eq]
@[simp] theorem placeReply_engTp (f : TxFrame) (s : Shelf) :
    (placeReply f s).engTp = s.engTp := by rw [placeReply_eq]
@[simp] theorem placeReply_pollSp (f : TxFrame) (s : Shelf) :
    (placeReply f s).pollSp = s.pollSp := by rw [placeReply_eq]
@[simp] theorem placeReply_pollTp (f : TxFrame) (s : Shelf) :
    (placeReply f s).pollTp = s.pollTp := by rw [placeReply_eq]
@[simp] theorem placeReply_modules (f : TxFrame) (s : Shelf) :
    (placeReply f s).modules = s.modules := by rw [placeReply_eq]
@[simp] theorem placeReply_notices (f : TxFrame) (s : Shelf) :
    (placeReply f s).notices = s.notices := by rw [placeReply_eq]
@[simp] theorem placeReply_telemetry (f : TxFrame) (s : Shelf) :
    (placeReply f s).telemetry = s.telemetry := by rw [placeReply_eq]
@[simp] theorem placeReply_telemetryRun (f : TxFrame) (s : Shelf) :
    (placeReply f s).telemetryRun = s.telemetryRun := by rw [placeReply_eq]
@[simp] theorem placeReply_telemetryDrops (f : TxFrame) (s : Shelf) :
    (placeReply f s).telemetryDrops = s.telemetryDrops := by rw [placeReply_eq]
@[simp] theorem placeReply_restart (f : TxFrame) (s : Shelf) :
    (placeReply f s).restart = s.restart := by rw [placeReply_eq]
@[simp] theorem placeReply_level (f : TxFrame) (s : Shelf) :
    (placeReply f s).level = s.level := by rw [placeReply_eq]
@[simp] theorem placeReply_agenda (f : TxFrame) (s : Shelf) :
    (placeReply f s).agenda = s.agenda := by rw [placeReply_eq]
@[simp] theorem placeReply_deferred (f : TxFrame) (s : Shelf) :
    (placeReply f s).deferred = s.deferred := by rw [placeReply_eq]
@[simp] theorem placeReply_raised (f : TxFrame) (s : Shelf) :
    (placeReply f s).raised = s.raised := by rw [placeReply_eq]
@[simp] theorem placeReply_admitDue (f : TxFrame) (s : Shelf) :
    (placeReply f s).admitDue = s.admitDue := by rw [placeReply_eq]
@[simp] theorem placeReply_causes (f : TxFrame) (s : Shelf) :
    (placeReply f s).causes = s.causes := by rw [placeReply_eq]
@[simp] theorem placeReply_applying (f : TxFrame) (s : Shelf) :
    (placeReply f s).applying = s.applying := by rw [placeReply_eq]

/-! ### `placeReplies` touches `replies`, `replyWait` -/

@[simp] theorem placeReplies_shelfTime (fs : List Frame) (s : Shelf) :
    (placeReplies fs s).shelfTime = s.shelfTime := by rw [placeReplies_eq]
@[simp] theorem placeReplies_ambient (fs : List Frame) (s : Shelf) :
    (placeReplies fs s).ambient = s.ambient := by rw [placeReplies_eq]
@[simp] theorem placeReplies_tables (fs : List Frame) (s : Shelf) :
    (placeReplies fs s).tables = s.tables := by rw [placeReplies_eq]
@[simp] theorem placeReplies_loads (fs : List Frame) (s : Shelf) :
    (placeReplies fs s).loads = s.loads := by rw [placeReplies_eq]
@[simp] theorem placeReplies_window (fs : List Frame) (s : Shelf) :
    (placeReplies fs s).window = s.window := by rw [placeReplies_eq]
@[simp] theorem placeReplies_lines (fs : List Frame) (s : Shelf) :
    (placeReplies fs s).lines = s.lines := by rw [placeReplies_eq]
@[simp] theorem placeReplies_sampling (fs : List Frame) (s : Shelf) :
    (placeReplies fs s).sampling = s.sampling := by rw [placeReplies_eq]
@[simp] theorem placeReplies_shelfStop (fs : List Frame) (s : Shelf) :
    (placeReplies fs s).shelfStop = s.shelfStop := by rw [placeReplies_eq]
@[simp] theorem placeReplies_drives (fs : List Frame) (s : Shelf) :
    (placeReplies fs s).drives = s.drives := by rw [placeReplies_eq]
@[simp] theorem placeReplies_signals (fs : List Frame) (s : Shelf) :
    (placeReplies fs s).signals = s.signals := by rw [placeReplies_eq]
@[simp] theorem placeReplies_balance (fs : List Frame) (s : Shelf) :
    (placeReplies fs s).balance = s.balance := by rw [placeReplies_eq]
@[simp] theorem placeReplies_psms (fs : List Frame) (s : Shelf) :
    (placeReplies fs s).psms = s.psms := by rw [placeReplies_eq]
@[simp] theorem placeReplies_bbms (fs : List Frame) (s : Shelf) :
    (placeReplies fs s).bbms = s.bbms := by rw [placeReplies_eq]
@[simp] theorem placeReplies_chargeBudget (fs : List Frame) (s : Shelf) :
    (placeReplies fs s).chargeBudget = s.chargeBudget := by rw [placeReplies_eq]
@[simp] theorem placeReplies_ride (fs : List Frame) (s : Shelf) :
    (placeReplies fs s).ride = s.ride := by rw [placeReplies_eq]
@[simp] theorem placeReplies_bay (fs : List Frame) (s : Shelf) :
    (placeReplies fs s).bay = s.bay := by rw [placeReplies_eq]
@[simp] theorem placeReplies_seq (fs : List Frame) (s : Shelf) :
    (placeReplies fs s).seq = s.seq := by rw [placeReplies_eq]
@[simp] theorem placeReplies_zones (fs : List Frame) (s : Shelf) :
    (placeReplies fs s).zones = s.zones := by rw [placeReplies_eq]
@[simp] theorem placeReplies_engUp (fs : List Frame) (s : Shelf) :
    (placeReplies fs s).engUp = s.engUp := by rw [placeReplies_eq]
@[simp] theorem placeReplies_engSp (fs : List Frame) (s : Shelf) :
    (placeReplies fs s).engSp = s.engSp := by rw [placeReplies_eq]
@[simp] theorem placeReplies_engTp (fs : List Frame) (s : Shelf) :
    (placeReplies fs s).engTp = s.engTp := by rw [placeReplies_eq]
@[simp] theorem placeReplies_pollSp (fs : List Frame) (s : Shelf) :
    (placeReplies fs s).pollSp = s.pollSp := by rw [placeReplies_eq]
@[simp] theorem placeReplies_pollTp (fs : List Frame) (s : Shelf) :
    (placeReplies fs s).pollTp = s.pollTp := by rw [placeReplies_eq]
@[simp] theorem placeReplies_modules (fs : List Frame) (s : Shelf) :
    (placeReplies fs s).modules = s.modules := by rw [placeReplies_eq]
@[simp] theorem placeReplies_notices (fs : List Frame) (s : Shelf) :
    (placeReplies fs s).notices = s.notices := by rw [placeReplies_eq]
@[simp] theorem placeReplies_telemetry (fs : List Frame) (s : Shelf) :
    (placeReplies fs s).telemetry = s.telemetry := by rw [placeReplies_eq]
@[simp] theorem placeReplies_telemetryRun (fs : List Frame) (s : Shelf) :
    (placeReplies fs s).telemetryRun = s.telemetryRun := by rw [placeReplies_eq]
@[simp] theorem placeReplies_telemetryDrops (fs : List Frame) (s : Shelf) :
    (placeReplies fs s).telemetryDrops = s.telemetryDrops := by rw [placeReplies_eq]
@[simp] theorem placeReplies_restart (fs : List Frame) (s : Shelf) :
    (placeReplies fs s).restart = s.restart := by rw [placeReplies_eq]
@[simp] theorem placeReplies_level (fs : List Frame) (s : Shelf) :
    (placeReplies fs s).level = s.level := by rw [placeReplies_eq]
@[simp] theorem placeReplies_agenda (fs : List Frame) (s : Shelf) :
    (placeReplies fs s).agenda = s.agenda := by rw [placeReplies_eq]
@[simp] theorem placeReplies_deferred (fs : List Frame) (s : Shelf) :
    (placeReplies fs s).deferred = s.deferred := by rw [placeReplies_eq]
@[simp] theorem placeReplies_raised (fs : List Frame) (s : Shelf) :
    (placeReplies fs s).raised = s.raised := by rw [placeReplies_eq]
@[simp] theorem placeReplies_admitDue (fs : List Frame) (s : Shelf) :
    (placeReplies fs s).admitDue = s.admitDue := by rw [placeReplies_eq]
@[simp] theorem placeReplies_causes (fs : List Frame) (s : Shelf) :
    (placeReplies fs s).causes = s.causes := by rw [placeReplies_eq]
@[simp] theorem placeReplies_applying (fs : List Frame) (s : Shelf) :
    (placeReplies fs s).applying = s.applying := by rw [placeReplies_eq]

/-! ### `setSeq` touches `seq` -/

@[simp] theorem setSeq_shelfTime (f : Sequencer → Sequencer) (s : Shelf) :
    (setSeq f s).shelfTime = s.shelfTime := rfl
@[simp] theorem setSeq_ambient (f : Sequencer → Sequencer) (s : Shelf) :
    (setSeq f s).ambient = s.ambient := rfl
@[simp] theorem setSeq_tables (f : Sequencer → Sequencer) (s : Shelf) :
    (setSeq f s).tables = s.tables := rfl
@[simp] theorem setSeq_loads (f : Sequencer → Sequencer) (s : Shelf) :
    (setSeq f s).loads = s.loads := rfl
@[simp] theorem setSeq_window (f : Sequencer → Sequencer) (s : Shelf) :
    (setSeq f s).window = s.window := rfl
@[simp] theorem setSeq_lines (f : Sequencer → Sequencer) (s : Shelf) :
    (setSeq f s).lines = s.lines := rfl
@[simp] theorem setSeq_sampling (f : Sequencer → Sequencer) (s : Shelf) :
    (setSeq f s).sampling = s.sampling := rfl
@[simp] theorem setSeq_shelfStop (f : Sequencer → Sequencer) (s : Shelf) :
    (setSeq f s).shelfStop = s.shelfStop := rfl
@[simp] theorem setSeq_drives (f : Sequencer → Sequencer) (s : Shelf) :
    (setSeq f s).drives = s.drives := rfl
@[simp] theorem setSeq_signals (f : Sequencer → Sequencer) (s : Shelf) :
    (setSeq f s).signals = s.signals := rfl
@[simp] theorem setSeq_balance (f : Sequencer → Sequencer) (s : Shelf) :
    (setSeq f s).balance = s.balance := rfl
@[simp] theorem setSeq_psms (f : Sequencer → Sequencer) (s : Shelf) :
    (setSeq f s).psms = s.psms := rfl
@[simp] theorem setSeq_bbms (f : Sequencer → Sequencer) (s : Shelf) :
    (setSeq f s).bbms = s.bbms := rfl
@[simp] theorem setSeq_chargeBudget (f : Sequencer → Sequencer) (s : Shelf) :
    (setSeq f s).chargeBudget = s.chargeBudget := rfl
@[simp] theorem setSeq_ride (f : Sequencer → Sequencer) (s : Shelf) :
    (setSeq f s).ride = s.ride := rfl
@[simp] theorem setSeq_bay (f : Sequencer → Sequencer) (s : Shelf) : (setSeq f s).bay = s.bay := rfl
@[simp] theorem setSeq_zones (f : Sequencer → Sequencer) (s : Shelf) :
    (setSeq f s).zones = s.zones := rfl
@[simp] theorem setSeq_engUp (f : Sequencer → Sequencer) (s : Shelf) :
    (setSeq f s).engUp = s.engUp := rfl
@[simp] theorem setSeq_engSp (f : Sequencer → Sequencer) (s : Shelf) :
    (setSeq f s).engSp = s.engSp := rfl
@[simp] theorem setSeq_engTp (f : Sequencer → Sequencer) (s : Shelf) :
    (setSeq f s).engTp = s.engTp := rfl
@[simp] theorem setSeq_pollSp (f : Sequencer → Sequencer) (s : Shelf) :
    (setSeq f s).pollSp = s.pollSp := rfl
@[simp] theorem setSeq_pollTp (f : Sequencer → Sequencer) (s : Shelf) :
    (setSeq f s).pollTp = s.pollTp := rfl
@[simp] theorem setSeq_modules (f : Sequencer → Sequencer) (s : Shelf) :
    (setSeq f s).modules = s.modules := rfl
@[simp] theorem setSeq_replies (f : Sequencer → Sequencer) (s : Shelf) :
    (setSeq f s).replies = s.replies := rfl
@[simp] theorem setSeq_replyWait (f : Sequencer → Sequencer) (s : Shelf) :
    (setSeq f s).replyWait = s.replyWait := rfl
@[simp] theorem setSeq_notices (f : Sequencer → Sequencer) (s : Shelf) :
    (setSeq f s).notices = s.notices := rfl
@[simp] theorem setSeq_telemetry (f : Sequencer → Sequencer) (s : Shelf) :
    (setSeq f s).telemetry = s.telemetry := rfl
@[simp] theorem setSeq_telemetryRun (f : Sequencer → Sequencer) (s : Shelf) :
    (setSeq f s).telemetryRun = s.telemetryRun := rfl
@[simp] theorem setSeq_telemetryDrops (f : Sequencer → Sequencer) (s : Shelf) :
    (setSeq f s).telemetryDrops = s.telemetryDrops := rfl
@[simp] theorem setSeq_restart (f : Sequencer → Sequencer) (s : Shelf) :
    (setSeq f s).restart = s.restart := rfl
@[simp] theorem setSeq_level (f : Sequencer → Sequencer) (s : Shelf) :
    (setSeq f s).level = s.level := rfl
@[simp] theorem setSeq_agenda (f : Sequencer → Sequencer) (s : Shelf) :
    (setSeq f s).agenda = s.agenda := rfl
@[simp] theorem setSeq_deferred (f : Sequencer → Sequencer) (s : Shelf) :
    (setSeq f s).deferred = s.deferred := rfl
@[simp] theorem setSeq_raised (f : Sequencer → Sequencer) (s : Shelf) :
    (setSeq f s).raised = s.raised := rfl
@[simp] theorem setSeq_admitDue (f : Sequencer → Sequencer) (s : Shelf) :
    (setSeq f s).admitDue = s.admitDue := rfl
@[simp] theorem setSeq_causes (f : Sequencer → Sequencer) (s : Shelf) :
    (setSeq f s).causes = s.causes := rfl
@[simp] theorem setSeq_applying (f : Sequencer → Sequencer) (s : Shelf) :
    (setSeq f s).applying = s.applying := rfl

/-! ### `setDrives` touches `drives` -/

@[simp] theorem setDrives_shelfTime (s : Shelf) : (setDrives s).shelfTime = s.shelfTime := rfl
@[simp] theorem setDrives_ambient (s : Shelf) : (setDrives s).ambient = s.ambient := rfl
@[simp] theorem setDrives_tables (s : Shelf) : (setDrives s).tables = s.tables := rfl
@[simp] theorem setDrives_loads (s : Shelf) : (setDrives s).loads = s.loads := rfl
@[simp] theorem setDrives_window (s : Shelf) : (setDrives s).window = s.window := rfl
@[simp] theorem setDrives_lines (s : Shelf) : (setDrives s).lines = s.lines := rfl
@[simp] theorem setDrives_sampling (s : Shelf) : (setDrives s).sampling = s.sampling := rfl
@[simp] theorem setDrives_shelfStop (s : Shelf) : (setDrives s).shelfStop = s.shelfStop := rfl
@[simp] theorem setDrives_signals (s : Shelf) : (setDrives s).signals = s.signals := rfl
@[simp] theorem setDrives_balance (s : Shelf) : (setDrives s).balance = s.balance := rfl
@[simp] theorem setDrives_psms (s : Shelf) : (setDrives s).psms = s.psms := rfl
@[simp] theorem setDrives_bbms (s : Shelf) : (setDrives s).bbms = s.bbms := rfl
@[simp] theorem setDrives_chargeBudget (s : Shelf) :
    (setDrives s).chargeBudget = s.chargeBudget := rfl
@[simp] theorem setDrives_ride (s : Shelf) : (setDrives s).ride = s.ride := rfl
@[simp] theorem setDrives_bay (s : Shelf) : (setDrives s).bay = s.bay := rfl
@[simp] theorem setDrives_seq (s : Shelf) : (setDrives s).seq = s.seq := rfl
@[simp] theorem setDrives_zones (s : Shelf) : (setDrives s).zones = s.zones := rfl
@[simp] theorem setDrives_engUp (s : Shelf) : (setDrives s).engUp = s.engUp := rfl
@[simp] theorem setDrives_engSp (s : Shelf) : (setDrives s).engSp = s.engSp := rfl
@[simp] theorem setDrives_engTp (s : Shelf) : (setDrives s).engTp = s.engTp := rfl
@[simp] theorem setDrives_pollSp (s : Shelf) : (setDrives s).pollSp = s.pollSp := rfl
@[simp] theorem setDrives_pollTp (s : Shelf) : (setDrives s).pollTp = s.pollTp := rfl
@[simp] theorem setDrives_modules (s : Shelf) : (setDrives s).modules = s.modules := rfl
@[simp] theorem setDrives_replies (s : Shelf) : (setDrives s).replies = s.replies := rfl
@[simp] theorem setDrives_replyWait (s : Shelf) : (setDrives s).replyWait = s.replyWait := rfl
@[simp] theorem setDrives_notices (s : Shelf) : (setDrives s).notices = s.notices := rfl
@[simp] theorem setDrives_telemetry (s : Shelf) : (setDrives s).telemetry = s.telemetry := rfl
@[simp] theorem setDrives_telemetryRun (s : Shelf) :
    (setDrives s).telemetryRun = s.telemetryRun := rfl
@[simp] theorem setDrives_telemetryDrops (s : Shelf) :
    (setDrives s).telemetryDrops = s.telemetryDrops := rfl
@[simp] theorem setDrives_restart (s : Shelf) : (setDrives s).restart = s.restart := rfl
@[simp] theorem setDrives_level (s : Shelf) : (setDrives s).level = s.level := rfl
@[simp] theorem setDrives_agenda (s : Shelf) : (setDrives s).agenda = s.agenda := rfl
@[simp] theorem setDrives_deferred (s : Shelf) : (setDrives s).deferred = s.deferred := rfl
@[simp] theorem setDrives_raised (s : Shelf) : (setDrives s).raised = s.raised := rfl
@[simp] theorem setDrives_admitDue (s : Shelf) : (setDrives s).admitDue = s.admitDue := rfl
@[simp] theorem setDrives_causes (s : Shelf) : (setDrives s).causes = s.causes := rfl
@[simp] theorem setDrives_applying (s : Shelf) : (setDrives s).applying = s.applying := rfl

/-! ### `editTray` touches `bay` -/

@[simp] theorem editTray_shelfTime (t : Nat) (f : Tray → Tray) (s : Shelf) :
    (editTray t f s).shelfTime = s.shelfTime := rfl
@[simp] theorem editTray_ambient (t : Nat) (f : Tray → Tray) (s : Shelf) :
    (editTray t f s).ambient = s.ambient := rfl
@[simp] theorem editTray_tables (t : Nat) (f : Tray → Tray) (s : Shelf) :
    (editTray t f s).tables = s.tables := rfl
@[simp] theorem editTray_loads (t : Nat) (f : Tray → Tray) (s : Shelf) :
    (editTray t f s).loads = s.loads := rfl
@[simp] theorem editTray_window (t : Nat) (f : Tray → Tray) (s : Shelf) :
    (editTray t f s).window = s.window := rfl
@[simp] theorem editTray_lines (t : Nat) (f : Tray → Tray) (s : Shelf) :
    (editTray t f s).lines = s.lines := rfl
@[simp] theorem editTray_sampling (t : Nat) (f : Tray → Tray) (s : Shelf) :
    (editTray t f s).sampling = s.sampling := rfl
@[simp] theorem editTray_shelfStop (t : Nat) (f : Tray → Tray) (s : Shelf) :
    (editTray t f s).shelfStop = s.shelfStop := rfl
@[simp] theorem editTray_drives (t : Nat) (f : Tray → Tray) (s : Shelf) :
    (editTray t f s).drives = s.drives := rfl
@[simp] theorem editTray_signals (t : Nat) (f : Tray → Tray) (s : Shelf) :
    (editTray t f s).signals = s.signals := rfl
@[simp] theorem editTray_balance (t : Nat) (f : Tray → Tray) (s : Shelf) :
    (editTray t f s).balance = s.balance := rfl
@[simp] theorem editTray_psms (t : Nat) (f : Tray → Tray) (s : Shelf) :
    (editTray t f s).psms = s.psms := rfl
@[simp] theorem editTray_bbms (t : Nat) (f : Tray → Tray) (s : Shelf) :
    (editTray t f s).bbms = s.bbms := rfl
@[simp] theorem editTray_chargeBudget (t : Nat) (f : Tray → Tray) (s : Shelf) :
    (editTray t f s).chargeBudget = s.chargeBudget := rfl
@[simp] theorem editTray_ride (t : Nat) (f : Tray → Tray) (s : Shelf) :
    (editTray t f s).ride = s.ride := rfl
@[simp] theorem editTray_seq (t : Nat) (f : Tray → Tray) (s : Shelf) :
    (editTray t f s).seq = s.seq := rfl
@[simp] theorem editTray_zones (t : Nat) (f : Tray → Tray) (s : Shelf) :
    (editTray t f s).zones = s.zones := rfl
@[simp] theorem editTray_engUp (t : Nat) (f : Tray → Tray) (s : Shelf) :
    (editTray t f s).engUp = s.engUp := rfl
@[simp] theorem editTray_engSp (t : Nat) (f : Tray → Tray) (s : Shelf) :
    (editTray t f s).engSp = s.engSp := rfl
@[simp] theorem editTray_engTp (t : Nat) (f : Tray → Tray) (s : Shelf) :
    (editTray t f s).engTp = s.engTp := rfl
@[simp] theorem editTray_pollSp (t : Nat) (f : Tray → Tray) (s : Shelf) :
    (editTray t f s).pollSp = s.pollSp := rfl
@[simp] theorem editTray_pollTp (t : Nat) (f : Tray → Tray) (s : Shelf) :
    (editTray t f s).pollTp = s.pollTp := rfl
@[simp] theorem editTray_modules (t : Nat) (f : Tray → Tray) (s : Shelf) :
    (editTray t f s).modules = s.modules := rfl
@[simp] theorem editTray_replies (t : Nat) (f : Tray → Tray) (s : Shelf) :
    (editTray t f s).replies = s.replies := rfl
@[simp] theorem editTray_replyWait (t : Nat) (f : Tray → Tray) (s : Shelf) :
    (editTray t f s).replyWait = s.replyWait := rfl
@[simp] theorem editTray_notices (t : Nat) (f : Tray → Tray) (s : Shelf) :
    (editTray t f s).notices = s.notices := rfl
@[simp] theorem editTray_telemetry (t : Nat) (f : Tray → Tray) (s : Shelf) :
    (editTray t f s).telemetry = s.telemetry := rfl
@[simp] theorem editTray_telemetryRun (t : Nat) (f : Tray → Tray) (s : Shelf) :
    (editTray t f s).telemetryRun = s.telemetryRun := rfl
@[simp] theorem editTray_telemetryDrops (t : Nat) (f : Tray → Tray) (s : Shelf) :
    (editTray t f s).telemetryDrops = s.telemetryDrops := rfl
@[simp] theorem editTray_restart (t : Nat) (f : Tray → Tray) (s : Shelf) :
    (editTray t f s).restart = s.restart := rfl
@[simp] theorem editTray_level (t : Nat) (f : Tray → Tray) (s : Shelf) :
    (editTray t f s).level = s.level := rfl
@[simp] theorem editTray_agenda (t : Nat) (f : Tray → Tray) (s : Shelf) :
    (editTray t f s).agenda = s.agenda := rfl
@[simp] theorem editTray_deferred (t : Nat) (f : Tray → Tray) (s : Shelf) :
    (editTray t f s).deferred = s.deferred := rfl
@[simp] theorem editTray_raised (t : Nat) (f : Tray → Tray) (s : Shelf) :
    (editTray t f s).raised = s.raised := rfl
@[simp] theorem editTray_admitDue (t : Nat) (f : Tray → Tray) (s : Shelf) :
    (editTray t f s).admitDue = s.admitDue := rfl
@[simp] theorem editTray_causes (t : Nat) (f : Tray → Tray) (s : Shelf) :
    (editTray t f s).causes = s.causes := rfl
@[simp] theorem editTray_applying (t : Nat) (f : Tray → Tray) (s : Shelf) :
    (editTray t f s).applying = s.applying := rfl

/-! ### `setEngine` touches `engUp`, `engSp`, `engTp` -/

@[simp] theorem setEngine_shelfTime (p : Port) (e : PortEngine) (s : Shelf) :
    (setEngine p e s).shelfTime = s.shelfTime := by rw [setEngine_eq]
@[simp] theorem setEngine_ambient (p : Port) (e : PortEngine) (s : Shelf) :
    (setEngine p e s).ambient = s.ambient := by rw [setEngine_eq]
@[simp] theorem setEngine_tables (p : Port) (e : PortEngine) (s : Shelf) :
    (setEngine p e s).tables = s.tables := by rw [setEngine_eq]
@[simp] theorem setEngine_loads (p : Port) (e : PortEngine) (s : Shelf) :
    (setEngine p e s).loads = s.loads := by rw [setEngine_eq]
@[simp] theorem setEngine_window (p : Port) (e : PortEngine) (s : Shelf) :
    (setEngine p e s).window = s.window := by rw [setEngine_eq]
@[simp] theorem setEngine_lines (p : Port) (e : PortEngine) (s : Shelf) :
    (setEngine p e s).lines = s.lines := by rw [setEngine_eq]
@[simp] theorem setEngine_sampling (p : Port) (e : PortEngine) (s : Shelf) :
    (setEngine p e s).sampling = s.sampling := by rw [setEngine_eq]
@[simp] theorem setEngine_shelfStop (p : Port) (e : PortEngine) (s : Shelf) :
    (setEngine p e s).shelfStop = s.shelfStop := by rw [setEngine_eq]
@[simp] theorem setEngine_drives (p : Port) (e : PortEngine) (s : Shelf) :
    (setEngine p e s).drives = s.drives := by rw [setEngine_eq]
@[simp] theorem setEngine_signals (p : Port) (e : PortEngine) (s : Shelf) :
    (setEngine p e s).signals = s.signals := by rw [setEngine_eq]
@[simp] theorem setEngine_balance (p : Port) (e : PortEngine) (s : Shelf) :
    (setEngine p e s).balance = s.balance := by rw [setEngine_eq]
@[simp] theorem setEngine_psms (p : Port) (e : PortEngine) (s : Shelf) :
    (setEngine p e s).psms = s.psms := by rw [setEngine_eq]
@[simp] theorem setEngine_bbms (p : Port) (e : PortEngine) (s : Shelf) :
    (setEngine p e s).bbms = s.bbms := by rw [setEngine_eq]
@[simp] theorem setEngine_chargeBudget (p : Port) (e : PortEngine) (s : Shelf) :
    (setEngine p e s).chargeBudget = s.chargeBudget := by rw [setEngine_eq]
@[simp] theorem setEngine_ride (p : Port) (e : PortEngine) (s : Shelf) :
    (setEngine p e s).ride = s.ride := by rw [setEngine_eq]
@[simp] theorem setEngine_bay (p : Port) (e : PortEngine) (s : Shelf) :
    (setEngine p e s).bay = s.bay := by rw [setEngine_eq]
@[simp] theorem setEngine_seq (p : Port) (e : PortEngine) (s : Shelf) :
    (setEngine p e s).seq = s.seq := by rw [setEngine_eq]
@[simp] theorem setEngine_zones (p : Port) (e : PortEngine) (s : Shelf) :
    (setEngine p e s).zones = s.zones := by rw [setEngine_eq]
@[simp] theorem setEngine_pollSp (p : Port) (e : PortEngine) (s : Shelf) :
    (setEngine p e s).pollSp = s.pollSp := by rw [setEngine_eq]
@[simp] theorem setEngine_pollTp (p : Port) (e : PortEngine) (s : Shelf) :
    (setEngine p e s).pollTp = s.pollTp := by rw [setEngine_eq]
@[simp] theorem setEngine_modules (p : Port) (e : PortEngine) (s : Shelf) :
    (setEngine p e s).modules = s.modules := by rw [setEngine_eq]
@[simp] theorem setEngine_replies (p : Port) (e : PortEngine) (s : Shelf) :
    (setEngine p e s).replies = s.replies := by rw [setEngine_eq]
@[simp] theorem setEngine_replyWait (p : Port) (e : PortEngine) (s : Shelf) :
    (setEngine p e s).replyWait = s.replyWait := by rw [setEngine_eq]
@[simp] theorem setEngine_notices (p : Port) (e : PortEngine) (s : Shelf) :
    (setEngine p e s).notices = s.notices := by rw [setEngine_eq]
@[simp] theorem setEngine_telemetry (p : Port) (e : PortEngine) (s : Shelf) :
    (setEngine p e s).telemetry = s.telemetry := by rw [setEngine_eq]
@[simp] theorem setEngine_telemetryRun (p : Port) (e : PortEngine) (s : Shelf) :
    (setEngine p e s).telemetryRun = s.telemetryRun := by rw [setEngine_eq]
@[simp] theorem setEngine_telemetryDrops (p : Port) (e : PortEngine) (s : Shelf) :
    (setEngine p e s).telemetryDrops = s.telemetryDrops := by rw [setEngine_eq]
@[simp] theorem setEngine_restart (p : Port) (e : PortEngine) (s : Shelf) :
    (setEngine p e s).restart = s.restart := by rw [setEngine_eq]
@[simp] theorem setEngine_level (p : Port) (e : PortEngine) (s : Shelf) :
    (setEngine p e s).level = s.level := by rw [setEngine_eq]
@[simp] theorem setEngine_agenda (p : Port) (e : PortEngine) (s : Shelf) :
    (setEngine p e s).agenda = s.agenda := by rw [setEngine_eq]
@[simp] theorem setEngine_deferred (p : Port) (e : PortEngine) (s : Shelf) :
    (setEngine p e s).deferred = s.deferred := by rw [setEngine_eq]
@[simp] theorem setEngine_raised (p : Port) (e : PortEngine) (s : Shelf) :
    (setEngine p e s).raised = s.raised := by rw [setEngine_eq]
@[simp] theorem setEngine_admitDue (p : Port) (e : PortEngine) (s : Shelf) :
    (setEngine p e s).admitDue = s.admitDue := by rw [setEngine_eq]
@[simp] theorem setEngine_causes (p : Port) (e : PortEngine) (s : Shelf) :
    (setEngine p e s).causes = s.causes := by rw [setEngine_eq]
@[simp] theorem setEngine_applying (p : Port) (e : PortEngine) (s : Shelf) :
    (setEngine p e s).applying = s.applying := by rw [setEngine_eq]

/-! ### `setPoll` touches `pollSp`, `pollTp` -/

@[simp] theorem setPoll_shelfTime (p : Port) (e : PollEngine) (s : Shelf) :
    (setPoll p e s).shelfTime = s.shelfTime := by rw [setPoll_eq]
@[simp] theorem setPoll_ambient (p : Port) (e : PollEngine) (s : Shelf) :
    (setPoll p e s).ambient = s.ambient := by rw [setPoll_eq]
@[simp] theorem setPoll_tables (p : Port) (e : PollEngine) (s : Shelf) :
    (setPoll p e s).tables = s.tables := by rw [setPoll_eq]
@[simp] theorem setPoll_loads (p : Port) (e : PollEngine) (s : Shelf) :
    (setPoll p e s).loads = s.loads := by rw [setPoll_eq]
@[simp] theorem setPoll_window (p : Port) (e : PollEngine) (s : Shelf) :
    (setPoll p e s).window = s.window := by rw [setPoll_eq]
@[simp] theorem setPoll_lines (p : Port) (e : PollEngine) (s : Shelf) :
    (setPoll p e s).lines = s.lines := by rw [setPoll_eq]
@[simp] theorem setPoll_sampling (p : Port) (e : PollEngine) (s : Shelf) :
    (setPoll p e s).sampling = s.sampling := by rw [setPoll_eq]
@[simp] theorem setPoll_shelfStop (p : Port) (e : PollEngine) (s : Shelf) :
    (setPoll p e s).shelfStop = s.shelfStop := by rw [setPoll_eq]
@[simp] theorem setPoll_drives (p : Port) (e : PollEngine) (s : Shelf) :
    (setPoll p e s).drives = s.drives := by rw [setPoll_eq]
@[simp] theorem setPoll_signals (p : Port) (e : PollEngine) (s : Shelf) :
    (setPoll p e s).signals = s.signals := by rw [setPoll_eq]
@[simp] theorem setPoll_balance (p : Port) (e : PollEngine) (s : Shelf) :
    (setPoll p e s).balance = s.balance := by rw [setPoll_eq]
@[simp] theorem setPoll_psms (p : Port) (e : PollEngine) (s : Shelf) :
    (setPoll p e s).psms = s.psms := by rw [setPoll_eq]
@[simp] theorem setPoll_bbms (p : Port) (e : PollEngine) (s : Shelf) :
    (setPoll p e s).bbms = s.bbms := by rw [setPoll_eq]
@[simp] theorem setPoll_chargeBudget (p : Port) (e : PollEngine) (s : Shelf) :
    (setPoll p e s).chargeBudget = s.chargeBudget := by rw [setPoll_eq]
@[simp] theorem setPoll_ride (p : Port) (e : PollEngine) (s : Shelf) :
    (setPoll p e s).ride = s.ride := by rw [setPoll_eq]
@[simp] theorem setPoll_bay (p : Port) (e : PollEngine) (s : Shelf) :
    (setPoll p e s).bay = s.bay := by rw [setPoll_eq]
@[simp] theorem setPoll_seq (p : Port) (e : PollEngine) (s : Shelf) :
    (setPoll p e s).seq = s.seq := by rw [setPoll_eq]
@[simp] theorem setPoll_zones (p : Port) (e : PollEngine) (s : Shelf) :
    (setPoll p e s).zones = s.zones := by rw [setPoll_eq]
@[simp] theorem setPoll_engUp (p : Port) (e : PollEngine) (s : Shelf) :
    (setPoll p e s).engUp = s.engUp := by rw [setPoll_eq]
@[simp] theorem setPoll_engSp (p : Port) (e : PollEngine) (s : Shelf) :
    (setPoll p e s).engSp = s.engSp := by rw [setPoll_eq]
@[simp] theorem setPoll_engTp (p : Port) (e : PollEngine) (s : Shelf) :
    (setPoll p e s).engTp = s.engTp := by rw [setPoll_eq]
@[simp] theorem setPoll_modules (p : Port) (e : PollEngine) (s : Shelf) :
    (setPoll p e s).modules = s.modules := by rw [setPoll_eq]
@[simp] theorem setPoll_replies (p : Port) (e : PollEngine) (s : Shelf) :
    (setPoll p e s).replies = s.replies := by rw [setPoll_eq]
@[simp] theorem setPoll_replyWait (p : Port) (e : PollEngine) (s : Shelf) :
    (setPoll p e s).replyWait = s.replyWait := by rw [setPoll_eq]
@[simp] theorem setPoll_notices (p : Port) (e : PollEngine) (s : Shelf) :
    (setPoll p e s).notices = s.notices := by rw [setPoll_eq]
@[simp] theorem setPoll_telemetry (p : Port) (e : PollEngine) (s : Shelf) :
    (setPoll p e s).telemetry = s.telemetry := by rw [setPoll_eq]
@[simp] theorem setPoll_telemetryRun (p : Port) (e : PollEngine) (s : Shelf) :
    (setPoll p e s).telemetryRun = s.telemetryRun := by rw [setPoll_eq]
@[simp] theorem setPoll_telemetryDrops (p : Port) (e : PollEngine) (s : Shelf) :
    (setPoll p e s).telemetryDrops = s.telemetryDrops := by rw [setPoll_eq]
@[simp] theorem setPoll_restart (p : Port) (e : PollEngine) (s : Shelf) :
    (setPoll p e s).restart = s.restart := by rw [setPoll_eq]
@[simp] theorem setPoll_level (p : Port) (e : PollEngine) (s : Shelf) :
    (setPoll p e s).level = s.level := by rw [setPoll_eq]
@[simp] theorem setPoll_agenda (p : Port) (e : PollEngine) (s : Shelf) :
    (setPoll p e s).agenda = s.agenda := by rw [setPoll_eq]
@[simp] theorem setPoll_deferred (p : Port) (e : PollEngine) (s : Shelf) :
    (setPoll p e s).deferred = s.deferred := by rw [setPoll_eq]
@[simp] theorem setPoll_raised (p : Port) (e : PollEngine) (s : Shelf) :
    (setPoll p e s).raised = s.raised := by rw [setPoll_eq]
@[simp] theorem setPoll_admitDue (p : Port) (e : PollEngine) (s : Shelf) :
    (setPoll p e s).admitDue = s.admitDue := by rw [setPoll_eq]
@[simp] theorem setPoll_causes (p : Port) (e : PollEngine) (s : Shelf) :
    (setPoll p e s).causes = s.causes := by rw [setPoll_eq]
@[simp] theorem setPoll_applying (p : Port) (e : PollEngine) (s : Shelf) :
    (setPoll p e s).applying = s.applying := by rw [setPoll_eq]

/-! ### The fields they touch -/

@[simp] theorem emit_raised (t : Task) (s : Shelf) : (emit t s).raised = s.raised ++ [t] := rfl
@[simp] theorem emitAll_raised (ts : List Task) (s : Shelf) :
    (emitAll ts s).raised = s.raised ++ ts := rfl
@[simp] theorem postponeFirst_deferred (t : Task) (s : Shelf) :
    (postponeFirst t s).deferred = t :: s.deferred := rfl
@[simp] theorem admissionDue_admitDue (s : Shelf) : (admissionDue s).admitDue = true := rfl
@[simp] theorem setSeq_seq (f : Sequencer → Sequencer) (s : Shelf) : (setSeq f s).seq = f s.seq := rfl
@[simp] theorem post_notices (a b c d e : Nat) (s : Shelf) :
    (post a b c d e s).notices = offerNotice ⟨s.shelfTime, a, b, c, false, d, e⟩ s.notices := rfl
@[simp] theorem editTray_queue (t : Nat) (f : Tray → Tray) (s : Shelf) :
    (editTray t f s).bay.queue = s.bay.queue := rfl
@[simp] theorem editTray_stack (t : Nat) (f : Tray → Tray) (s : Shelf) :
    (editTray t f s).bay.stack = s.bay.stack := rfl

/-- A change of a tray's fields leaves every tray's state. -/
@[simp] theorem editTray_state (t u : Nat) (f : Tray → Tray) (s : Shelf) :
    trayState (editTray t f s) u = trayState s u := by
  unfold trayState editTray
  simp only [vget_vmod]
  split <;> rfl

end Sys2Proof.Machine
end

