-- ==== Sys2Proof/Laws/Bay.lean ====
section
/-! SUPPORT. The trays with the two lists that follow their states: what a move does, and that the start queue
and the restore stack stay exact through it (R76, R92). -/

namespace Sys2Proof.Machine

/-- A tray that takes a state, and every other tray. -/
theorem vget_moveTray (t u : Nat) (new : TrayState) (f : Tray → Tray) (b : Bay) :
    vget (moveTray t new f b).trays u =
      if t = u ∧ u < Config.trayCount then { f (vget b.trays u) with state := new }
      else vget b.trays u := by
  unfold moveTray
  by_cases ht : t < Config.trayCount
  · rw [if_pos ht]
    simp only [vget_vset]
    by_cases h : t = u
    · subst h
      rfl
    · simp [h]
  · rw [if_neg ht, if_neg (by rintro ⟨rfl, h⟩; exact ht h)]

/-- The state of each tray after a move. -/
theorem state_moveTray (t u : Nat) (new : TrayState) (f : Tray → Tray) (b : Bay) :
    (vget (moveTray t new f b).trays u).state =
      if t = u ∧ u < Config.trayCount then new else (vget b.trays u).state := by
  rw [vget_moveTray]
  split <;> rfl

/-- The trays of the start queue after a move. -/
theorem mem_queue_moveTray (t x : Nat) (new : TrayState) (f : Tray → Tray) (b : Bay)
    (ht : t < Config.trayCount) :
    x ∈ (moveTray t new f b).queue ↔
      if x = t then new = .queued else x ∈ b.queue := by
  rw [moveTray, if_pos ht]
  by_cases hn : new = .queued
  · by_cases hm : t ∈ b.queue
    · by_cases hx : x = t <;> simp [hn, hm, hx]
    · by_cases hx : x = t <;> simp [hn, hm, hx]
  · by_cases hx : x = t <;> simp [hn, hx]

/-- The trays of the restore stack after a move. -/
theorem mem_stack_moveTray (t x : Nat) (new : TrayState) (f : Tray → Tray) (b : Bay)
    (ht : t < Config.trayCount) :
    x ∈ (moveTray t new f b).stack ↔
      if x = t then onStack new = true else x ∈ b.stack := by
  rw [moveTray, if_pos ht]
  by_cases hn : onStack new = true
  · by_cases hm : t ∈ b.stack
    · by_cases hx : x = t <;> simp [hn, hm, hx]
    · by_cases hx : x = t <;> simp [hn, hm, hx]
  · by_cases hx : x = t <;> simp [hn, hx]

/-- A move puts no tray into the start queue twice. -/
theorem nodup_queue_moveTray (t : Nat) (new : TrayState) (f : Tray → Tray) {b : Bay}
    (h : b.queue.Nodup) : (moveTray t new f b).queue.Nodup := by
  unfold moveTray
  split
  · dsimp only
    split
    · split
      · exact h
      · rename_i hm
        refine List.nodup_append.mpr ⟨h, by simp, fun a ha x hx e => hm ?_⟩
        rw [List.mem_singleton] at hx
        exact hx ▸ e ▸ ha
    · exact h.filter _
  · exact h

/-- A move puts no tray onto the restore stack twice. -/
theorem nodup_stack_moveTray (t : Nat) (new : TrayState) (f : Tray → Tray) {b : Bay}
    (h : b.stack.Nodup) : (moveTray t new f b).stack.Nodup := by
  unfold moveTray
  split
  · dsimp only
    split
    · split
      · exact h
      · rename_i hm
        exact List.nodup_cons.mpr ⟨hm, h⟩
    · exact h.filter _
  · exact h

/-- A move keeps the queue and the stack exact (R76, R92). -/
theorem bayExact_moveTray (t : Nat) (new : TrayState) (f : Tray → Tray) {b : Bay} (h : BayExact b) :
    BayExact (moveTray t new f b) := by
  by_cases ht : t < Config.trayCount
  · refine ⟨nodup_queue_moveTray t new f h.1, nodup_stack_moveTray t new f h.2.1, fun x => ?_,
      fun x => ?_⟩
    · rw [mem_queue_moveTray t x new f b ht, state_moveTray]
      by_cases hx : x = t
      · subst hx
        simp [ht]
      · simp only [hx, if_false, Ne.symm hx, false_and]
        exact h.2.2.1 x
    · rw [mem_stack_moveTray t x new f b ht, state_moveTray]
      by_cases hx : x = t
      · subst hx
        simp [ht]
      · simp only [hx, if_false, Ne.symm hx, false_and]
        exact h.2.2.2 x
  · rw [moveTray, if_neg ht]
    exact h

/-- A change of a tray's fields that leaves its state keeps them exact. -/
theorem bayExact_edit (t : Nat) (f : Tray → Tray) {b : Bay} (h : BayExact b) :
    BayExact { b with trays := vmod b.trays t fun r => { f r with state := r.state } } := by
  have hs : ∀ u, (vget (vmod b.trays t fun r => { f r with state := r.state }) u).state =
      (vget b.trays u).state := by
    intro u
    rw [vget_vmod]
    split <;> rfl
  exact ⟨h.1, h.2.1, fun u => by rw [hs]; exact h.2.2.1 u, fun u => by rw [hs]; exact h.2.2.2 u⟩

/-- A tray joins the start queue at its tail, where it stands in it already or as the last (R92). -/
theorem queue_moveTray_queued (t : Nat) (f : Tray → Tray) (b : Bay) (ht : t < Config.trayCount) :
    (moveTray t .queued f b).queue = if t ∈ b.queue then b.queue else b.queue ++ [t] := by
  rw [moveTray, if_pos ht]
  rfl

/-- A tray that takes any other state leaves the start queue, the order of the others kept (R92). -/
theorem queue_moveTray_leaves (t : Nat) {new : TrayState} (f : Tray → Tray) (b : Bay)
    (ht : t < Config.trayCount) (hn : new ≠ .queued) :
    (moveTray t new f b).queue = b.queue.filter fun x => x ≠ t := by
  rw [moveTray, if_pos ht]
  exact if_neg hn

/-! ### A tray state change -/

/-- What follows a tray's change touches the reactions alone. -/
theorem afterTray_eq (before : Shelf) (old new : TrayState) (s : Shelf) :
    afterTray before old new s =
      { s with
        deferred := (afterTray before old new s).deferred
        raised := (afterTray before old new s).raised
        admitDue := (afterTray before old new s).admitDue } := by
  unfold afterTray admissionDue emit postpone
  dsimp only
  repeat' split
  all_goals rfl

/-- A notice of a tray touches the Notice Queue alone. -/
theorem trayNotice_eq (t : Nat) (old new : TrayState) (s : Shelf) :
    trayNotice t old new s = { s with notices := (trayNotice t old new s).notices } := by
  unfold trayNotice
  split <;> rfl

/-- A tray state change touches the trays, the Notice Queue, the causes and the reactions alone. -/
theorem trayTo_eq (t : Nat) (new : TrayState) (f : Tray → Tray) (s : Shelf) :
    trayTo t new f s =
      { s with
        bay := (trayTo t new f s).bay, notices := (trayTo t new f s).notices
        causes := (trayTo t new f s).causes, deferred := (trayTo t new f s).deferred
        raised := (trayTo t new f s).raised, admitDue := (trayTo t new f s).admitDue } := by
  unfold trayTo
  dsimp only
  rw [afterTray_eq, changed_eq, trayNotice_eq]

/-- The trays after a tray state change. -/
theorem trayTo_bay (t : Nat) (new : TrayState) (f : Tray → Tray) (s : Shelf) :
    (trayTo t new f s).bay =
      moveTray t new
        (fun r => { f r with
          stateTime := s.shelfTime
          fault := if new = .fault then (f r).fault else none
          queuedBy := if new = .queued then (f r).queuedBy else none }) s.bay := by
  unfold trayTo
  dsimp only
  rw [afterTray_eq, changed_eq, trayNotice_eq]

/-- The state of each tray after a tray state change. -/
@[simp] theorem trayState_trayTo (t u : Nat) (new : TrayState) (f : Tray → Tray) (s : Shelf) :
    trayState (trayTo t new f s) u =
      if t = u ∧ u < Config.trayCount then new else trayState s u := by
  unfold trayState
  rw [trayTo_bay, state_moveTray]

/-- A tray state change leaves every other tray as it was. -/
theorem vget_trayTo_ne {t u : Nat} (new : TrayState) (f : Tray → Tray) (s : Shelf) (h : u ≠ t) :
    vget (trayTo t new f s).bay.trays u = vget s.bay.trays u := by
  rw [trayTo_bay, vget_moveTray, if_neg (fun x => h x.1.symm)]

end Sys2Proof.Machine
end

