-- ==== Sys2Proof/Laws/Orders.lean ====
section
/-! SUPPORT. What placing an order to a battery can do (R53, R147), and to which owner an absence goes (R139):
each said once. -/

namespace Sys2Proof.Machine

/-- The orders of a control queue once an order is placed: that order, and those of every other module (R147). -/
theorem mem_queueOrder {o x : ControlOrder} {q : List ControlOrder} :
    x ∈ queueOrder o q ↔ x = o ∨ (x ∈ q ∧ x.roster ≠ o.roster) := by
  unfold queueOrder
  split
  case isTrue h =>
    obtain ⟨y, hy, same⟩ := List.any_eq_true.mp h
    simp only [List.mem_map]
    constructor
    · rintro ⟨z, hz, rfl⟩
      split
      · exact .inl rfl
      · exact .inr ⟨hz, ‹_›⟩
    · rintro (rfl | ⟨hx, hne⟩)
      · exact ⟨y, hy, if_pos (by simpa using same)⟩
      · exact ⟨x, hx, if_neg hne⟩
  case isFalse h =>
    simp only [List.any_eq_true, decide_eq_true_eq, not_exists, not_and] at h
    simp only [List.mem_append, List.mem_singleton]
    constructor
    · rintro (hx | rfl)
      · exact .inr ⟨hx, h x hx⟩
      · exact .inl rfl
    · rintro (rfl | ⟨hx, -⟩)
      · exact .inr rfl
      · exact .inl hx

/-- The control order that an order to a battery becomes, where its entry is in use, its Roster entry is the
battery's and SP is ENABLED (R53, R147). -/
def batteryControl (s : Shelf) (k : Nat) (code : Byte) (argument : Nat) : Option ControlOrder :=
  if s.engSp.enabled then
    (bbmAt s k).bind fun e => orderFor s e.roster (.bbm k) code argument
  else none

/-- A module's control order carries its target. -/
theorem target_orderFor {s : Shelf} {roster : Nat} {target : Target} {code : Byte} {argument : Nat}
    {o : ControlOrder} (h : orderFor s roster target code argument = some o) : o.target = target := by
  unfold orderFor at h
  cases hr : rosterAt s roster with
  | none => simp [hr] at h
  | some e =>
    simp only [hr, Option.ite_none_right_eq_some, Option.some.injEq] at h
    rw [← h.2]

/-- Ordering a battery touches SP's control queue and the reactions alone. -/
theorem placeBbm_eq (k : Nat) (code : Byte) (argument : Nat) (s : Shelf) :
    placeBbm k code argument s =
      { s with
        pollSp := { s.pollSp with control := (placeBbm k code argument s).pollSp.control }
        raised := (placeBbm k code argument s).raised } := by
  unfold placeBbm orderModule
  split
  case h_2 => rfl
  case h_1 e _ =>
    split
    case h_2 => rfl
    case h_1 o ho =>
      have sp : targetPort o.target = .sp := by rw [target_orderFor ho]; rfl
      simp only [placeControl, sp]
      split <;> rfl

/-- SP's control queue once a battery is ordered (R53, R147). -/
theorem control_placeBbm (k : Nat) (code : Byte) (argument : Nat) (s : Shelf) :
    (placeBbm k code argument s).pollSp.control =
      match batteryControl s k code argument with
      | some o => queueOrder o s.pollSp.control
      | none => s.pollSp.control := by
  unfold placeBbm orderModule batteryControl
  cases hb : bbmAt s k with
  | none => simp
  | some e =>
    cases ho : orderFor s e.roster (.bbm k) code argument with
    | none => simp [ho, emitAll]
    | some o =>
      have sp : targetPort o.target = .sp := by rw [target_orderFor ho]; rfl
      cases he : s.engSp.enabled <;> simp [ho, he, placeControl, sp, engine, setPoll, pollEngine, emitAll]

/-- A battery's control order names the Roster entry of its parameters, and that entry is the battery's. -/
theorem batteryControl_eq_some {s : Shelf} {k : Nat} {code : Byte} {argument : Nat} {o : ControlOrder} :
    batteryControl s k code argument = some o ↔
      s.engSp.enabled = true ∧ ∃ e m, bbmAt s k = some e ∧ rosterAt s e.roster = some m ∧
        rosterIs s e.roster .bbm k = true ∧
        o = ⟨e.roster, BitVec.ofNat 8 m.address, code, argument, .bbm k⟩ := by
  cases hb : bbmAt s k with
  | none => simp [batteryControl, hb]
  | some e =>
    cases hr : rosterAt s e.roster with
    | none => simp [batteryControl, hb, orderFor, hr]
    | some m =>
      simp only [batteryControl, hb, orderFor, hr, Option.bind_some, Option.ite_none_right_eq_some,
        Option.some.injEq]
      constructor
      · rintro ⟨he, hi, rfl⟩
        exact ⟨he, e, m, rfl, hr, hi, rfl⟩
      · rintro ⟨he, e', m', rfl, hm, hi, rfl⟩
        rw [hr] at hm
        exact ⟨he, hi, by rw [Option.some.inj hm]⟩

/-- An absence is told to the owner of the module's kind, whose entry names the Roster entry, and to no other
(R139). -/
theorem tellOwner_cases (e : RosterEntry) (r : Nat) (s : Shelf) :
    tellOwner e r s = s ∨
      (e.kind = .psm ∧ (psmAt s e.index).any (fun x => x.roster = r) = true ∧
        tellOwner e r s = psmAbsent e.index s) ∨
      (e.kind = .bbm ∧ (bbmAt s e.index).any (fun x => x.roster = r) = true ∧
        tellOwner e r s = bbmAbsent e.index s) ∨
      (e.kind = .tray ∧ (trayAt s e.index).any (fun x => x.roster = r) = true ∧
        tellOwner e r s = trayAbsent e.index s) := by
  unfold tellOwner
  cases hk : e.kind <;> simp only
  · by_cases h : ((psmAt s e.index).any fun x => x.roster = r) = true
    · exact .inr (.inl ⟨trivial, h, if_pos h⟩)
    · exact .inl (if_neg h)
  · by_cases h : ((bbmAt s e.index).any fun x => x.roster = r) = true
    · exact .inr (.inr (.inl ⟨trivial, h, if_pos h⟩))
    · exact .inl (if_neg h)
  · by_cases h : ((trayAt s e.index).any fun x => x.roster = r) = true
    · exact .inr (.inr (.inr ⟨trivial, h, if_pos h⟩))
    · exact .inl (if_neg h)
  · exact .inl trivial

end Sys2Proof.Machine
end

