-- ==== Sys2Proof/Laws/Trays.lean ====
section
/-! SUPPORT. What a tray state change, an OUTPUT-OFF and a renewed record can do (R90, R105, R106), said once each. -/

namespace Sys2Proof.Machine

/-! ### What follows a tray state change -/

/-- A change handed on with cause TRAY is a raised recomputation (R26). -/
theorem changed_tray (s : Shelf) :
    Task.balance ∈ (changed [.tray] s).raised ∧ Cause.tray ∈ (changed [.tray] s).causes := by
  unfold changed addCause emit
  simp
  split <;> simp_all

/-- No raised reaction is lost by what follows a tray's change. -/
theorem mem_raised_afterTray (before : Shelf) (old new : TrayState) {s : Shelf} {t : Task}
    (h : t ∈ s.raised) : t ∈ (afterTray before old new s).raised := by
  unfold afterTray admissionDue emit postpone
  dsimp only
  repeat' split
  all_goals first | exact h | exact List.mem_append_left _ h

/-- An admission evaluation that is due stays due. -/
theorem admitDue_afterTray (before : Shelf) (old new : TrayState) {s : Shelf} (h : s.admitDue = true) :
    (afterTray before old new s).admitDue = true := by
  unfold afterTray admissionDue emit postpone
  dsimp only
  repeat' split
  all_goals first | exact h | rfl

/-- A tray that leaves STARTING asks for an admission evaluation (R93). -/
theorem admitDue_afterTray_starting (before : Shelf) {new : TrayState} (s : Shelf)
    (h : new ≠ .starting) : (afterTray before .starting new s).admitDue = true := by
  unfold afterTray
  dsimp only
  rw [if_pos (show new = .queued ∨ new = .shed ∨ (TrayState.starting = .starting ∧ new ≠ .starting)
    from .inr (.inr ⟨rfl, h⟩))]
  repeat' split
  all_goals rfl

/-- A tray that enters QUEUED or becomes SHED asks for an admission evaluation (R93). -/
theorem admitDue_afterTray_lists (before : Shelf) (old new : TrayState) (s : Shelf)
    (h : new = .queued ∨ new = .shed) : (afterTray before old new s).admitDue = true := by
  unfold afterTray
  dsimp only
  rw [if_pos (show new = .queued ∨ new = .shed ∨ (old = .starting ∧ new ≠ .starting) by tauto)]
  repeat' split
  all_goals rfl

/-- A postponed reaction waits. -/
theorem mem_deferred_postpone (t : Task) (s : Shelf) : t ∈ (postpone t s).deferred := by
  unfold postpone
  split
  · assumption
  · simp

/-- No postponed reaction is lost by another. -/
theorem mem_deferred_postpone_of {t u : Task} {s : Shelf} (h : t ∈ s.deferred) :
    t ∈ (postpone u s).deferred := by
  unfold postpone
  split
  · exact h
  · exact List.mem_append_left _ h

/-- A changed head of the start queue asks for an admission and a charge evaluation (R92, R93). -/
theorem afterTray_head (before : Shelf) (old new : TrayState) {s : Shelf}
    (h : before.bay.queue.head? ≠ s.bay.queue.head?) :
    (afterTray before old new s).admitDue = true ∧ Task.charge ∈ (afterTray before old new s).deferred := by
  unfold afterTray
  dsimp only
  rw [if_pos h]
  have charge := mem_deferred_postpone .charge s
  unfold admissionDue emit
  repeat' split
  all_goals first
    | exact ⟨rfl, charge⟩
    | exact ⟨rfl, mem_deferred_postpone_of charge⟩

/-- A changed restore stack asks for an admission evaluation and is tested (R76, R82, R93). -/
theorem afterTray_stack (before : Shelf) (old new : TrayState) {s : Shelf}
    (h : before.bay.stack ≠ s.bay.stack) :
    (afterTray before old new s).admitDue = true ∧
      Task.stackChanged ∈ (afterTray before old new s).raised := by
  unfold afterTray admissionDue emit postpone
  dsimp only
  repeat' split
  all_goals exact ⟨rfl, List.mem_append_right _ (.head _)⟩

/-- Adoption is read from the trays and their table alone (R89). -/
theorem adoptionComplete_congr {x y : Shelf} (tables : y.tables = x.tables) (bay : y.bay = x.bay) :
    adoptionComplete y = adoptionComplete x := by
  unfold adoptionComplete traysIn traysInUse trayState
  rw [bay, show trayAt y = trayAt x from by funext t; unfold trayAt recordAt; rw [tables]]

/-- Adoption that becomes complete asks for an admission evaluation and for the test of a pending autostart (R89,
R93, R120). -/
theorem afterTray_adopted (before : Shelf) (old new : TrayState) {s : Shelf}
    (h : adoptionComplete before = false) (hs : adoptionComplete s = true) :
    (afterTray before old new s).admitDue = true ∧
      Task.autostartTest ∈ (afterTray before old new s).deferred := by
  unfold afterTray
  dsimp only
  rw [if_pos (by
    rw [h, Bool.not_false, Bool.true_and, ← hs]
    apply adoptionComplete_congr <;> unfold admissionDue emit postpone <;> repeat' split
    all_goals rfl)]
  exact ⟨rfl, mem_deferred_postpone _ _⟩

/-! ### A tray state change -/

/-- The record a tray state change gives. -/
theorem vget_trayTo_self {t : Nat} (new : TrayState) (f : Tray → Tray) (s : Shelf)
    (ht : t < Config.trayCount) :
    vget (trayTo t new f s).bay.trays t =
      { f (vget s.bay.trays t) with
        state := new
        stateTime := s.shelfTime
        fault := if new = .fault then (f (vget s.bay.trays t)).fault else none
        queuedBy := if new = .queued then (f (vget s.bay.trays t)).queuedBy else none } := by
  rw [trayTo_bay, vget_moveTray, if_pos ⟨rfl, ht⟩]

/-- The notice of a tray state change: at an entry to FAULT, LOCKED or SHED (R105). -/
theorem notices_trayTo (t : Nat) (new : TrayState) (f : Tray → Tray) (s : Shelf) :
    (trayTo t new f s).notices =
      if new = .fault ∨ new = .locked ∨ new = .shed then
        offerNotice
          { time := s.shelfTime, source := 6, index := t, code := 8, more := false
            word1 := twoItems (trayStateNumber (vget s.bay.trays t).state) (trayStateNumber new)
            word2 := trayNoticeWord { s with bay := (trayTo t new f s).bay } t new } s.notices
      else s.notices := by
  rw [trayTo_bay]
  unfold trayTo
  dsimp only
  rw [afterTray_eq, changed_eq]
  unfold trayNotice
  split <;> rfl

/-- A tray that takes another state is told of as R105 says. -/
theorem trayTo_told {t : Nat} (new : TrayState) (f : Tray → Tray) (s : Shelf) (ht : t < Config.trayCount)
    (hne : (vget s.bay.trays t).state ≠ new) : TrayTold t s (trayTo t new f s) := by
  have state : (vget (trayTo t new f s).bay.trays t).state = new := by rw [vget_trayTo_self _ _ _ ht]
  have handed : Task.balance ∈ (trayTo t new f s).raised ∧ Cause.tray ∈ (trayTo t new f s).causes := by
    unfold trayTo
    exact ⟨mem_raised_afterTray _ _ _ (changed_tray _).1, by rw [afterTray_eq]; exact (changed_tray _).2⟩
  refine ⟨fun u hu => vget_trayTo_ne _ _ _ hu, fun _ => ⟨by rw [vget_trayTo_self _ _ _ ht], handed⟩,
    fun hp => ?_, fun hp => ?_, fun _ hp => ?_, fun hp => ?_, fun hp => ?_, fun ha hb => ?_⟩
  · rw [state] at hp
    rw [notices_trayTo, if_pos hp.2, state]
    congr 1
    congr 1
    rcases hp.2 with h | h | h <;> subst h <;> simp only [trayNoticeWord]
    · have e : trayAt { s with bay := (trayTo t .locked f s).bay } t = trayAt s t := rfl
      rw [e]
      cases trayAt s t <;> rfl
    · rfl
  · rw [notices_trayTo]
    exact if_neg fun h => hp ⟨by rw [state]; exact hne, by rw [state]; exact h⟩
  · rw [state] at hp
    rcases hp with hp | hp
    · unfold trayTo trayState
      rw [hp]
      exact admitDue_afterTray_starting _ _ (by rw [← hp]; exact hne.symm)
    · unfold trayTo
      exact admitDue_afterTray_lists _ _ _ _ hp
  · rw [trayTo_bay] at hp
    unfold trayTo
    exact afterTray_head _ _ _ (by rw [changed_bay, trayNotice_eq]; exact hp)
  · rw [trayTo_bay] at hp
    unfold trayTo
    exact afterTray_stack _ _ _ (by rw [changed_bay, trayNotice_eq]; exact hp)
  · unfold trayTo at hb ⊢
    exact afterTray_adopted _ _ _ ha (by
      rw [← hb]
      apply adoptionComplete_congr <;> rw [afterTray_eq])

/-- A tray that takes a state of neither list leaves both. -/
theorem lists_trayTo_leaves (t : Nat) {new : TrayState} (f : Tray → Tray) (s : Shelf)
    (ht : t < Config.trayCount) (queue : new ≠ .queued) (stack : onStack new = false) :
    (trayTo t new f s).bay.queue = s.bay.queue.filter (fun u => u ≠ t) ∧
      (trayTo t new f s).bay.stack = s.bay.stack.filter fun u => u ≠ t := by
  rw [trayTo_bay, moveTray, if_pos ht]
  simp [queue, stack]

/-- A tray state change places no order. -/
theorem pollTp_trayTo (t : Nat) (new : TrayState) (f : Tray → Tray) (s : Shelf) :
    (trayTo t new f s).pollTp = s.pollTp := by rw [trayTo_eq]

/-! ### OUTPUT-OFF (R90) -/

/-- Ordering a tray touches TP's control queue and the reactions alone. -/
theorem orderModule_tray (r t : Nat) (c : Byte) (a : Nat) (s : Shelf) :
    orderModule r (.tray t) c a s =
      { s with
        pollTp := { s.pollTp with control := (orderModule r (.tray t) c a s).pollTp.control }
        raised := (orderModule r (.tray t) c a s).raised } := by
  unfold orderModule
  cases ho : orderFor s r (.tray t) c a with
  | none => rfl
  | some o =>
    simp only [placeControl, target_orderFor ho, targetPort]
    split <;> rfl

/-- Ordering a tray off touches TP's control queue and the reactions alone. -/
theorem placeOff_eq (t : Nat) (s : Shelf) :
    placeOff t s =
      { s with
        pollTp := { s.pollTp with control := (placeOff t s).pollTp.control }
        raised := (placeOff t s).raised } := by
  unfold placeOff
  split
  · split
    · rfl
    · exact orderModule_tray _ _ _ _ _
  · rfl

/-- An OUTPUT-OFF is queued or in flight once it is placed, where the tray's module can be ordered (R90). -/
theorem isPlaced_placeOff {t : Nat} {s : Shelf} {e : TrayEntry} (entry : trayAt s t = some e)
    (mine : rosterIs s e.roster .tray t = true) (enabled : s.engTp.enabled = true) :
    isPlaced (placeOff t s) (.tray t) codeOutputOff = true := by
  unfold placeOff
  simp only [entry]
  split
  case isTrue h =>
    unfold isPlaced
    rcases Bool.or_eq_true_iff.mp h with h | h
    · exact Bool.or_eq_true_iff.mpr (.inl h)
    · exact Bool.or_eq_true_iff.mpr (.inr (Bool.and_eq_true_iff.mp h).1)
  case isFalse =>
    obtain ⟨o, ho, target, code⟩ : ∃ o, orderFor s e.roster (.tray t) codeOutputOff 0 = some o ∧
        o.target = .tray t ∧ o.code = codeOutputOff := by
      unfold orderFor
      cases hr : rosterAt s e.roster with
      | none => simp [rosterIs, hr] at mine
      | some m => simp [mine]
    simp only [orderModule, ho, placeControl, target, targetPort, engine, enabled, if_true]
    refine Bool.or_eq_true_iff.mpr (.inl (List.any_eq_true.mpr ⟨o, mem_queueOrder.mpr (.inl rfl), ?_⟩))
    simp [target, code]

/-! ### A renewed record (R106) -/

/-- A renewed tray leaves both lists, its orders forgotten, and nothing else changes but reactions. -/
theorem renewTray_eq {t : Nat} (x : Shelf) (ht : t < Config.trayCount) :
    renewTray t x =
      { forgetOrders t x with
        bay :=
          { trays := vset x.bay.trays t resetTray
            queue := x.bay.queue.filter fun u => u ≠ t
            stack := x.bay.stack.filter fun u => u ≠ t }
        deferred := (renewTray t x).deferred
        raised := (renewTray t x).raised
        admitDue := (renewTray t x).admitDue } := by
  have lists : moveTray t .unknown (fun _ => resetTray) (forgetOrders t x).bay =
      { trays := vset x.bay.trays t resetTray
        queue := x.bay.queue.filter fun u => u ≠ t
        stack := x.bay.stack.filter fun u => u ≠ t } := by
    unfold moveTray
    rw [if_pos ht]
    rfl
  have after := afterTray_eq (forgetOrders t x) (trayState x t) .unknown
    { forgetOrders t x with bay := moveTray t .unknown (fun _ => resetTray) (forgetOrders t x).bay }
  rw [lists] at after
  have renewed : renewTray t x = afterTray (forgetOrders t x) (trayState x t) .unknown
      { forgetOrders t x with bay := moveTray t .unknown (fun _ => resetTray) (forgetOrders t x).bay } :=
    rfl
  rw [lists] at renewed
  rw [← renewed] at after
  exact after

/-- A STARTING tray whose record is renewed asks for an admission evaluation (R93, R106). -/
theorem admitDue_renewTray {t : Nat} {x : Shelf} (h : trayState x t = .starting) :
    (renewTray t x).admitDue = true := by
  unfold renewTray
  dsimp only
  rw [h]
  exact admitDue_afterTray_starting _ _ (by decide)

end Sys2Proof.Machine
end

