-- ==== Sys2Proof/Laws/Batteries.lean ====
section
/-! SUPPORT. What a change of a battery's record can do to the account, to SP's orders and to what is posted and
handed on (R54, R55, R58, R66, R67), said once. -/

namespace Sys2Proof.Machine

/-! ### The account -/

/-- An edit of the ride record edits it, and may ask for a charge evaluation. -/
theorem setRide_eq (f : Ride → Ride) (s : Shelf) :
    setRide f s = { s with ride := f s.ride, deferred := (setRide f s).deferred } := by
  unfold setRide postpone; dsimp only; repeat' split
  all_goals rfl

/-- A new capacity changes the ride record, and may ask for a charge evaluation. -/
theorem recomputeCapacity_eq (s : Shelf) :
    recomputeCapacity s =
      { s with ride := (recomputeCapacity s).ride, deferred := (recomputeCapacity s).deferred } := by
  unfold recomputeCapacity energyUpdate reanchor
  dsimp only
  split
  · rw [setRide_eq, setRide_eq]
  · rw [setRide_eq]

/-- A lost battery changes the ride record, and may ask for a charge evaluation. -/
theorem batteryLost_eq (k : Nat) (s : Shelf) :
    batteryLost k s =
      { s with ride := (batteryLost k s).ride, deferred := (batteryLost k s).deferred } := by
  unfold batteryLost; split
  · rfl
  · rw [setRide_eq]

/-- A new capacity leaves the ride state. -/
theorem recomputeCapacity_state (s : Shelf) : (recomputeCapacity s).ride.state = s.ride.state := by
  unfold recomputeCapacity energyUpdate reanchor
  dsimp only
  split
  · rw [setRide_eq, setRide_eq]
  · rw [setRide_eq]

/-- A lost battery leaves the ride state. -/
theorem batteryLost_state (k : Nat) (s : Shelf) : (batteryLost k s).ride.state = s.ride.state := by
  unfold batteryLost; split
  · rfl
  · rw [setRide_eq]; rfl

/-- The account after a battery's change is read from the tables, the batteries, the signals and the account. -/
theorem rideBattery_ride_congr (k : Nat) (old new : BbmState) {x y : Shelf} (tables : y.tables = x.tables)
    (bbms : y.bbms = x.bbms) (signals : y.signals = x.signals) (ride : y.ride = x.ride) :
    (rideBattery k old new y).ride = (rideBattery k old new x).ride := by
  have at_ : bbmAt y = bbmAt x := by funext t; unfold bbmAt recordAt; rw [tables]
  have ord : ∀ (z : Shelf), (rideOrders k z).ride = z.ride := by
    intro z; unfold rideOrders placeBbmOnce; repeat' split
    all_goals first | rfl | (rw [placeBbm_eq])
  have setRide_ride : ∀ f (z : Shelf), (setRide f z).ride = f z.ride := by
    intro f z; unfold setRide postpone; dsimp only; repeat' split
    all_goals rfl
  have setRide_rest : ∀ f (z : Shelf),
      (setRide f z).tables = z.tables ∧ (setRide f z).bbms = z.bbms ∧
        (setRide f z).signals = z.signals := by
    intro f z; unfold setRide postpone; dsimp only; repeat' split
    all_goals exact ⟨rfl, rfl, rfl⟩
  have rec_ : ∀ u v : Shelf, v.tables = u.tables → v.bbms = u.bbms → v.signals = u.signals →
      v.ride = u.ride → (recomputeCapacity v).ride = (recomputeCapacity u).ride := by
    intro u v h1 h2 h3 h4
    have at_ : bbmAt v = bbmAt u := by funext t; unfold bbmAt recordAt; rw [h1]
    have us : usableBbms v = usableBbms u := by
      unfold usableBbms usable; rw [at_, h2]
    have cap : energyCapacity v = energyCapacity u := by
      unfold energyCapacity; rw [us, at_]
    have sto : ∀ f, storedEnergy (setRide f v) = storedEnergy (setRide f u) := by
      intro f
      obtain ⟨a1, a2, a3⟩ := setRide_rest f v
      obtain ⟨b1, b2, b3⟩ := setRide_rest f u
      have at2 : bbmAt (setRide f v) = bbmAt (setRide f u) := by
        funext t; unfold bbmAt recordAt; rw [a1, b1, h1]
      unfold storedEnergy batteryEnergy usableBbms usable; rw [at2, a2, b2, h2, a3, b3, h3]
    unfold recomputeCapacity energyUpdate reanchor rideNormal
    dsimp only
    rw [cap, setRide_ride, setRide_ride, h4]
    split
    · rw [setRide_ride, setRide_ride, setRide_ride, setRide_ride, sto, h4]
    · rw [setRide_ride, setRide_ride, h4]
  have lost : ∀ (z : Shelf),
      (batteryLost k z).tables = z.tables ∧ (batteryLost k z).bbms = z.bbms ∧
        (batteryLost k z).signals = z.signals ∧
        (batteryLost k z).ride = if rideNormal z then z.ride else lossOf k z.ride := by
    intro z; unfold batteryLost; split
    · exact ⟨rfl, rfl, rfl, rfl⟩
    · exact ⟨(setRide_rest _ z).1, (setRide_rest _ z).2.1, (setRide_rest _ z).2.2, setRide_ride _ z⟩
  have rn : rideNormal y = rideNormal x := by unfold rideNormal; rw [ride]
  unfold rideBattery
  dsimp only
  rw [ord, ord]
  split <;> split
  · apply rec_
    · rw [(lost y).1, (lost x).1, tables]
    · rw [(lost y).2.1, (lost x).2.1, bbms]
    · rw [(lost y).2.2.1, (lost x).2.2.1, signals]
    · rw [(lost y).2.2.2, (lost x).2.2.2, rn, ride]
  · exact rec_ x y tables bbms signals ride
  · rw [(lost y).2.2.2, (lost x).2.2.2, rn, ride]
  · exact ride

/-! ### The orders -/

/-- An order placed once is queued or in flight where it can be, and is the only one gained. -/
theorem orderedOnce_placeBbmOnce {k : Nat} (hk : k < 6) (code : Byte) (x : Shelf) :
    OrderedOnce k code x (placeBbmOnce k code x) := by
  unfold placeBbmOnce
  by_cases h : isPlaced x (.bbm k) code = true
  · rw [if_pos h]
    exact ⟨fun _ _ _ _ _ => h, fun o ho => .inl ho, fun _ => rfl⟩
  · rw [if_neg h]
    refine ⟨fun e he hr hen _ => ?_, fun o ho => ?_, fun hp => absurd hp h⟩
    · have hb : ∃ o, batteryControl x k code 0 = some o := by
        cases hm : rosterAt x e.roster with
        | none => simp [rosterIs, hm] at hr
        | some m => exact ⟨_, batteryControl_eq_some.mpr ⟨hen, e, m, he, hm, hr, rfl⟩⟩
      obtain ⟨o, ho⟩ := hb
      have hc := control_placeBbm k code 0 x
      rw [ho] at hc
      obtain ⟨-, e', m, -, -, -, rfl⟩ := batteryControl_eq_some.mp ho
      unfold isPlaced isQueued
      simp only [targetPort, pollEngine]
      rw [hc]
      refine Bool.or_eq_true_iff.mpr (.inl (List.any_eq_true.mpr ⟨_, mem_queueOrder.mpr (.inl rfl), ?_⟩))
      simp
    · rw [control_placeBbm] at ho
      cases hb : batteryControl x k code 0 with
      | none => rw [hb] at ho; exact .inl ho
      | some p =>
        rw [hb] at ho
        rcases mem_queueOrder.mp ho with rfl | ⟨h1, -⟩
        · obtain ⟨-, e', m, -, -, -, rfl⟩ := batteryControl_eq_some.mp hb
          exact .inr ⟨k, hk, rfl, rfl, rfl, rfl⟩
        · exact .inl h1

/-- The orders of a battery that stands in a state are those that follow its entry to it (R66). -/
theorem rideOrdered_rideOrders {k : Nat} (hk : k < 6) (x : Shelf) :
    RideOrdered k (vget x.bbms k).state x (rideOrders k x) := by
  unfold rideOrders
  refine ⟨fun ⟨h1, h2⟩ => ?_, fun ⟨h1, h2⟩ => ?_, fun h1 h2 => ?_⟩
  · rw [h1]; rcases h2 with h2 | h2 <;> rw [h2] <;> exact orderedOnce_placeBbmOnce hk _ x
  · rw [h2]; rcases h1 with h1 | h1 <;> rw [h1] <;> exact orderedOnce_placeBbmOnce hk _ x
  · split <;> first | rfl | simp_all

/-- What the Ride-Through Controller does with a battery's change orders by the state entered (R66). -/
theorem rideBattery_ordered {k : Nat} (hk : k < 6) (old new : BbmState) (x y : Shelf)
    (tables : y.tables = x.tables) (engine : y.engSp = x.engSp) (poll : y.pollSp = x.pollSp)
    (state : y.ride.state = x.ride.state) :
    RideOrdered k (vget y.bbms k).state x (rideBattery k old new y) := by
  have fr : ∃ z : Shelf, rideBattery k old new y = rideOrders k z ∧ z.tables = y.tables ∧
      z.engSp = y.engSp ∧ z.pollSp = y.pollSp ∧ z.ride.state = y.ride.state ∧ z.bbms = y.bbms := by
    unfold rideBattery
    refine ⟨_, rfl, ?_⟩
    split <;> split
    · rw [recomputeCapacity_eq, batteryLost_eq]
      refine ⟨rfl, rfl, rfl, ?_, rfl⟩
      rw [← batteryLost_eq]
      exact (recomputeCapacity_state _).trans (batteryLost_state k y)
    · rw [recomputeCapacity_eq]; exact ⟨rfl, rfl, rfl, recomputeCapacity_state y, rfl⟩
    · rw [batteryLost_eq]; exact ⟨rfl, rfl, rfl, batteryLost_state k y, rfl⟩
    · exact ⟨rfl, rfl, rfl, rfl, rfl⟩
  obtain ⟨z, hz, h1, h2, h3, h4, h5⟩ := fr
  have key := rideOrdered_rideOrders hk z
  have at_ : bbmAt z = bbmAt x := by funext t; unfold bbmAt recordAt; rw [h1, tables]
  have ri : rosterIs z = rosterIs x := by funext a b c; unfold rosterIs rosterAt recordAt; rw [h1, tables]
  have ip : ∀ c, isPlaced z (.bbm k) c = isPlaced x (.bbm k) c := by
    intro c; unfold isPlaced isQueued isInFlight; simp only [targetPort, pollEngine]; rw [h3, poll]
  rw [hz]
  rw [h5] at key
  simp only [RideOrdered, OrderedOnce, BbmOrdered, OnlyOrdered] at key ⊢
  rw [h4, state, at_, ri, h2, engine, h3, poll] at key
  simp only [ip] at key
  exact key

/-- An order to a battery only adds reactions. -/
theorem raised_placeBbm (k : Nat) (code : Byte) (a : Nat) (s : Shelf) :
    ∃ l, (placeBbm k code a s).raised = s.raised ++ l := by
  unfold placeBbm orderModule
  split
  case h_2 => exact ⟨[], (List.append_nil _).symm⟩
  case h_1 e _ =>
    split
    case h_2 => exact ⟨_, rfl⟩
    case h_1 o ho =>
      have sp : targetPort o.target = .sp := by rw [target_orderFor ho]; rfl
      simp only [placeControl, sp]
      split
      · exact ⟨[], (List.append_nil _).symm⟩
      · exact ⟨_, rfl⟩

/-- The orders of a battery's change touch SP's queue alone, and only add reactions. -/
theorem rideOrders_eq (k : Nat) (s : Shelf) :
    (rideOrders k s = { s with pollSp := (rideOrders k s).pollSp, raised := (rideOrders k s).raised }) ∧
      ∃ l, (rideOrders k s).raised = s.raised ++ l := by
  unfold rideOrders placeBbmOnce
  repeat' split
  all_goals first
    | exact ⟨rfl, [], (List.append_nil _).symm⟩
    | (refine ⟨?_, raised_placeBbm _ _ _ _⟩
       rw [placeBbm_eq])

/-- A battery's change touches the ride record, SP's queue and what waits, and only adds reactions. -/
theorem rideBattery_eq (k : Nat) (o n : BbmState) (s : Shelf) :
    (rideBattery k o n s = { s with
      ride := (rideBattery k o n s).ride, deferred := (rideBattery k o n s).deferred
      pollSp := (rideBattery k o n s).pollSp, raised := (rideBattery k o n s).raised }) ∧
      ∃ l, (rideBattery k o n s).raised = s.raised ++ l := by
  have fr : ∃ z : Shelf, rideBattery k o n s = rideOrders k z ∧
      z = { s with ride := z.ride, deferred := z.deferred } := by
    unfold rideBattery
    refine ⟨_, rfl, ?_⟩
    split <;> split
    · rw [recomputeCapacity_eq, batteryLost_eq]
    · rw [recomputeCapacity_eq]
    · rw [batteryLost_eq]
    · rfl
  obtain ⟨z, hz, h⟩ := fr
  have key := rideOrders_eq k z
  rw [hz]
  refine ⟨?_, ?_⟩
  · rw [key.1]; rw [h]
  · obtain ⟨l, hl⟩ := key.2
    exact ⟨l, by rw [hl, h]⟩

/-! ### The record -/

/-- A change handed on is a raised recomputation, which names its cause and keeps those gathered. -/
theorem mem_changed (c : Cause) (s : Shelf) :
    Task.balance ∈ (changed [c] s).raised ∧ c ∈ (changed [c] s).causes ∧
      (∀ d ∈ s.causes, d ∈ (changed [c] s).causes) := by
  unfold changed addCause emit
  simp
  split <;> simp_all

/-- A battery's record replaced, with what its FULL and its acknowledged rate hand on (R55, R58). -/
def putFigures (k : Nat) (b : Bbm) (x : Shelf) : Shelf :=
  let s := { x with bbms := vset x.bbms k b }
  let s := if (vget x.bbms k).full ≠ b.full then postpone .charge s else s
  if (vget x.bbms k).acknowledged ≠ b.acknowledged then changed [.charge] s else s

/-- What a replaced record hands on beside its state. -/
theorem putFigures_spec (k : Nat) (b : Bbm) (x : Shelf) :
    let y := putFigures k b x
    y = { x with bbms := vset x.bbms k b, deferred := y.deferred, causes := y.causes, raised := y.raised } ∧
      ((vget x.bbms k).full ≠ b.full → Task.charge ∈ y.deferred) ∧
      ((vget x.bbms k).acknowledged ≠ b.acknowledged →
        Task.balance ∈ y.raised ∧ Cause.charge ∈ y.causes) := by
  unfold putFigures
  dsimp only
  refine ⟨?_, fun h => ?_, fun h => ?_⟩
  · split
    · rw [changed_eq]; split
      · unfold postpone; split <;> rfl
      · rfl
    · split
      · unfold postpone; split <;> rfl
      · rfl
  · rw [if_pos h]; split
    · rw [changed_eq]; exact mem_deferred_postpone _ _
    · exact mem_deferred_postpone _ _
  · rw [if_pos h]; exact ⟨(mem_changed _ _).1, (mem_changed _ _).2.1⟩

/-- A BBM's record is changed as asked, stamped where its state changes, and told as R54, R55, R58 and R66 say. -/
theorem putBbm_told {k : Nat} (hk : k < 6) (reason : BbmReason) (f : Bbm → Bbm) (x : Shelf) :
    BbmTold k reason x (putBbm k reason f x) ∧
      vget (putBbm k reason f x).bbms k =
        { f (vget x.bbms k) with
          stateTime :=
            if (f (vget x.bbms k)).state = (vget x.bbms k).state then (f (vget x.bbms k)).stateTime
            else x.shelfTime } := by
  by_cases hs : (f (vget x.bbms k)).state = (vget x.bbms k).state
  · have e : putBbm k reason f x = putFigures k (f (vget x.bbms k)) x := by
      unfold putBbm putFigures
      simp [hs]
    rw [e]
    obtain ⟨h1, h2, h3⟩ := putFigures_spec k (f (vget x.bbms k)) x
    have hb : vget (putFigures k (f (vget x.bbms k)) x).bbms k = f (vget x.bbms k) := by
      rw [h1]; exact vget_vset_self _ _ _ hk
    refine ⟨⟨fun j hj => ?_, fun _ => ?_, fun hn => ?_, fun hn => ?_, fun hn => ?_⟩, ?_⟩
    · rw [h1]; exact vget_vset_ne _ _ hj.symm
    · rw [h1]; exact ⟨rfl, rfl, rfl⟩
    · rw [hb] at hn; exact absurd hs.symm hn
    · rw [hb] at hn; exact h3 hn
    · rw [hb] at hn; exact h2 hn
    · rw [hb, if_pos hs]
  · have hs' : ¬(vget x.bbms k).state = (f (vget x.bbms k)).state := fun h => hs h.symm
    let b : Bbm := { f (vget x.bbms k) with stateTime := x.shelfTime }
    have e : putBbm k reason f x =
        tellBbmState k (vget x.bbms k).state b.state reason (putFigures k b x) := by
      unfold putBbm putFigures
      simp [hs', b]
    rw [e]
    obtain ⟨h1, h2, h3⟩ := putFigures_spec k b x
    revert h1 h2 h3 
    generalize putFigures k b x = s
    intro h1 h2 h3
    obtain ⟨d, c, r, rfl⟩ : ∃ d c r,
        s = { x with bbms := vset x.bbms k b, deferred := d, causes := c, raised := r } :=
      ⟨_, _, _, h1⟩
    clear h1
    unfold tellBbmState
    let old := (vget x.bbms k).state
    let p := changed [.bbmState]
      (post srcBbm k ntBbmState (twoItems (bbmStateNumber old) (bbmStateNumber b.state)) (bbmReasonNumber reason)
      { x with bbms := vset x.bbms k b, deferred := d, causes := c, raised := r })
    let notice : Notice :=
      ⟨x.shelfTime, 4, k, 3, false, twoItems (bbmStateNumber old) (bbmStateNumber b.state),
        bbmReasonNumber reason⟩
    have hp : p = { x with
        bbms := vset x.bbms k b, deferred := d, causes := p.causes, raised := p.raised
        notices := offerNotice notice x.notices } := by
      exact changed_eq _ _
    have pb : Task.balance ∈ p.raised ∧ Cause.bbmState ∈ p.causes ∧ ∀ d ∈ c, d ∈ p.causes :=
      mem_changed _ _
    obtain ⟨r1, l, r2⟩ := rideBattery_eq k old b.state p
    have pt : p.tables = x.tables := by have h := congrArg Shelf.tables hp; exact h
    have pe : p.engSp = x.engSp := by have h := congrArg Shelf.engSp hp; exact h
    have pp : p.pollSp = x.pollSp := by have h := congrArg Shelf.pollSp hp; exact h
    have pr : p.ride = x.ride := by have h := congrArg Shelf.ride hp; exact h
    have ps : p.signals = x.signals := by have h := congrArg Shelf.signals hp; exact h
    have pbb : p.bbms = vset x.bbms k b := by have h := congrArg Shelf.bbms hp; exact h
    have pn : p.notices = offerNotice notice x.notices := by
      have h := congrArg Shelf.notices hp; exact h
    show BbmTold k reason x (postpone .charge (rideBattery k old b.state p)) ∧
      vget (postpone .charge (rideBattery k old b.state p)).bbms k = _
    clear_value p
    clear hp e
    have key := rideBattery_ordered hk old b.state x p pt pe pp (by rw [pr])
    have cong := rideBattery_ride_congr k old b.state (x := { x with bbms := vset x.bbms k b }) (y := p) pt pbb ps pr
    revert r1 r2 key cong
    generalize rideBattery k old b.state p = y
    intro r1 r2 key cong
    have hz : postpone .charge y = { y with deferred := (postpone .charge y).deferred } := by
      unfold postpone; split <;> rfl
    have hch := mem_deferred_postpone .charge y
    have yb : y.bbms = vset x.bbms k b := (by have h := congrArg Shelf.bbms r1; exact h : y.bbms = p.bbms).trans pbb
    have yn : y.notices = p.notices := by have h := congrArg Shelf.notices r1; exact h
    have yc : y.causes = p.causes := by have h := congrArg Shelf.causes r1; exact h
    have yr : Task.balance ∈ y.raised := by rw [r2]; exact List.mem_append_left _ pb.1
    have zb : (postpone .charge y).bbms = y.bbms := by have h := congrArg Shelf.bbms hz; exact h
    have zn : (postpone .charge y).notices = y.notices := by have h := congrArg Shelf.notices hz; exact h
    have zc : (postpone .charge y).causes = y.causes := by have h := congrArg Shelf.causes hz; exact h
    have zra : (postpone .charge y).raised = y.raised := by have h := congrArg Shelf.raised hz; exact h
    have zri : (postpone .charge y).ride = y.ride := by have h := congrArg Shelf.ride hz; exact h
    have zp : (postpone .charge y).pollSp = y.pollSp := by have h := congrArg Shelf.pollSp hz; exact h
    revert hch zb zn zc zra zri zp
    clear hz
    generalize postpone .charge y = z
    intro hch zb zn zc zra zri zp
    have hbb : z.bbms = vset x.bbms k b := zb.trans yb
    have hb : vget z.bbms k = b := by rw [hbb]; exact vget_vset_self _ _ _ hk
    refine ⟨⟨fun j hj => ?_, fun hn => ?_, fun hn => ⟨?_, ?_, ?_, hch, ?_, ?_⟩,
      fun hn => ?_, fun hn => hch⟩, ?_⟩
    · rw [hbb]; exact vget_vset_ne _ _ hj.symm
    · rw [hb] at hn; exact absurd hn hs'
    · rw [zn, yn, pn, hb]
    · rw [zra]; exact yr
    · rw [zc, yc]; exact pb.2.1
    · rw [zri, hb, hbb]; exact cong
    · rw [pbb, vget_vset_self _ _ _ hk] at key
      rw [hb]
      simp only [RideOrdered, OrderedOnce, BbmOrdered, OnlyOrdered, isPlaced, isQueued, isInFlight,
        targetPort, pollEngine] at key ⊢
      rw [zp]
      exact key
    · rw [hb] at hn
      rw [zra, zc, yc]
      exact ⟨yr, pb.2.2 _ (h3 hn).2⟩
    · rw [hb]; simp [b, hs]
end Sys2Proof.Machine
end

