-- ==== Sys2Proof/Laws/Closed.lean ====
section
/-! SUPPORT. What the blocks' operations can do to the state, said once for every property: a property that the
named kinds of change keep (`Closed`) is kept by every operation built from them. This file has the
kinds of change, and the operations that the blocks share. -/

namespace Sys2Proof.Machine

/-! ### Kinds of change -/

/-- A state with the fields of another that hold no part of the machine's bookkeeping: lines, drives,
signals, PSM, BBM and zone records, presence, the downstream Port Engines and the reactions. -/
def withFree (s x : Shelf) : Shelf :=
  { s with
    lines := x.lines, sampling := x.sampling, shelfStop := x.shelfStop, drives := x.drives
    signals := x.signals, psms := x.psms, bbms := x.bbms, chargeBudget := x.chargeBudget
    zones := x.zones, engSp := x.engSp, engTp := x.engTp, modules := x.modules
    telemetryDrops := x.telemetryDrops, agenda := x.agenda, deferred := x.deferred
    raised := x.raised, admitDue := x.admitDue, causes := x.causes, applying := x.applying }

/-- A state with what waits for UP, and UP itself, of another. -/
def withLinks (s x : Shelf) : Shelf :=
  { s with
    engUp := x.engUp, replies := x.replies, replyWait := x.replyWait, notices := x.notices
    telemetry := x.telemetry, telemetryRun := x.telemetryRun }

/-- The classes of the upstream arbiter are within their depths (R167). -/
abbrev LinksBounded (s : Shelf) : Prop :=
  s.replies.length ≤ Config.replyDepth ∧ s.notices.length ≤ Config.noticeDepth ∧
    s.telemetry.length ≤ Config.telemetryDepth ∧ s.telemetryRun ≤ 4

/-- A property kept by the changes that orders, notices and replies make. -/
structure ClosedLinks (P : Shelf → Prop) : Prop where
  free : ∀ {s : Shelf} (x : Shelf), P s → P (withFree s x)
  links : ∀ {s : Shelf} (x : Shelf), (LinksBounded s → LinksBounded x) →
    x.engUp.rx = s.engUp.rx → P s → P (withLinks s x)
  polls : ∀ {s : Shelf} (a b : PollEngine), (PollBounded s.pollSp → PollBounded a) →
    (PollBounded s.pollTp → PollBounded b) → P s → P { s with pollSp := a, pollTp := b }

/-- A property kept by every kind of change that an event's reactions make. -/
structure Closed (P : Shelf → Prop) : Prop extends ClosedLinks P where
  balance : ∀ {s : Shelf} (b : Balance), (BalanceAgrees s.balance → BalanceAgrees b) → P s →
    P { s with balance := b }
  bay : ∀ {s : Shelf} (b : Bay), (BayExact s.bay → BayExact b) → P s → P { s with bay := b }
  ride : ∀ {s : Shelf} (r : Ride), (EnergyOk s.ride → EnergyOk r) →
    (RideMarks s.ride → RideMarks r) →
    (r.state = s.ride.state ∨ r.state = .normal ∨ (s.restart = none ∧ s.seq.state ≠ .waiting)) →
    P s → P { s with ride := r }
  seq : ∀ {s : Shelf} (q : Sequencer),
    (q.state = .waiting → s.seq.state = .waiting ∨ s.ride.state = .normal) → P s →
    P { s with seq := q }
  restart : ∀ {s : Shelf} (x : Option Bool), (x ≠ none → s.restart ≠ none) → P s →
    P { s with restart := x }

variable {P : Shelf → Prop}

/-- A list of operations, each of which keeps a property. -/
theorem keep_foldl {α : Type} {f : Shelf → α → Shelf} (hf : ∀ s a, P s → P (f s a)) :
    ∀ (l : List α) {s : Shelf}, P s → P (l.foldl f s)
  | [], _, h => h
  | a :: l, s, h => keep_foldl hf l (hf s a h)

/-! ### Shared operations -/

theorem ClosedLinks.emit (c : ClosedLinks P) (t : Task) {s : Shelf} (h : P s) : P (emit t s) :=
  c.free (Machine.emit t s) h

theorem ClosedLinks.emitAll (c : ClosedLinks P) (ts : List Task) {s : Shelf} (h : P s) :
    P (emitAll ts s) := c.free (Machine.emitAll ts s) h

theorem ClosedLinks.postpone (c : ClosedLinks P) (t : Task) {s : Shelf} (h : P s) :
    P (postpone t s) := by
  rw [postpone_eq]
  exact c.free { s with deferred := (Machine.postpone t s).deferred } h

theorem ClosedLinks.postponeFirst (c : ClosedLinks P) (t : Task) {s : Shelf} (h : P s) :
    P (postponeFirst t s) := c.free (Machine.postponeFirst t s) h

theorem ClosedLinks.admissionDue (c : ClosedLinks P) {s : Shelf} (h : P s) : P (admissionDue s) :=
  c.free (Machine.admissionDue s) h

theorem ClosedLinks.changed (c : ClosedLinks P) (cs : List Cause) {s : Shelf} (h : P s) :
    P (changed cs s) := by
  rw [changed_eq]
  exact c.free { s with
    causes := (Machine.changed cs s).causes, raised := (Machine.changed cs s).raised } h

theorem ClosedLinks.post (c : ClosedLinks P) (a b d e f : Nat) {s : Shelf} (h : P s) :
    P (post a b d e f s) :=
  c.links (Machine.post a b d e f s)
    (fun l => ⟨l.1, length_offerNotice _ l.2.1, l.2.2⟩) rfl h

theorem ClosedLinks.placeReply (c : ClosedLinks P) (f : TxFrame) {s : Shelf} (h : P s) :
    P (placeReply f s) := by
  rw [placeReply_eq]
  exact c.links
    { s with
      replies := (Machine.placeReply f s).replies
      replyWait := (Machine.placeReply f s).replyWait }
    (fun l => ⟨length_placeReply f l.1, l.2⟩) rfl h

theorem ClosedLinks.placeReplies (c : ClosedLinks P) (fs : List Frame) {s : Shelf} (h : P s) :
    P (placeReplies fs s) := keep_foldl (fun _ _ h => c.placeReply _ h) fs h

theorem ClosedLinks.answerOrder (c : ClosedLinks P) (a b d : Byte) {s : Shelf} (h : P s) :
    P (answerOrder a b d s) := c.placeReply _ h

/-- A Port Engine is set, UP's receive queue as it was. -/
theorem ClosedLinks.setEngine (c : ClosedLinks P) (p : Port) (e : PortEngine) {s : Shelf}
    (hr : p = .up → e.rx = s.engUp.rx) (h : P s) : P (setEngine p e s) := by
  cases p with
  | up => exact c.links { s with engUp := e } id (hr rfl) h
  | sp => exact c.free { s with engSp := e } h
  | tp => exact c.free { s with engTp := e } h

/-- A Port Engine changes, its receive queue kept. -/
theorem ClosedLinks.editEngine (c : ClosedLinks P) (p : Port) (f : PortEngine → PortEngine)
    {s : Shelf} (hf : p = .up → ∀ g, (f g).rx = g.rx) (h : P s) : P (editEngine p f s) :=
  c.setEngine p _ (fun hp => by subst hp; exact hf rfl _) h

/-- A Poll Engine is set within its bounds. -/
theorem ClosedLinks.setPoll (c : ClosedLinks P) (p : Port) (e : PollEngine) {s : Shelf}
    (he : PollBounded (pollEngine s p) → PollBounded e) (h : P s) : P (setPoll p e s) := by
  cases p with
  | up => exact h
  | sp => exact c.polls e s.pollTp he id h
  | tp => exact c.polls s.pollSp e id he h

theorem ClosedLinks.editPoll (c : ClosedLinks P) (p : Port) (f : PollEngine → PollEngine)
    {s : Shelf} (hf : ∀ g, PollBounded g → PollBounded (f g)) (h : P s) : P (editPoll p f s) :=
  c.setPoll p _ (hf _) h

theorem ClosedLinks.editModule (c : ClosedLinks P) (r : Nat) (f : Module → Module) {s : Shelf}
    (h : P s) : P (editModule r f s) := c.free (Machine.editModule r f s) h

theorem ClosedLinks.setDrives (c : ClosedLinks P) {s : Shelf} (h : P s) : P (setDrives s) :=
  c.free (Machine.setDrives s) h

/-! ### Orders (R147) -/

/-- Replacing by Roster entry keeps the Roster entries of a control queue. -/
theorem map_roster_queueOrder (o : ControlOrder) (q : List ControlOrder) :
    (queueOrder o q).map (·.roster) =
      if o.roster ∈ q.map (·.roster) then q.map (·.roster) else q.map (·.roster) ++ [o.roster] := by
  have hany : (q.any fun x => decide (x.roster = o.roster)) = true ↔
      o.roster ∈ q.map (·.roster) := by
    simp only [List.any_eq_true, decide_eq_true_eq, List.mem_map]
  unfold queueOrder
  by_cases h : o.roster ∈ q.map (·.roster)
  · rw [if_pos h, if_pos (hany.mpr h), List.map_map]
    refine List.map_congr_left fun x _ => ?_
    dsimp only [Function.comp]
    split
    · exact (‹_ = _›).symm
    · rfl
  · rw [if_neg h, if_neg (fun x => h (hany.mp x)), List.map_append]
    rfl

/-- A control queue keeps at most one order per module (R147). -/
theorem pollBounded_queueOrder (o : ControlOrder) {x : PollEngine} (h : PollBounded x) :
    PollBounded { x with control := queueOrder o x.control } := by
  refine ⟨h.1, h.2.1, h.2.2.1, h.2.2.2.1, ?_⟩
  rw [map_roster_queueOrder]
  split
  · exact h.2.2.2.2
  · rename_i hm
    refine List.nodup_append.mpr ⟨h.2.2.2.2, by simp, fun a ha b hb e => hm ?_⟩
    rw [List.mem_singleton] at hb
    exact hb ▸ e ▸ ha

theorem ClosedLinks.placeControl (c : ClosedLinks P) (o : ControlOrder) {s : Shelf} (h : P s) :
    P (placeControl o s) := by
  unfold Machine.placeControl
  dsimp only
  split
  · exact c.setPoll _ _ (pollBounded_queueOrder o) h
  · exact c.emitAll _ h

theorem ClosedLinks.orderModule (c : ClosedLinks P) (r : Nat) (t : Target) (code : Byte) (a : Nat)
    {s : Shelf} (h : P s) : P (orderModule r t code a s) := by
  unfold Machine.orderModule
  split
  · exact c.placeControl _ h
  · exact c.emitAll _ h

/-- Forgetting a tray leaves an order's Roster entry. -/
theorem roster_forgetOrder (t : Nat) (o : ControlOrder) : (forgetOrder t o).roster = o.roster := by
  unfold forgetOrder
  split <;> rfl

theorem ClosedLinks.forgetOrders (c : ClosedLinks P) (t : Nat) {s : Shelf} (h : P s) :
    P (forgetOrders t s) := by
  refine c.polls s.pollSp _ id (fun b => ⟨b.1, b.2.1, b.2.2.1, b.2.2.2.1, ?_⟩) h
  rw [List.map_map]
  have : ((fun o : ControlOrder => o.roster) ∘ forgetOrder t) = fun o => o.roster :=
    funext (roster_forgetOrder t)
  rw [this]
  exact b.2.2.2.2

theorem ClosedLinks.placeOn (c : ClosedLinks P) (t : Nat) {s : Shelf} (h : P s) :
    P (placeOn t s) := by
  unfold Machine.placeOn
  split
  · exact c.orderModule _ _ _ _ h
  · exact h

theorem ClosedLinks.placeOff (c : ClosedLinks P) (t : Nat) {s : Shelf} (h : P s) :
    P (placeOff t s) := by
  unfold Machine.placeOff
  split
  · split
    · exact h
    · exact c.orderModule _ _ _ _ h
  · exact h

theorem ClosedLinks.placeBbm (c : ClosedLinks P) (k : Nat) (code : Byte) (a : Nat) {s : Shelf}
    (h : P s) : P (placeBbm k code a s) := by
  unfold Machine.placeBbm
  split
  · exact c.orderModule _ _ _ _ h
  · exact h

theorem ClosedLinks.placeBbmOnce (c : ClosedLinks P) (k : Nat) (code : Byte) {s : Shelf}
    (h : P s) : P (placeBbmOnce k code s) := by
  unfold Machine.placeBbmOnce
  split
  · exact h
  · exact c.placeBbm _ _ _ h

theorem ClosedLinks.dischargeBatteries (c : ClosedLinks P) {s : Shelf} (h : P s) :
    P (dischargeBatteries s) :=
  keep_foldl
    (fun s k h => by
      split
      · exact c.placeBbmOnce _ _ h
      · exact h) _ h

theorem ClosedLinks.holdBatteries (c : ClosedLinks P) {s : Shelf} (h : P s) :
    P (holdBatteries s) :=
  keep_foldl
    (fun s k h => by
      split
      · exact c.placeBbm _ _ _ h
      · exact h) _ h

/-! ### What those operations leave alone -/

/-- Two states with the same blocks: they differ at most in reactions, orders, and what waits for UP. -/
abbrev SameBlocks (a b : Shelf) : Prop :=
  b.shelfTime = a.shelfTime ∧ b.ambient = a.ambient ∧ b.tables = a.tables ∧ b.loads = a.loads ∧
    b.window = a.window ∧ b.level = a.level ∧ b.balance = a.balance ∧ b.ride = a.ride ∧
    b.bay = a.bay ∧ b.seq = a.seq ∧ b.restart = a.restart

/-- Orders, notices and replies leave the blocks' own state alone. -/
theorem closedLinks_sameBlocks (a : Shelf) : ClosedLinks (SameBlocks a) where
  free _ h := h
  links _ _ _ h := h
  polls _ _ _ _ h := h

end Sys2Proof.Machine
end

