-- ==== Sys2Proof/Laws/Hearing.lean ====
section
/-! SUPPORT. What a port hears of its line (R156, R159), and the marks of discharge signals that an apply has
named (R39): what each operation answers, said once. -/

namespace Sys2Proof.Machine

/-- A port hears exactly while it runs and, where it is downstream, its shifter is idle or took its frame only
now. -/
theorem hears_iff {s : Shelf} {p : Port} :
    hears s p = true ↔
      (engine s p).enabled = true ∧
        (p = .up ∨ (engine s p).shifter = none ∨ (engine s p).began = s.shelfTime) := by
  simp [hears, or_assoc]

/-- A port that does not hear takes no character. -/
theorem heardCharacters_deaf {s : Shelf} {p : Port} (h : hears s p = false) (cs : List RxChar) :
    heardCharacters s p cs = none := by simp [heardCharacters, assembles, h]

/-- A downstream port that has been SENDING since an earlier instant hears nothing. -/
theorem hears_sending {s : Shelf} {p : Port} (hp : p ≠ .up) (h : (engine s p).shifter.isSome)
    (hb : (engine s p).began ≠ s.shelfTime) : hears s p = false := by
  simp [hears, hp, hb, Option.isSome_iff_ne_none.mp h]

/-- A port hears characters exactly while it assembles and each has come in time: as it reads them. -/
theorem heardCharacters_eq_some {s : Shelf} {p : Port} {cs : List RxChar} {read : List Character} :
    heardCharacters s p cs = some read ↔
      assembles s p = true ∧ inTime (engine s p).settings cs = true ∧
        readAll (engine s p).settings cs = read := by
  simp [heardCharacters, and_assoc]

/-- Outside an assembly no character is heard. -/
theorem heardCharacters_hunting {s : Shelf} {p : Port} (h : (engine s p).assembling = none)
    (cs : List RxChar) : heardCharacters s p cs = none := by simp [heardCharacters, assembles, h]

/-- A port reads as many characters as come. -/
@[simp] theorem length_readAll (e : PortSettings) (cs : List RxChar) :
    (readAll e cs).length = cs.length := by simp [readAll]

/-- Each character has come in time exactly where none is later than the gap limit. -/
theorem inTime_iff {e : PortSettings} {cs : List RxChar} :
    inTime e cs = true ↔ ∀ c ∈ cs, c.gap ≤ gapCycles e := by simp [inTime]

/-- The gap limit of a port has passed exactly where it assembles a frame and its line has been quiet so
long. -/
theorem gapPassed_iff {s : Shelf} {p : Port} :
    gapPassed s p = true ↔
      (engine s p).enabled = true ∧
        (∃ t, (engine s p).assembling = some t ∧
          s.ambient.lineQuiet.toNat ≤ (s.shelfTime - t).toNat) ∧
        gapCycles (engine s p).settings ≤ 40 * s.ambient.lineQuiet.toNat := by
  simp [gapPassed, Option.any_eq_true, and_assoc]

/-- A discharge signal is still unread exactly while its mark stands and its band is UNKNOWN. -/
theorem stillUnread_iff {s : Shelf} {k : Nat} :
    stillUnread s k = true ↔
      vget s.balance.bUnread k = true ∧ ∃ e, bbmAt s k = some e ∧ bandKnown s e.discharge = false := by
  simp [stillUnread, Option.any_eq_true]

/-- A mark changes no figure of the balance record that others are computed from. -/
theorem Closed.markUnread {P : Shelf → Prop} (c : Closed P) (k : Nat) {s : Shelf} (h : P s) :
    P (markUnread k s) := c.balance _ id h

end Sys2Proof.Machine
end

