-- ==== Sys2Proof/Laws/Memory.lean ====
section
/-! SUPPORT. The laws of the one addressed memory: a byte read after a write, and the canonical form kept by
every operation. -/

namespace Sys2Proof.Machine

/-! ### The canonical form -/

/-- A lower bound may be lowered. -/
theorem cellsFrom_mono {low lower : Nat} (h : lower ≤ low) :
    ∀ {cells : List Host.Cell}, cellsFrom low cells = true → cellsFrom lower cells = true
  | [], _ => rfl
  | (_, _) :: _, w => by
    simp only [cellsFrom, Bool.and_eq_true, decide_eq_true_eq] at w ⊢
    exact ⟨⟨⟨h.trans w.1.1.1, w.1.1.2⟩, w.1.2⟩, w.2⟩

/-- A byte below the lower bound of its cells reads as erased. -/
theorem readByte_below {low a : Nat} (h : a < low) :
    ∀ {cells : List Host.Cell}, cellsFrom low cells = true → readByte cells a = erasedByte
  | [], _ => rfl
  | (k, _) :: _, w => by
    simp only [cellsFrom, Bool.and_eq_true, decide_eq_true_eq] at w
    rw [readByte, if_neg (by omega)]
    exact readByte_below (by omega) w.2

/-- Cells whose addresses are all at or above a bound keep it. -/
theorem cellsFrom_cellOf {low a : Nat} {b : Byte} {rest : List Host.Cell} (hl : low ≤ a)
    (ha : a < storeSize) (h : cellsFrom (a + 1) rest = true) :
    cellsFrom low (cellOf a b ++ rest) = true := by
  unfold cellOf
  split
  · exact cellsFrom_mono (by omega) h
  · simp_all [cellsFrom]

/-- Setting a cell keeps the form. -/
theorem cellsFrom_setCell {a : Nat} {b : Byte} (ha : a < storeSize) :
    ∀ {low : Nat} {cells : List Host.Cell}, low ≤ a → cellsFrom low cells = true →
      cellsFrom low (setCell a b cells) = true
  | low, [], hl, _ => by simpa [setCell] using cellsFrom_cellOf (rest := []) hl ha rfl
  | low, (k, c) :: rest, hl, w => by
    have v := w
    simp only [cellsFrom, Bool.and_eq_true, decide_eq_true_eq] at v
    unfold setCell
    split
    · refine cellsFrom_cellOf hl ha ?_
      simp only [cellsFrom, Bool.and_eq_true, decide_eq_true_eq]
      exact ⟨⟨⟨by omega, v.1.1.2⟩, v.1.2⟩, v.2⟩
    · split
      · rename_i h₁ h₂
        subst h₂
        exact cellsFrom_cellOf hl ha v.2
      · simp only [cellsFrom, Bool.and_eq_true, decide_eq_true_eq]
        exact ⟨⟨⟨v.1.1.1, v.1.1.2⟩, v.1.2⟩, cellsFrom_setCell ha (by omega) v.2⟩

/-- A write of one byte keeps the canonical form. -/
theorem wf_writeByte {cells : List Host.Cell} (a : Nat) (b : Byte) (h : Memory.wf cells = true) :
    Memory.wf (writeByte cells a b) = true := by
  unfold writeByte
  split
  · exact cellsFrom_setCell ‹_› (Nat.zero_le _) h
  · exact h

/-- A write of several bytes keeps the canonical form. -/
theorem wf_writeBytes {cells : List Host.Cell} (a : Nat) (bs : List Byte)
    (h : Memory.wf cells = true) : Memory.wf (writeBytes cells a bs) = true := by
  induction bs generalizing cells a with
  | nil => exact h
  | cons b rest ih => exact ih (a + 1) (wf_writeByte a b h)

/-- Leaving cells out keeps the form. -/
theorem cellsFrom_filter (keep : Host.Cell → Bool) :
    ∀ {low : Nat} {cells : List Host.Cell}, cellsFrom low cells = true →
      cellsFrom low (cells.filter keep) = true
  | _, [], _ => rfl
  | low, (k, c) :: rest, w => by
    have v := w
    simp only [cellsFrom, Bool.and_eq_true, decide_eq_true_eq] at v
    have ih := cellsFrom_filter keep v.2
    rw [List.filter_cons]
    split
    · simp only [cellsFrom, Bool.and_eq_true, decide_eq_true_eq]
      exact ⟨v.1, ih⟩
    · exact cellsFrom_mono (by omega) ih

/-- An erase keeps the canonical form. -/
theorem wf_eraseBytes {cells : List Host.Cell} (a n : Nat) (h : Memory.wf cells = true) :
    Memory.wf (eraseBytes cells a n) = true := cellsFrom_filter _ h

/-- The store of a new part is in canonical form. -/
theorem wf_newStore : Memory.wf newStore.cells = true := rfl

/-! ### What is read back -/

/-- The cell made for a byte, read in front of cells that lie above it. -/
theorem readByte_cellOf {a x : Nat} {b : Byte} {rest : List Host.Cell}
    (h : cellsFrom (a + 1) rest = true) :
    readByte (cellOf a b ++ rest) x = if x = a then b else readByte rest x := by
  unfold cellOf
  by_cases hb : b = erasedByte
  · rw [if_pos hb]
    split
    · rename_i hx
      subst hx
      simpa [hb] using readByte_below (Nat.lt_succ_self _) h
    · rfl
  · rw [if_neg hb]
    simp only [List.singleton_append, readByte, eq_comm]

/-- A byte set in the cells is read back, and no other byte changes. -/
theorem readByte_setCell {a x : Nat} {b : Byte} :
    ∀ {low : Nat} {cells : List Host.Cell}, cellsFrom low cells = true →
      readByte (setCell a b cells) x = if x = a then b else readByte cells x
  | _, [], _ => by simpa [setCell] using readByte_cellOf (a := a) (b := b) (x := x) (rest := []) rfl
  | low, (k, c) :: rest, w => by
    have v := w
    simp only [cellsFrom, Bool.and_eq_true, decide_eq_true_eq] at v
    unfold setCell
    split
    · rename_i hk
      refine readByte_cellOf ?_
      simp only [cellsFrom, Bool.and_eq_true, decide_eq_true_eq]
      exact ⟨⟨⟨by omega, v.1.1.2⟩, v.1.2⟩, v.2⟩
    · split
      · rename_i h₁ h₂
        subst h₂
        rw [readByte_cellOf v.2]
        by_cases hx : x = a
        · simp [hx]
        · rw [if_neg hx, if_neg hx, readByte, if_neg (Ne.symm hx)]
      · rename_i h₁ h₂
        have ih := readByte_setCell (a := a) (x := x) (b := b) v.2
        simp only [readByte]
        by_cases hk : k = x
        · rw [if_pos hk, if_pos hk, if_neg (by omega)]
        · rw [if_neg hk, if_neg hk, ih]

/-- A byte written within the store is read back, and no other byte changes (R184). -/
theorem readByte_writeByte {cells : List Host.Cell} {a : Nat} (b : Byte) (x : Nat)
    (h : Memory.wf cells = true) (ha : a < storeSize) :
    readByte (writeByte cells a b) x = if x = a then b else readByte cells x := by
  rw [writeByte, if_pos ha]
  exact readByte_setCell h

/-- Bytes written within the store are read back, and no other byte changes (R184). -/
theorem readByte_writeBytes {cells : List Host.Cell} {a : Nat} (bs : List Byte) (x : Nat)
    (h : Memory.wf cells = true) (ha : a + bs.length ≤ storeSize) :
    readByte (writeBytes cells a bs) x =
      if a ≤ x ∧ x < a + bs.length then bs.getD (x - a) 0 else readByte cells x := by
  induction bs generalizing cells a with
  | nil =>
    rw [if_neg (by simp only [List.length_nil]; omega)]
    rfl
  | cons b rest ih =>
    simp only [List.length_cons] at ha ⊢
    rw [writeBytes, ih (wf_writeByte a b h) (by omega), readByte_writeByte b x h (by omega)]
    by_cases hx : x = a
    · subst hx
      rw [if_neg (by omega), if_pos rfl, if_pos ⟨le_refl _, by omega⟩]
      simp
    · rw [if_neg hx]
      by_cases hr : a + 1 ≤ x ∧ x < a + 1 + rest.length
      · rw [if_pos hr, if_pos ⟨by omega, by omega⟩]
        have hs : x - a = (x - (a + 1)) + 1 := by omega
        rw [hs, List.getD_cons_succ]
      · rw [if_neg hr, if_neg (by omega)]

/-- An erase sets the bytes of its range and changes no other (R184). -/
theorem readByte_eraseBytes {a n : Nat} (x : Nat) :
    ∀ {low : Nat} {cells : List Host.Cell}, cellsFrom low cells = true →
      readByte (eraseBytes cells a n) x =
        if a ≤ x ∧ x < a + n then erasedByte else readByte cells x
  | _, [], _ => by simp [eraseBytes, readByte]
  | low, (k, c) :: rest, w => by
    have v := w
    simp only [cellsFrom, Bool.and_eq_true, decide_eq_true_eq] at v
    have ih := readByte_eraseBytes (a := a) (n := n) x v.2
    unfold eraseBytes at ih ⊢
    rw [List.filter_cons]
    by_cases hk : k = x
    · subst hk
      split
      · rename_i hr
        simp only [Bool.or_eq_true, decide_eq_true_eq] at hr
        rw [if_neg (by omega)]
        simp [readByte]
      · rename_i hr
        simp only [Bool.or_eq_true, decide_eq_true_eq] at hr
        rw [ih, if_pos (by omega), if_pos (by omega)]
    · split
      · simp only [readByte, if_neg hk]
        exact ih
      · rw [ih]
        simp only [readByte, if_neg hk]

/-- A page read after bytes are written over it. -/
theorem readByte_readBytes (cells : List Host.Cell) (a n i : Nat) (h : i < n) :
    (readBytes cells a n).getD i 0 = readByte cells (a + i) := by
  simp [readBytes, List.getD, h]

end Sys2Proof.Machine
end

