-- ==== Sys2Proof/Tests/Slice0.lean ====
section
/-! SUPPORT. Tests on fixed states: ill-formed commands, worked figures of the manual, and for each statement
with hypotheses a state and operands that meet them (the theorems named test_witness). -/

namespace Sys2Proof.Tests

set_option Elab.async false

open Sys2Proof.Machine

/-! ### Small states -/

/-- What an event shows when no time has passed. -/
def q : Ambient := quietAmbient

/-- What an event shows a number of milliseconds after the one before. -/
def later (ms : Nat) : Ambient := { quietAmbient with elapsed := msTime ms }

/-- A table entry set in place. -/
def put (t i : Nat) (r : Record) (s : State) : State :=
  { s with tables := vmod s.tables t fun l => l.set i r }

/-- UP runs, the downstream ports do not, and nothing waits. -/
def calm : State := { State.reset with engUp := { resetEngine 0 with enabled := true } }

/-- One PSM, one BBM, one tray in zone 0, one leak line, one step, one signal and two Guard entries. -/
def small : State :=
  put tRoster 0 (encodeRoster ⟨20, .tp, .tray, 0, true, 5⟩) <|
  put tRoster 1 (encodeRoster ⟨1, .sp, .psm, 0, false, 0⟩) <|
  put tRoster 2 (encodeRoster ⟨62, .sp, .bbm, 0, false, 0⟩) <|
  put tPoll 63 (encodePoll 0) <|
  put tSample 0 (encodeSample ⟨1, 16, 127, 256, 0, 0, .electrical, true⟩) <|
  put tLimits 0 (encodeLimits { defaultLimits with stale := 10 }) <|
  put tLine 0 (encodeSense ⟨.leak, 0, .high, 0, .both⟩) <|
  put tPsm 0 (encodePsm ⟨1, 1000, 50, 0, 1, 2⟩) <|
  put tBbm 0 (encodeBbm ⟨2, 2000, 500, 100, 3, 4⟩) <|
  put tTrays 0 (encodeTray ⟨0, 2000, 500, 100, 60, 0, some 0, none⟩) <|
  put tZones 7 (encodeZone ⟨[.line 0], 1, 10⟩) <|
  put tSequence 31 (encodeStep ⟨.finish, 0, 0, 0, 0, 0⟩) <|
  put tGuard 0 (encodeGuard ⟨0x40, .psm, .supplyCheck⟩) <|
  put tGuard 31 (encodeGuard ⟨0x41, .psm, .deny⟩) calm

/-- Tray `t` in a state, standing in its list. -/
def withTray (t : Nat) (r : Tray) (s : State) : State :=
  { s with
    bay := {
      trays := vset s.bay.trays t r
      queue := if r.state = .queued then [t] else []
      stack := if onStack r.state then [t] else [] } }

/-- A ride state with the marks that go with it. -/
def withRide (st : RideState) (s : State) : State :=
  { s with
    ride := { resetRide with
      state := st
      tick := if st = .ride then some 10000 else none
      openSummary := if st = .normal then none else some (newSummary 0 .line 0) } }

/-- TP runs with a transaction in flight, its reply timer RUNNING. -/
def withFlight (kind : TxKind) (attempt : Nat) (s : State) : State :=
  { s with
    engTp := { resetEngine 2 with enabled := true }
    pollTp := { resetPoll with
      inFlight := some
        { kind, roster := 0, address := 20, code := if kind = .poll then none else some 0x01
          attempt := if kind = .control then some attempt else none
          timer := .running 20000, discarded := false }
      inProgress := if kind = .control then
          some ⟨⟨0, 20, 0x01, 0, .tray 0⟩, attempt⟩
        else none } }

/-- The state a command gives. -/
def after (c : Instr) (s : State) : State :=
  match exec c s with
  | .next t => t
  | .fault _ | .refused _ => s

/-! ### Ill-formed commands -/

/-- An ill-formed command for each check of `Instr.wf`, and a well-formed one beside it. -/
theorem test_wf_refuses :
    (Instr.frameReceived q .up []).wf = false ∧ (Instr.frameDamaged q .up []).wf = false ∧
    (Instr.upStrayFrame q ⟨0, kindRequest, [0x28]⟩).wf = false ∧ (Instr.order q 0 1 0).wf = false ∧
    (Instr.order q 63 1 0).wf = false ∧ (Instr.requestInvalidCode q [0x28]).wf = false ∧
    (Instr.requestInvalidCode q []).wf = false ∧
    (Instr.editWrite q 0 (List.replicate 59 0)).wf = false ∧
    (Instr.storeWrite q 1 0 [0]).wf = false ∧ (Instr.emptyPassTimerExpiry q .up).wf = false ∧
    (Instr.replyTimerExpiry q .up).wf = false ∧
    (Instr.order q 62 1 0).wf = true ∧ (Instr.requestInvalidCode q [0x28, 0]).wf = true ∧
    (Instr.upStrayFrame q ⟨1, kindRequest, [0x28]⟩).wf = true := by decide +kernel

/-! ### Figures of the manual -/

/-- R160: the check of "123456789". -/
theorem test_crc_check_value :
    crc16 [0x31, 0x32, 0x33, 0x34, 0x35, 0x36, 0x37, 0x38, 0x39] = 0x29B1#16 := by decide +kernel

/-- "Worked conversions" of spec/01, each row. -/
theorem test_convert_worked :
    convert 13530 1024 0 = 54120 ∧ convert 412 256 500 = 912 ∧ convert 3 384 0 = 5 ∧
    convert 0 256 (-100) = 0 ∧ convert 65535 65535 0 = 65535 := by decide +kernel

/-- "Worked sequence: hysteresis and agreement" of spec/01: the bands after samples 1 to 14. -/
theorem test_bands_worked :
    let l : LimitSet := { cl := 100, lw := 450, hw := 1050, ch := 1150, h := 30, n := 3, stale := 0 }
    ([1040, 1062, 1071, 1049, 1063, 1068, 1070, 1035, 1015, 1018, 1160, 1158, 1151, 1140].scanl
        (fun g v => sampleSignal l v 0 g) { resetSignal with band := .normal }).tail.map (·.band) =
      [.normal, .normal, .normal, .normal, .normal, .normal, .high, .high, .high, .high, .high,
        .high, .critHigh, .critHigh] := by decide +kernel

/-- R68: two ticks of 9250 W from a residue of 37 debit 92 J and 93 J. -/
theorem test_debit_worked :
    let one := debit 9250 { resetRide with eRem := 1000, r := 37 }
    let two := debit 9250 one
    (one.eRem, one.r, two.eRem, two.r) = (908, 87, 815, 37) := by decide +kernel

/-- R70: the loss of battery 1. -/
theorem test_loss_worked :
    let r := lossOf 1
      { resetRide with eRem := 5000000, eAnchor := 6000000, shares := #v[0, 1500000, 0, 0, 0, 0] }
    (r.eRem, r.eAnchor, vget r.shares 1) = (3750000, 4500000, 0) := by decide +kernel

/-- R33: two supplies of 5500 W and 4400 W hold back 5500 W; one alone holds back nothing. -/
theorem test_reserve_worked :
    (reserveOf true [5500, 4400, 0, 0, 0, 0], reserveOf true [5500, 0, 0, 0, 0, 0],
      reserveOf false [5500, 4400, 0, 0, 0, 0]) = (5500, 0, 0) := by decide +kernel

/-- "Worked case: held readings and absence" of spec/02: 54,010 mV and 2,300 cA are 1242 W. -/
theorem test_watts_worked : wattsOf 54010 2300 = 1242 := by decide +kernel

/-- R163: a POLL to address 20, written out character by character but for its check. -/
theorem test_wire_poll :
    (frameWire ⟨20, kindPoll, []⟩).take 4 = [0xC3, 0x14, 0x01, 0x00] ∧
    (frameWire ⟨20, kindPoll, []⟩).length = 6 := by decide +kernel

/-- R163, R172: the default Policy record, field by field: none is 255, the qualify time has 4 bytes. -/
theorem test_policy_layout :
    encodePolicy defaultPolicy =
      [0, 1, 0, 0, 0, 0, 0, 0, 0x27, 0x10, 0, 0, 0, 0, 0, 0, 0, 0, 0xFF] := by decide +kernel

/-- R163, R122: a Zones record with one line point: unused places hold 255. -/
theorem test_zone_layout :
    encodeZone ⟨[.line 3], 2, 500⟩ =
      [1, 1, 1, 3, 255, 255, 255, 255, 255, 255, 255, 255, 255, 255, 255, 255, 255, 255, 2, 0x01,
        0xF4] := by decide +kernel

/-- R163, R171: a default Zones record is not in use, has no point, and each byte of its 8 unused places is 255. -/
theorem test_default_zone_layout :
    recordOf (defaultTable tZones) 7 =
      [0, 0, 255, 255, 255, 255, 255, 255, 255, 255, 255, 255, 255, 255, 255, 255, 255, 255, 0, 0, 0] := by
  decide +kernel

/-- R155: a position whose flag is clear is read with its Roster entry and that module's presence and miss count. -/
theorem test_read_poll_position_not_in_use :
    let missed := put tPoll 4 [0, 1]
      { small with modules := vset small.modules 1 { presence := .present, misses := 2, lastCopy := none } }
    positionData missed.toShelf .sp 4 = [0, 1, 1, 2] := by decide +kernel

/-- R156: the default rates: 348 for UP, 36 for SP. -/
theorem test_divisor_worked :
    (divisor (defaultPort 0), divisor (defaultPort 1)) = (348, 36) := by decide +kernel

/-- R182: the rows each level protects, and row 0 at every level. -/
theorem test_protected_rows :
    (rowProtected 0 63, rowProtected 1 47, rowProtected 1 48, rowProtected 3 15, rowProtected 3 16,
      rowProtected 0 0) = (false, false, true, false, true, true) := by decide +kernel

/-- R184: a write of 0x0F over 0xF0 gives 0, and reads back so. -/
theorem test_write_clears :
    let st := { newStore with cells := writeByte [] 32 0xF0 }
    readByte (writtenPage 0 1 (List.replicate 32 0x0F) st).cells 32 = 0 ∧
    readByte (writtenPage 0 1 (List.replicate 32 0x0F) st).cells 33 = 0x0F := by decide +kernel

/-- R187, R188: from reset with an erased store, power-on enables both downstream ports and posts STARTED,
which goes out at once. -/
theorem test_power_on :
    let t := after (.powerOnReset q) State.reset
    t.engUp.enabled = true ∧ t.engSp.enabled = true ∧ t.engTp.enabled = true ∧
    t.engUp.shifter.map (·.frame.payload) =
      some [0, 0, 0, 0, 0, 0, 1, 0, 0, 0, 0, 0] := by decide +kernel

/-- R102, R94: an OUTPUT-ON to an OFF tray without headroom queues it and is answered QUEUED. -/
theorem test_order_queues :
    let t := after (.order q 20 0x01 0) (withTray 0 { resetTray with state := .off } small)
    t.bay.queue = [0] ∧ t.engUp.shifter.map (·.frame) = some ⟨20, kindOrderAck, [0x01, 0x80]⟩ := by
  decide +kernel

/-- R100, R129: a WET zone locks its tray in the same event; the FILTER-OFF line edge is the cause. -/
theorem test_leak_locks :
    let s := put tZones 0 (encodeZone ⟨[.line 0], 1, 10⟩)
      { small with lines := vset small.lines 0 { resetSense with accepted := some .low }, sampling := true }
    let t := after (.lineEdge q 0 .high) (withTray 0 { resetTray with state := .on, seen := .on } s)
    (vget t.zones 0).state = .wet ∧ trayState t.toShelf 0 = .locked ∧ (vget t.zones 0).epoch = 1 := by
  decide +kernel

/-- R63, R98: a tick in RIDE with no usable energy is DEPLETED and sheds the ON tray. -/
theorem test_depleted_sheds :
    let s := withRide .ride (withTray 0 { resetTray with state := .on, seen := .on } small)
    let t := after (.energyTick (later 10)) { s with engTp := { resetEngine 2 with enabled := true } }
    t.ride.state = .depleted ∧ trayState t.toShelf 0 = .shedding ∧ t.bay.stack = [0] := by
  decide +kernel

/-- R176: an apply of a Policy with a start window of 5 is refused, naming entry 0. -/
theorem test_apply_invalid :
    let w : Window := { table := 0, first := 0, count := 1, idle := .running 5000000
                        latched := [some (encodePolicy { defaultPolicy with startWindow := 5 })] }
    (applyWindow { calm.toShelf with window := some w }).1 = (stInvalid, [0]) := by decide +kernel

/-- R156: the character 0x53 with EVEN parity and one stop bit: low, 1 1 0 0 1 0 1 0, parity 0, high; a low first
stop bit is an error. -/
theorem test_character_levels :
    let e := { defaultPort 1 with parity := .even, stopBits := 1 }
    let sent := characterLevels e 0x53
    sent = [false, true, true, false, false, true, false, true, false, false, true] ∧
    readCharacter e (sent.set 10 false) = ⟨0x53, true⟩ := by decide +kernel

/-- R46: an ACTIVE delivery leaves a FAILED supply FAILED, with its input hold set. -/
theorem test_line_keeps_failed :
    let s := { small with
      psms := vset small.psms 0 { resetPsm with state := .failed, inputHold := false } }
    let r := vget (psmLine 0 true s.toShelf).psms 0
    (r.state, r.lineActive, r.inputHold) = (.failed, true, true) := by decide +kernel

/-- R73: a tray with keep time 0 is shed at the first tick at which it is the lowest ON tray, with T 65535. -/
theorem test_keep_time_zero_shed :
    let entry : TrayEntry := ⟨0, 2000, 500, 100, 0, 0, some 0, none⟩
    let s := withRide .ride (withTray 0 { resetTray with state := .on, seen := .on }
      (put tTrays 0 (encodeTray entry) small))
    let t := after (.energyTick (later 10)) { s with
      ride := { s.ride with eRem := 1000, eCap := 1000 }
      engTp := { resetEngine 2 with enabled := true } }
    t.ride.state = .ride ∧ t.ride.t = 65535 ∧ trayState t.toShelf 0 = .shedding := by decide +kernel

/-- R154, R177: a supply whose Roster entry gets another address is ABSENT, and its held P is 0. -/
theorem test_roster_address_change :
    let w : Window :=
      { table := tRoster, first := 1, count := 1, idle := .running 5000000
        latched := [some (encodeRoster ⟨2, .sp, .psm, 0, false, 0⟩)] }
    let s := { small with
      window := some w, psms := vset small.psms 0 { resetPsm with state := .ok }
      balance := { small.balance with p := vset small.balance.p 0 900 } }
    let t := after (.editApply q) s
    (vget t.psms 0).state = .absent ∧ vget t.balance.p 0 = 0 := by decide +kernel

/-- R176: of two lines that share a TRAY-GOOD index the lower is named, though the higher has a bad edge. -/
theorem test_shared_line_named :
    let bad := (encodeSense ⟨.trayGood, 3, .high, 0, .both⟩).set 4 9
    let w : Window :=
      { table := tLine, first := 2, count := 2, idle := .running 5000000
        latched := [some (encodeSense ⟨.trayGood, 3, .high, 0, .both⟩), some bad] }
    (applyWindow { calm.toShelf with window := some w }).1 = (stInvalid, [2]) := by decide +kernel

/-! ### Witnesses: the hypotheses of each statement are met -/

theorem test_witness_StepCarriesOutFront :
    ({ calm with pending := [.readQueue q] } : State).pending = .readQueue q :: [] ∧
    calm.pending = [] := by decide +kernel

theorem test_witness_ShelfTimeMoves :
    exec (.energyTick (later 3)) small = .next (after (.energyTick (later 3)) small) ∧
    exec (.resetLine q) small = .next (after (.resetLine q) small) := ⟨rfl, rfl⟩

theorem test_witness_TimersLeaveStoreAndTables :
    leavesStore (.energyTick q) = true ∧ small.engUp.rx = [] ∧ small.restart = none ∧
    exec (.energyTick q) small = .next (after (.energyTick q) small) :=
  ⟨rfl, rfl, rfl, rfl⟩

theorem test_witness_ReadsChangeNothing :
    onlyReads (.readRide q) = true ∧ Calm small ∧
    exec (.readRide q) small = .next (after (.readRide q) small) :=
  ⟨rfl, by decide +kernel, rfl⟩

theorem test_witness_StoreFormKept :
    StoreOk { newStore with cells := [(0, 1), (16383, 254)], counts := .replicate 64 8 } ∧
    ∀ s, exec (.storeErase q 0 1) s = .next (after (.storeErase q 0 1) s) :=
  ⟨by decide +kernel, fun _ => rfl⟩

theorem test_witness_BayKept :
    BayExact (withTray 3 { resetTray with state := .queued } small).bay ∧
    BayExact (withTray 23 { resetTray with state := .shed } small).bay ∧
    ∀ s, exec (.portDisable q 2) s = .next (after (.portDisable q 2) s) := by
  refine ⟨⟨by decide, by decide, fun t => ?_, fun t => ?_⟩,
    ⟨by decide, by decide, fun t => ?_, fun t => ?_⟩, fun _ => rfl⟩
  all_goals
    rcases Nat.lt_or_ge t 24 with h | h
    · interval_cases t <;> decide +kernel
    · exact ⟨fun m => absurd m (by
        simp [withTray, onStack]
        try omega), fun m => absurd m.1 (Nat.not_lt.mpr h)⟩

theorem test_witness_NormalHasNoStack :
    Quiet small.toShelf ∧ small.ride.state = .normal ∧ small.bay.stack = [] ∧
    (after (.readRide q) small).ride.state = .normal ∧
    exec (.readRide q) small = .next (after (.readRide q) small) :=
  ⟨by decide +kernel, rfl, rfl, by decide +kernel, rfl⟩

theorem test_witness_EnergyKept :
    EnergyOk { resetRide with eRem := 5, eCap := 5 } ∧
    ∀ s, exec (.energyTick q) s = .next (after (.energyTick q) s) :=
  ⟨by decide +kernel, fun _ => rfl⟩

theorem test_witness_RideMarksKept :
    RideMarks (withRide .ride small).ride ∧ RideMarks (withRide .returning small).ride ∧
    RideMarks { (withRide .depleted small).ride with qualify := some 7, r := 99 } ∧
    ∀ s, exec (.qualifyTimerExpiry q) s = .next (after (.qualifyTimerExpiry q) s) :=
  ⟨by decide +kernel, by decide +kernel, by decide +kernel, fun _ => rfl⟩

theorem test_witness_QueuesKept :
    QueuesBounded { small.toShelf with
      engUp := { small.engUp with rx := [.damage, .damage] }
      telemetryRun := 4, telemetry := List.replicate 8 ⟨0, 8, []⟩ } ∧
    ∀ s, exec (.order q 1 2 3) s = .next (after (.order q 1 2 3) s) :=
  ⟨by decide +kernel, fun _ => rfl⟩

theorem test_witness_BalanceKept :
    BalanceAgrees (balanceNow small.toShelf [.start]) ∧
    ∀ s, exec (.editApply q) s = .next (after (.editApply q) s) :=
  ⟨by decide +kernel, fun _ => rfl⟩

theorem test_witness_NormalWorkKept :
    NormalWork { small.toShelf with
      restart := some false, seq := { resetSeq with state := .waiting } } ∧
    NormalWork (withRide .ride small).toShelf ∧
    ∀ s, exec (.restart q) s = .next (after (.restart q) s) :=
  ⟨by decide +kernel, by decide +kernel, fun _ => rfl⟩

theorem test_witness_AssemblerJudgesFrames :
    frameValid ⟨62, kindTelemetry, List.replicate 60 0xC3⟩ = true ∧
    frameValid ⟨0, kindPoll, []⟩ = true ∧ ([0, 0] : List Byte) ≠ frameCheck ⟨0, kindPoll, []⟩ ∧
    validKind 0 = false ∧ validKind 9 = false ∧ validKind 8 = true ∧ 60 < (61 : Byte).toNat ∧
    (defaultPort 0).stopBits = 1 ∧ { defaultPort 1 with parity := .odd }.parity = .odd ∧
    PortLegal { defaultPort 1 with parity := .even, stopBits := 2, gapLimit := 2 } := by
  decide +kernel

theorem test_witness_RecordsKeepEveryField :
    PolicyLegal { defaultPolicy with autostart := some 31 } ∧ PortLegal (defaultPort 0) ∧
    RosterLegal ⟨62, .tp, .tray, 23, true, 65535⟩ ∧
    SampleLegal ⟨47, 255, 127, 65535, -32768, 63, .leak, true⟩ ∧
    LimitsLegal { defaultLimits with n := 8, stale := 60000 } ∧
    SenseLegal ⟨.trayGood, 23, .low, 2000, .falling⟩ ∧ DriveLegal ⟨.valve, 7, .low⟩ ∧
    PsmLegal ⟨47, 16000, 100, 127, 126, 125⟩ ∧ BbmLegal ⟨47, 50000000, 65535, 16000, 127, 126⟩ ∧
    TrayLegal ⟨47, 16000, 16000, 60000, 65535, 23, some 7, some 15⟩ ∧
    StepLegal ⟨.branchZone, 16777215, 7, 1800000, 31, 31⟩ :=
  ⟨by decide, by decide, by decide, by decide, by decide, by decide, by decide, by decide,
    by decide, by decide, by decide⟩

theorem test_witness_RecordsKeepEveryField_zone :
    ZoneLegal ⟨List.replicate 8 (.signal 127), 4, 60000⟩ ∧ ZoneLegal ⟨[.line 15], 1, 0⟩ := by
  refine ⟨⟨by decide, ?_, by decide⟩, ⟨by decide, ?_, by decide⟩⟩ <;> simp [PointLegal]

theorem test_witness_BalanceAnswerLayout :
    (psmAt small.toShelf 0).isSome ∧ psmAt small.toShelf 5 = none ∧
    (bbmAt small.toShelf 0).isSome ∧ bbmAt small.toShelf 5 = none := by decide +kernel

theorem test_witness_QuietEventsEnd : Still small ∧ Still State.reset := by decide +kernel

theorem test_witness_ReadsAnswer :
    Calm small ∧ (psmAt small.toShelf 0).isSome ∧ (bbmAt small.toShelf 0).isSome ∧
    (zoneAt small.toShelf 7).isSome ∧ small.store.op = none ∧
    tableSize 12 = 32 ∧ mostPerRead.getD 12 0 = 8 := by decide +kernel

theorem test_witness_RequestsRefused :
    Calm small ∧ invalidRequest [0x02, 0, 0] = true ∧ invalidRequest [0xFF] = true ∧
    psmAt small.toShelf 5 = none ∧ bbmAt small.toShelf 5 = none ∧ zoneAt small.toShelf 0 = none ∧
    Calm { small with store := { newStore with op := some ⟨.verify, 1, 0, [], 5⟩ } } := by
  decide +kernel

theorem test_witness_ReadsThatClear :
    Calm small ∧ (15 : Byte).toNat < 16 ∧ 16 ≤ (23 : Byte).toNat ∧ (23 : Byte).toNat < 24 := by
  decide +kernel

/-- An open window over the last Trays entries, one of them latched. -/
def trayWindow : Window :=
  { table := tTrays, first := 16, count := 8, idle := .running 5000000
    latched := List.replicate 7 none ++ [some (List.replicate 13 0)] }

theorem test_witness_WindowOpensAndLatches :
    Calm { small with window := some trayWindow } ∧
    rangeProtected (withRide .ride small).toShelf 9 16 8 = true ∧
    rangeProtected small.toShelf 9 16 8 = false ∧ Calm (withRide .ride small) ∧
    trayWindow.first ≤ 23 ∧ 23 < trayWindow.first + trayWindow.count ∧
    trayWindow.first + trayWindow.count ≤ 24 ∧ recordLength trayWindow.table = 13 := by
  decide +kernel

theorem test_witness_WindowCloses :
    Still { small with window := some trayWindow } ∧
    expired (0 + (later 5000).elapsed) trayWindow.idle = true ∧
    expired (0 + (later 4999).elapsed) trayWindow.idle = false := by decide +kernel

theorem test_witness_ApplyDecided :
    let s := { small with window := some trayWindow }
    Calm s ∧ rangeProtected (heard q s).toShelf 9 16 8 = false ∧ latchedEntries trayWindow = [23] ∧
    firstFailing (heard q s).toShelf trayWindow = none ∧
    latchedEntries { trayWindow with latched := List.replicate 8 none } = [] ∧
    firstFailing (heard q s).toShelf
      { trayWindow with latched := List.replicate 7 none ++ [some (1 :: List.replicate 12 0)] } =
        some 23 ∧
    rangeProtected (heard q (withRide .returning s)).toShelf 9 16 8 = true := by decide +kernel

theorem test_witness_StoreRequestsDecided :
    let busy := { small with store := { newStore with op := some ⟨.verify, 1, 0, [], 5⟩ } }
    Calm small ∧ Calm busy ∧ Calm (withRide .depleted small) ∧ eraseAction 3 = none ∧
    eraseAction 2 = some .eraseAll ∧ eraseInRange .eraseBlock 57 = false ∧
    eraseInRange .eraseBlock 56 = true ∧ scopeProtected false 0 .write 0 = true ∧
    scopeProtected true 3 .write 63 = false ∧ scopeProtected false 1 .eraseAll 0 = true ∧
    pageState { newStore with pages := .replicate 512 .damaged } 63 7 = .damaged ∧
    pageState { newStore with pages := .replicate 512 .verified } 63 7 = .verified ∧
    pageState newStore 63 7 = .erased ∧ 8 ≤ vget (Vector.replicate 64 8) 63 := by decide +kernel

theorem test_witness_StoreOperationsComplete :
    let busy := { small with store := { newStore with op := some ⟨.write, 63, 7, [], 3000⟩ } }
    Still busy ∧ reached (busy.shelfTime + (later 3).elapsed) 3000 = true ∧
    reached (busy.shelfTime + (later 2).elapsed) 3000 = false := by decide +kernel

theorem test_witness_StoreBytesAndPages :
    let o : StoreOp := ⟨.eraseBlock, 56, 7, [], 0⟩
    let w : StoreOp := ⟨.write, 63, 7, List.replicate 32 0, 0⟩
    Memory.wf [(0, 0), (16383, 254)] = true ∧ w.data.length = 32 ∧ w.row < 64 ∧ w.page < 8 ∧
    o.row < 64 ∧ o.page < 8 ∧ o.row + 8 ≤ 64 := by decide +kernel

theorem test_witness_RestartDecided :
    let busy := { small with store := { newStore with op := some ⟨.eraseAll, 0, 0, [], 5⟩ } }
    Calm small ∧ small.ride.state = .normal ∧ small.store.op = none ∧ Calm busy ∧
    busy.store.op.isSome ∧ Calm (withRide .ride small) := by decide +kernel

theorem test_witness_ResetsLoadTheTables :
    let s := { small with
      restart := some false
      engUp := { small.engUp with shifter := some ⟨⟨0, kindAnswer, [0x18, 0]⟩, true⟩ } }
    s.engUp.shifter.isSome ∧ s.engUp.buffer = none ∧ restartReady s.toShelf = true ∧
    (∀ j < 3, pageState newStore 0 j = .erased) := by
  decide +kernel

/-- A directory with one entry, for a Policy image in row 1, and with protect level 2. -/
def dirBytes : List Byte := [1, 1, 0, 19, 0x4A, 0xF1] ++ List.replicate 72 0 ++ [2]

/-- A store with that directory and the default Policy as its image. -/
def imageStore : Store :=
  { newStore with
    pages := .replicate 512 .verified
    cells := (dirBytes ++ [0xCA, 0x28]).zipIdx.map (fun (x : Byte × Nat) => (x.2, x.1)) ++
      ((encodePolicy defaultPolicy).dropLast.zipIdx 256).map fun (x : Byte × Nat) => (x.2, x.1) }

/-- The directory's check, 16 bytes at a time. -/
theorem dirBytes_crc : crc16 dirBytes = 0xCA28 := by
  have h1 : (dirBytes.take 16).foldl crcByte 0xFFFF#16 = 0x9FB0 := by decide +kernel
  have h2 : ((dirBytes.drop 16).take 16).foldl crcByte 0x9FB0 = 0xD5ED := by decide +kernel
  have h3 : ((dirBytes.drop 32).take 16).foldl crcByte 0xD5ED = 0x7EA1 := by decide +kernel
  have h4 : ((dirBytes.drop 48).take 16).foldl crcByte 0x7EA1 = 0x5FF2 := by decide +kernel
  have h5 : (dirBytes.drop 64).foldl crcByte 0x5FF2 = 0xCA28 := by decide +kernel
  have parts : dirBytes = dirBytes.take 16 ++ ((dirBytes.drop 16).take 16 ++
      ((dirBytes.drop 32).take 16 ++ ((dirBytes.drop 48).take 16 ++ dirBytes.drop 64))) := by
    decide +kernel
  rw [crc16, parts]
  simp only [List.foldl_append, h1, h2, h3, h4, h5]

/-- A usable directory that names a good image: each condition of R186 holds of it. -/
theorem test_witness_ResetsLoadTheTables_image :
    Memory.wf imageStore.cells = true ∧ (∀ j < 3, pageState imageStore 0 j = .verified) ∧
    field16 (directory imageStore) 79 = (crc16 ((directory imageStore).take 79)).toNat ∧
    dirEntry imageStore 0 = ⟨1, 1, 19, 0x4AF1⟩ ∧ 19 = tableSize 0 * recordLength 0 ∧
    imageBytes imageStore ⟨1, 1, 19, 0x4AF1⟩ = encodePolicy defaultPolicy ∧
    (crc16 (encodePolicy defaultPolicy)).toNat = 0x4AF1 ∧
    tableValid calm.toShelf 0 (imageRecords 0 (encodePolicy defaultPolicy)) = true ∧
    field8 (directory imageStore) 78 = 2 ∧ (dirEntry imageStore 1).pages = 0 := by
  have same : (directory imageStore).take 79 = dirBytes := by decide +kernel
  rw [same, dirBytes_crc]
  decide +kernel

theorem test_witness_ClearTrayDecided :
    let s := withTray 0 { resetTray with state := .fault } small
    Calm s ∧ (trayAt (heard q s).toShelf 0).isSome ∧ trayState s.toShelf 0 = .fault ∧
    trayAt (heard q s).toShelf 23 = none ∧ trayState small.toShelf 0 = .unknown ∧
    (trayAt s.toShelf 0).any (fun e => rosterIs s.toShelf e.roster .tray 0) = true ∧
    (withFlight .poll 0 s).engTp.enabled = true := by decide +kernel

theorem test_witness_ProgramRequestsDecided :
    let running := { small with seq := { resetSeq with state := .waiting } }
    Calm small ∧ small.seq.state = .idle ∧ small.shelfStop = false ∧
    (stepAt (heard q small).toShelf 31).isSome ∧ stepAt (heard q small).toShelf 0 = none ∧
    Calm running ∧ running.seq.state ≠ .idle ∧ Calm (withRide .returning small) ∧
    Calm { small with shelfStop := true } := by decide +kernel

theorem test_witness_PortRequestsDecided :
    let on := withFlight .poll 0 small
    Calm on ∧ (engine on.toShelf .tp).enabled = true ∧ (engine on.toShelf .sp).enabled = false ∧
    0 ∈ modulesOn on.toShelf .tp ∧ 1 ∉ modulesOn on.toShelf .tp := by
  decide +kernel

theorem test_witness_OrdersDecided :
    Ready small ∧ moduleAt small.toShelf 61 = none ∧
    (moduleAt small.toShelf 62).map (fun x => (x.1, x.2.kind)) = some (2, .bbm) ∧
    (moduleAt small.toShelf 20).map (fun x => (x.1, x.2.kind)) = some (0, .tray) ∧
    (moduleAt small.toShelf 1).map (fun x => (x.1, x.2.kind)) = some (1, .psm) ∧
    guardAction small.toShelf 0x40 .psm = some .supplyCheck ∧
    guardAction small.toShelf 0x41 .psm = some .deny ∧
    guardAction small.toShelf 0x42 .psm = none ∧ psmOf small.toShelf 1 = some 0 ∧
    (engine (withFlight .poll 0 small).toShelf .tp).enabled = true ∧
    (engine small.toShelf .tp).enabled = false := by decide +kernel

theorem test_witness_TrayOrdersAnswered :
    let s := fun (st : TrayState) => (withTray 0 { resetTray with state := st } small).toShelf
    (trayAt small.toShelf 0).isSome ∧ trayAt small.toShelf 23 = none ∧
    [TrayState.unknown, .off, .queued, .starting, .on, .stopping, .shedding, .shed, .locked,
      .fault].all (fun st => trayState (s st) 0 = st) = true ∧
    (s .off).shelfStop = false ∧ (s .off).ride.state = .normal ∧
    (let stopped := { withTray 0 { resetTray with state := .off } small with shelfStop := true }
     stopped.shelfStop = true ∧ trayState stopped.toShelf 0 = .off ∧
       (trayAt stopped.toShelf 0).isSome) ∧
    (let runs := withFlight .poll 0 (withTray 0 { resetTray with state := .on } small)
     (trayAt runs.toShelf 0).any (fun e => rosterIs runs.toShelf e.roster .tray 0) = true ∧
       runs.engTp.enabled = true ∧ trayState runs.toShelf 0 = .on) := by decide +kernel

/-- The whole of a POLL but for its start character, with a wrong last character. -/
def damagedPoll : List Character :=
  (frameReceived ⟨20, kindPoll, []⟩).dropLast ++ [⟨0, false⟩]

/-- The characters of a frame as a port's settings make them, the last one replaced. -/
def sentBadly (e : PortSettings) : List RxChar :=
  (sentCharacters e ⟨20, kindPoll, []⟩).dropLast ++
    [⟨characterLevels e 0, characterBits e * divisor e⟩]

theorem test_witness_FramesTaken :
    let s := withFlight .poll 0 small
    let begun := editEngine .tp (fun g => { g with assembling := some 0 }) s.toShelf
    let up := { small with engUp := { small.engUp with assembling := some 0 } }
    let sends := { small with
      engTp := { resetEngine 2 with enabled := true, shifter := some ⟨⟨20, kindPoll, []⟩, false⟩ } }
    Still s ∧ hears (opening q s).toShelf .tp = true ∧ (engine s.toShelf .tp).assembling = none ∧
    Still sends ∧ (engine sends.toShelf .tp).shifter.isSome ∧
    (engine sends.toShelf .tp).began ≠ sends.shelfTime + (later 1).elapsed ∧
    hears (opening (later 1) sends).toShelf .tp = false ∧ hears (opening q sends).toShelf .tp = true ∧
    (engine begun .tp).enabled = true ∧ (engine begun .tp).assembling = some 0 ∧
    hears begun .tp = true ∧
    PortLegal (engine begun .tp).settings ∧
    frameValid ⟨20, kindReport, []⟩ = true ∧ damagedAtEnd damagedPoll = true ∧
    damagedAtEnd [⟨0, true⟩] = true ∧ Calm up ∧
    heardCharacters begun .tp (sentCharacters (engine begun .tp).settings ⟨20, kindReport, []⟩) =
      some (frameReceived ⟨20, kindReport, []⟩) ∧
    heardCharacters up.toShelf .up (sentCharacters up.engUp.settings ⟨1, kindOrder, [1, 0, 0]⟩) =
      some (frameReceived ⟨1, kindOrder, 1 :: be16 (0 : BitVec 16).toNat⟩) ∧
    heardCharacters begun .tp (sentBadly (engine begun .tp).settings) = some damagedPoll ∧
    heardCharacters up.toShelf .up (sentBadly up.engUp.settings) = some damagedPoll ∧
    (let e := { later 100 with lineQuiet := msTime 100 }
     e.lineQuiet.toNat ≤ ((0 : Time) + e.elapsed - 0).toNat ∧
       gapCycles up.engUp.settings ≤ 40 * e.lineQuiet.toNat ∧
       gapCycles (engine begun .tp).settings ≤ 40 * e.lineQuiet.toNat) := by decide +kernel

theorem test_witness_TransmittersAndPortTimers :
    let f : TxFrame := ⟨⟨20, kindPoll, []⟩, false⟩
    let up := { small with engUp := { small.engUp with shifter := some f } }
    let down := { small with engTp := { resetEngine 2 with enabled := true, shifter := some f } }
    Still up ∧ up.engUp.shifter.isSome ∧ up.engUp.buffer = none ∧
    restartReady up.toShelf = false ∧ Still down ∧ (engine down.toShelf .tp).shifter.isSome ∧
    (engine down.toShelf .tp).buffer = none ∧
    Still { small with engUp := { small.engUp with shifter := some f, buffer := some f } } := by
  decide +kernel

theorem test_witness_TransmittersAndPortTimers_expiry :
    let s := withFlight .poll 0 small
    let empty := { small with pollSp := { resetPoll with emptyTimer := .running 1000 } }
    let copied := { small with modules := vset small.modules 0 { resetModule with lastCopy := some 0 } }
    Still empty ∧ expired (0 + (later 1).elapsed) (pollEngine empty.toShelf .sp).emptyTimer = true ∧
    ((pollEngine s.toShelf .tp).inFlight.any fun tx => expired (0 + (later 20).elapsed) tx.timer) =
      true ∧
    Still copied ∧ (rosterAt copied.toShelf 0).map (·.interval) = some 5 ∧
    reached (0 + (later 5).elapsed) ((0 : Time) + 5000) = true := by decide +kernel

theorem test_witness_RepliesJudged :
    let flight := fun kind attempt => pollEngine (withFlight kind attempt small).toShelf .tp
    (pollEngine small.toShelf .tp).inFlight = none ∧
    ((flight .poll 0).inFlight.map fun tx => (tx.kind, tx.timer, tx.discarded, tx.roster)) =
      some (.poll, .running 20000, false, 0) ∧
    (let stopped := editPoll .tp
        (fun g => { g with inFlight := g.inFlight.map fun tx => { tx with timer := .stopped } })
        (withFlight .poll 0 small).toShelf
     (pollEngine stopped .tp).inFlight.map (·.timer) = some .stopped) ∧
    (⟨20, kindReport, [1, 2]⟩ : Frame).payload.length % 3 ≠ 0 ∧
    60 < (List.replicate 61 (0 : Byte)).length ∧ reportWhole (List.replicate 60 0) = true ∧
    ((flight .command 0).inFlight.map fun tx => (tx.kind, tx.code)) = some (.command, some 1) ∧
    ((flight .control 3).inFlight.map fun tx => (tx.kind, tx.code)) = some (.control, some 1) ∧
    ((flight .control 3).inProgress.map (·.attempt)) = some 3 ∧
    ((flight .control 2).inProgress.map (·.attempt)) = some 2 ∧
    (let missed := { small with modules := vset small.modules 0 { resetModule with misses := 2 } }
     (vget missed.modules 0).misses = 2 ∧ (vget small.modules 0).misses = 0 ∧
       (rosterAt missed.toShelf 0).isSome ∧ (vget missed.modules 0).presence ≠ .absent) := by
  decide +kernel

theorem test_witness_PollSearchFindsTheNextDue :
    pollSearch small.toShelf .tp 32 31 7 = (some (31, 0), 0) ∧
    pollSearch small.toShelf .sp 32 0 7 = (none, 0) := by decide +kernel

theorem test_witness_UpstreamLinkServed :
    let s := { small with engUp := { small.engUp with rx := [.damage] } }
    Quiet s.toShelf ∧ s.engUp.rx = [.damage] ∧ s.replyWait = [] ∧ s.restart = none ∧ Calm small ∧
    frameValid ⟨20, kindReport, []⟩ = true ∧ frameValid ⟨63, kindOrder, [1, 0, 0]⟩ = true ∧
    62 < (63 : Byte).toNat := by decide +kernel

theorem test_witness_UpstreamLinkServed_classes :
    let f : Frame := ⟨0, kindTelemetry, []⟩
    ({ small.toShelf with telemetryRun := 4, telemetry := [f] }).telemetry = f :: [] ∧
    (small.toShelf.telemetryRun ≠ 4 ∨ small.toShelf.telemetry = []) ∧
    small.toShelf.replies = [] ∧ small.toShelf.notices = [] ∧
    (List.replicate 32 (default : Notice)).length = 32 ∧
    List.replicate 32 (default : Notice) = List.replicate 31 default ++ [default] := by
  decide +kernel

theorem test_witness_LinesAcceptAndDrive :
    let s := { small with sampling := true }
    let seen := { s with lines := vset s.lines 0 { resetSense with accepted := some .low } }
    let third := { s with
      lines := vset s.lines 15 { resetSense with history := ⟨some .high, 2, 7⟩ } }
    watched (opening q s).toShelf 0 = true ∧ (vget s.lines 0).accepted = none ∧
    watched (opening q seen).toShelf 0 = true ∧ (vget seen.lines 0).accepted = some .low ∧
    sampleDue (opening q third).toShelf 15 = true ∧
    completes (vget third.lines 15) .high = true ∧ completes (vget third.lines 15) .low = false ∧
    Still third ∧
    (let valve := put tLine 16 (encodeDrive ⟨.valve, 7, .low⟩) { small with
        zones := vset small.zones 7 { resetZone with state := .wet } }
     (driveAt valve.toShelf 0).role = .valve ∧ (zoneAt valve.toShelf 7).isSome ∧
       (vget valve.zones 7).state = .wet ∧ driveLevel valve.toShelf 0 = .low) := by decide +kernel

theorem test_witness_RawBands :
    let l : LimitSet := { cl := 1, lw := 2, hw := 3, ch := 4, h := 0, n := 1, stale := 0 }
    [0, 1, 2, 3, 4, 5].map (rawBand l) =
      [.critLow, .low, .normal, .normal, .high, .critHigh] := by decide

theorem test_witness_BandsAgree :
    1 ≤ defaultLimits.n ∧
    (let l := { defaultLimits with lw := 10, n := 2 }
     candidateBand l .normal 5 = .low ∧ candidateBand l .normal 10 = .normal) := by decide

theorem test_witness_HysteresisHolds :
    let l : LimitSet := { cl := 100, lw := 450, hw := 1050, ch := 1150, h := 30, n := 3, stale := 0 }
    let top : LimitSet := { cl := 20, lw := 30, hw := 65520, ch := 65530, h := 40, n := 1, stale := 0 }
    LimitsLegal l ∧ LimitsLegal top ∧ rawBand l 1035 = .normal ∧ candidateBand l .high 1035 = .high ∧
    candidateBand l .high 1020 = .normal ∧ candidateBand l .low 479 = .low ∧
    candidateBand l .low 480 = .normal ∧ rawBand l 449 = .low ∧
    rawBand l 1140 = .high ∧ candidateBand l .critHigh 1140 = .critHigh ∧
    candidateBand l .critHigh 1120 = .high ∧ candidateBand l .critHigh 1020 = .normal ∧
    rawBand l 129 = .low ∧ candidateBand l .critLow 129 = .critLow ∧
    candidateBand l .critLow 130 = .low ∧ candidateBand l .critLow 480 = .normal ∧
    rawBand top 65500 = .normal ∧ 65535 < 65500 + top.h ∧ candidateBand top .high 65500 = .high ∧
    rawBand top 35 = .normal ∧ 35 < top.h ∧ candidateBand top .low 35 = .low := by decide

theorem test_witness_SignalsConvertedAndStale :
    let s := { small with
      signals := vset small.signals 127 { resetSignal with band := .normal, last := 0 } }
    ((feeding (opening (later 10) s).toShelf 127).map (·.signal)) = some 127 ∧
    staleDue (opening (later 10) s).toShelf 127 = true ∧
    staleDue (opening (later 9) s).toShelf 127 = false ∧
    ((0 * 256 + 128) / 256 : Nat) + (-1 : Int) < 0 ∧
    (65535 : Int) < ((65535 * 256 + 128) / 256 : Nat) + 1 ∧
    ((feeding s.toShelf 127).map fun e => (e.signal, e.notify)) = some (127, true) := by decide +kernel

theorem test_witness_ReserveStage :
    let redundant := (put tPolicy 0 (encodePolicy { defaultPolicy with redundant := true })
      (put tPsm 5 (encodePsm ⟨1, 800, 50, 0, 1, 2⟩) small)).toShelf
    let good := { redundant with
      psms := vset (vset redundant.psms 0 { resetPsm with state := .ok }) 5
        { resetPsm with state := .ok }
      signals := vset redundant.signals 2 { resetSignal with band := .normal } }
    (policy redundant).redundant = true ∧ (policy small.toShelf).redundant = false ∧
    psmAt small.toShelf 5 = none ∧ (psmAt small.toShelf 0).isSome ∧
    (vget good.psms 5).state = .ok ∧ (vget good.signals 2).band = .normal ∧
    (vget redundant.signals 2).band = .unknown ∧ (vget redundant.psms 0).state = .inputLost ∧
    ((List.range 6).filter fun i => 0 < vget (balanceNow good [.start]).g i).length = 2 ∧
    ((List.range 6).filter fun i => 0 < vget (balanceNow redundant [.start]).g i).length < 2 := by
  decide +kernel

theorem test_witness_MeasuredLoadAndDeficit :
    let gives := { small with
      bbms := vset small.bbms 0 { resetBbm with state := .discharging }
      signals := vset small.signals 0 { resetSignal with band := .normal, value := 54010 }
      balance := { small.balance with bUnread := vset small.balance.bUnread 0 true } }
    let read := { gives with
      signals := vset (vset gives.signals 1 { resetSignal with band := .low, value := 2300 }) 4
        { resetSignal with band := .high, value := 700 } }
    psmAt small.toShelf 5 = none ∧ bbmAt small.toShelf 5 = none ∧
    ((psmAt small.toShelf 0).map fun e => (e.voltage, e.current)) = some (0, 1) ∧
    ((bbmAt small.toShelf 0).map (·.discharge)) = some 4 ∧
    (vget gives.psms 0).state ≠ .absent ∧ (vget gives.bbms 0).state = .discharging ∧
    (vget small.bbms 0).state ≠ .discharging ∧ (vget gives.signals 4).band = .unknown ∧
    vget gives.balance.bUnread 0 = true ∧ vget (balanceNow gives.toShelf []).b 0 = 0 ∧
    vget (balanceNow read.toShelf []).p 0 = 1242 ∧ vget (balanceNow read.toShelf []).b 0 = 700 ∧
    ((decodeBbm (encodeBbm ⟨2, 2000, 500, 100, 3, 5⟩)).map (·.discharge)) = some 5 := by
  decide +kernel

theorem test_witness_CommitmentAndHeadroom :
    let on := withTray 0 { resetTray with state := .starting } small
    let b := balanceNow on.toShelf [.tray]
    (trayAt small.toShelf 23 = none) ∧ b.c = 2500 ∧ b.h = -2500 ∧ b.overcommit = true := by
  decide +kernel

theorem test_witness_SuppliesJudged :
    let entry : PsmEntry := ⟨1, 1000, 50, 0, 1, 2⟩
    let ready : Psm := { resetPsm with inputHold := false, status := some ⟨true, true, false⟩ }
    psmAt small.toShelf 0 = some entry ∧
    (evaluatePsm .present ready .normal .normal .report).1 = .ok ∧
    (evaluatePsm .present { ready with lineActive := true } .normal .normal .line).1 = .inputLost ∧
    (evaluatePsm .present ready .normal .critLow .band).1 = .failed ∧
    (evaluatePsm .absent ready .normal .normal .presence).1 = .absent ∧
    (vget small.psms 0).state = .inputLost ∧
    (evaluatePsm (ownedPresence small.toShelf entry.roster .psm 0) (vget small.psms 0)
      .unknown .unknown .report).1 = .inputLost := by decide +kernel

theorem test_witness_BatteriesJudged :
    let seen := fun (b : Bbm) => { small with bbms := vset small.bbms 0 { b with seen := true } }
    let entry : BbmEntry := ⟨2, 2000, 500, 100, 3, 4⟩
    bbmAt small.toShelf 0 = some entry ∧ (vget small.bbms 0).seen = false ∧
    (vget (seen { resetBbm with state := .fault, fault := some .status }).bbms 0).fault =
      some .status ∧
    (vget (seen { resetBbm with state := .charging, acknowledged := 50 }).bbms 0).state =
      .charging ∧
    (vget (seen resetBbm).bbms 0).state ≠ .absent ∧
    (0x0C : Nat).testBit 2 = true ∧ (0x0C : Nat).testBit 3 = true ∧
    chargeAllocation (seen { resetBbm with state := .charging, acknowledged := 50 }).toShelf = 50 ∧
    chargeAllocation small.toShelf = 0 := by decide +kernel

theorem test_witness_ChargeWithinBudget :
    let ready := { small with
      bbms := vset small.bbms 0 { resetBbm with seen := true, ordered := none }
      balance := { small.balance with h0 := 60 }
      engSp := { resetEngine 1 with enabled := true } }
    let full := { ready with bbms := vset small.bbms 0 { resetBbm with seen := true, full := true } }
    ready.ride.state = .normal ∧ ready.balance.deficit = false ∧ newRates ready.toShelf = [(0, 60)] ∧
    newRates full.toShelf = [(0, 0)] ∧ chargeBudgetOf ready.toShelf = 60 ∧
    newRates small.toShelf = [] ∧
    rateOrdered (policy ready.toShelf).chargeStep 60 (vget ready.bbms 0).ordered = true ∧
    (bbmAt ready.toShelf 0).any (fun e => rosterIs ready.toShelf e.roster .bbm 0) = true ∧
    ready.engSp.enabled = true ∧ rateOrdered 5 4 (some 4) = false ∧
    (withRide .ride small).ride.state ≠ .normal := by decide +kernel

theorem test_witness_RideBegins :
    small.toShelf.ride.state = .normal ∧
    ({ small.toShelf with seq := { resetSeq with state := .waiting } }).seq.state = .waiting := by
  decide +kernel

theorem test_witness_EnergyDebited :
    let s := withRide .ride (withTray 0 { resetTray with state := .on, seen := .on } small)
    let full := { s with ride := { s.ride with eRem := 1000, eCap := 1000 } }
    let heavy := { full with balance := { full.balance with d := 2500 } }
    s.ride.state = .ride ∧ s.ride.tick = some 10000 ∧
    reached (s.shelfTime + (later 10).elapsed) 10000 = true ∧
    (debit 100 { resetRide with eRem := 1, r := 99 }).eRem = 0 ∧
    (debit 100 { resetRide with eRem := 0, r := 99 }).eRem = 0 ∧
    (policy s.toShelf).energyReserve = 0 ∧ (debit s.balance.d s.ride).eRem = 0 ∧
    (debit 100 { resetRide with eRem := 9, r := 99 }).eRem = 8 ∧
    0 < (debit full.balance.d full.ride).eRem ∧ onByRank full.toShelf = [0] ∧
    ((trayAt full.toShelf 0).map (·.keepTime)) = some 60 ∧
    0 < (debit heavy.balance.d heavy.ride).eRem ∧ (energyTick heavy.toShelf).ride.bMax = 500 ∧
    (energyTick heavy.toShelf).raised = [.shed 0] ∧
    overloadShed { small.toShelf with bay := resetBay } 0 [0] 2500 = ([0], 500) := by decide +kernel

theorem test_witness_EnergyAccounted :
    let lost := withRide .ride small
    let shared := { lost.toShelf with
      ride := { lost.ride with
        eRem := 900, eCap := 2000, eAnchor := 1000, shares := #v[600, 0, 0, 0, 0, 0] } }
    small.ride.state = .normal ∧ lost.ride.state ≠ .normal ∧
    (batteryLost 0 shared).ride.eRem = 360 ∧ (batteryLost 0 shared).ride.eAnchor = 400 ∧
    (recomputeCapacity small.toShelf).ride.eCap = 2000 := by decide +kernel

theorem test_witness_RideReturns :
    let s := withRide .depleted small
    let back := withRide .returning small
    s.ride.state = .depleted ∧ (withRide .ride small).ride.state = .ride ∧
    ({ s.ride with qualify := some 0 }).qualify = some 0 ∧
    (policy s.toShelf).qualifyTime = 10000 ∧
    reached (s.shelfTime + (later 10000).elapsed) ((0 : Time) + 10000000) = true ∧
    back.ride.state = .returning ∧ back.bay.stack = [] ∧
    (withRide .returning (withTray 0 { resetTray with state := .shed } small)).bay.stack ≠ [] := by
  decide +kernel

theorem test_witness_ZonesEvaluatedAndCleared_clear :
    let wet := fun (p : PointState) => { small with
      zones := vset small.zones 7
        { resetZone with state := .wet, points := [p], epoch := 255 } }
    Calm (wet .dry) ∧ (zoneAt (heard q small).toShelf 7).isSome ∧
    zoneAt (heard q small).toShelf 0 = none ∧ (vget (wet .dry).zones 7).epoch = 255 ∧
    (∀ p ∈ (vget (wet .dry).zones 7).points, p = .dry) ∧
    (∃ p ∈ (vget (wet .unknown).zones 7).points, p ≠ .dry) ∧
    (vget small.zones 7).state ≠ .wet := by decide +kernel

theorem test_witness_ZonesEvaluatedAndCleared :
    let s := { small with
      zones := vset small.zones 7 { resetZone with state := .suspect, timer := .running 10000 } }
    (vget s.zones 7).state = .suspect ∧
    expired (s.shelfTime + (later 10).elapsed) (vget s.zones 7).timer = true ∧
    (evaluateZone ⟨[.line 0], 1, 10⟩ [.wet] 5 resetZone).state = .wet ∧
    (evaluateZone ⟨[.line 0], 2, 10⟩ [.wet] 5 resetZone).timer = .running 10005 ∧
    (evaluateZone ⟨[.line 0], 1, 10⟩ [.unknown] 5 resetZone).state = .suspect ∧
    (evaluateZone ⟨[.line 0], 1, 10⟩ [.dry] 5 { resetZone with state := .wet }).state = .wet := by
  decide +kernel

theorem test_witness_TraysAdmittedShedAndLocked :
    let waits := { withTray 0 { resetTray with state := .queued } small with
      balance := { small.balance with h := 2500 } }
    let short := { waits with balance := { small.balance with h := 2499 } }
    let back := withRide .returning (withTray 0 { resetTray with state := .shed } small)
    candidate waits.toShelf = some 0 ∧ (trayAt waits.toShelf 0).isSome ∧
    trayState (admissionTry waits.toShelf) 0 = .starting ∧ candidate short.toShelf = some 0 ∧
    trayState (admissionTry short.toShelf) 0 = .queued ∧ candidate back.toShelf = some 0 ∧
    candidate small.toShelf = none ∧ trayState small.toShelf 0 = .unknown ∧
    ({ waits with shelfStop := true }).shelfStop = true ∧
    (policy waits.toShelf).startWindow = 1 := by decide +kernel

theorem test_witness_TrayRecordsFollow :
    let s := withTray 0 { resetTray with state := .starting, startTimer := .running 1000 } small
    let st := fun (r : Tray) => vget (withTray 0 r small).bay.trays 0
    trayState s.toShelf 0 = .starting ∧ (trayAt s.toShelf 0).isSome ∧
    expired (s.shelfTime + (later 1).elapsed) (vget s.bay.trays 0).startTimer = true ∧
    ((trayAt small.toShelf 0).map fun e => (e.allocation, e.startTimeout)) = some (2000, 100) ∧
    (st { resetTray with state := .starting, awaited := .on }).awaited = .on ∧
    (st { resetTray with state := .shedding, awaited := .off }).awaited = .off ∧
    isRunning (vget s.bay.trays 0).startTimer = true ∧
    (goodLineOf small.toShelf 0).any (lineActive small.toShelf) = false ∧
    (let lit := put tLine 1 (encodeSense ⟨.trayGood, 0, .high, 0, .both⟩) { small with
        lines := vset small.lines 1 { resetSense with accepted := some .high } }
     let lit := put tTrays 0 (encodeTray ⟨0, 2000, 500, 100, 60, 0, some 0, some 1⟩) lit
     (goodLineOf lit.toShelf 0).any (lineActive lit.toShelf) = true) := by decide +kernel

theorem test_witness_ProgramStepsAndTimers :
    let waits := { small with
      seq := { resetSeq with
        state := .waiting, pointer := some 31, stepTimer := .running 1000
        delayTimer := .running 1000 } }
    let begins := put tTrays 0 (List.replicate 13 0)
      { small with seq := { resetSeq with autostart := some 31 } }
    waits.seq.state = .waiting ∧ (stepAt waits.toShelf 31).isSome ∧
    expired (waits.shelfTime + (later 1).elapsed) waits.seq.stepTimer = true ∧
    expired (waits.shelfTime + (later 1).elapsed) waits.seq.delayTimer = true ∧
    begins.seq.autostart = some 31 ∧ autostartCondition begins.toShelf = true ∧
    (stepAt begins.toShelf 31).isSome ∧
    ({ resetSeq with runCount := 30 }).runCount < 31 ∧ stepAt small.toShelf 0 = none ∧
    31 ≤ ({ resetSeq with runCount := 31 }).runCount := by decide +kernel

/-! ### Witnesses of the orders, deliveries and sources -/

/-- Battery 0 in a state, behind an ENABLED SP. -/
def withBattery (st : BbmState) (s : State) : State :=
  { s with
    bbms := vset s.bbms 0 { resetBbm with state := st, seen := true }
    engSp := { resetEngine 1 with enabled := true } }

/-- An order of battery 0 under its Roster entry. -/
def batteryOrder (code : Byte) : ControlOrder := ⟨2, 62, code, 0, .bbm 0⟩

theorem test_witness_RideBegins_orders :
    let idle := (withBattery .idle small).toShelf
    let active := (withBattery .discharging small).toShelf
    let ordered := { idle with pollSp := { resetPoll with control := [batteryOrder 0x11] } }
    usable idle 0 = true ∧ (vget idle.bbms 0).state = .idle ∧ (bbmAt idle 0).isSome ∧
    (bbmAt idle 0).any (fun e => rosterIs idle e.roster .bbm 0) = true ∧ idle.engSp.enabled = true ∧
    idle.pollSp.control = [] ∧ (vget active.bbms 0).state = .discharging ∧
    isPlaced ordered (.bbm 0) 0x11 = true ∧
    (dischargeBatteries idle).pollSp.control = [batteryOrder 0x11] ∧
    (dischargeBatteries ordered).pollSp.control = [batteryOrder 0x11] ∧
    (holdBatteries ordered).pollSp.control = [batteryOrder 0x12] ∧
    (holdDischarging active).pollSp.control = [batteryOrder 0x12] := by decide +kernel

theorem test_witness_LinesAcceptAndDrive_delivery :
    let entry := fun role => ({ defaultSense with role } : SenseEntry)
    let pressed := put tLine 15 (encodeSense ⟨.shelfStop, 0, .high, 0, .both⟩) { small with
      lines := vset small.lines 15 { resetSense with accepted := some .high } }
    let lit := put tLine 1 (encodeSense ⟨.trayGood, 0, .high, 0, .both⟩) small
    let lit := put tTrays 0 (encodeTray ⟨0, 2000, 500, 100, 60, 0, some 0, some 1⟩) lit
    (entry .shelfStop).role = .shelfStop ∧ small.shelfStop = false ∧
    ((senseAt pressed.toShelf 15).role = .shelfStop ∧
      (vget pressed.lines 15).accepted = some (senseAt pressed.toShelf 15).active) ∧
    stopLineActive small.toShelf = false ∧ ({ small with shelfStop := true }).shelfStop = true ∧
    (deliverLine (entry .shelfStop) 15 true (some 5) pressed.toShelf).raised =
      [.shelfStopTray 0, .seqShelfStop] ∧
    goodLineOf lit.toShelf 0 = some 1 ∧ goodLineOf small.toShelf 0 ≠ some 1 := by decide +kernel

theorem test_witness_PollSearchFindsTheNextDue_sources :
    let tp := { small.toShelf with engTp := { resetEngine 2 with enabled := true } }
    let o : ControlOrder := ⟨0, 20, 0x01, 0, .tray 0⟩
    let absent := { tp with
      modules := vset tp.modules 0 ⟨.absent, 0, none⟩, pollTp := { resetPoll with pass := 0 } }
    pollAt tp .tp 31 = some 0 ∧ ((rosterAt tp 0).map (·.port)) = some .tp ∧
    isRunning tp.pollTp.emptyTimer = false ∧ tp.pollTp.inFlight = none ∧ tp.engTp.buffer = none ∧
    tp.engTp.shifter = none ∧ (tryPoll .tp tp).1 = true ∧ (tryPoll .sp tp).1 = false ∧
    pollSearch absent .tp 32 31 0 = (none, 1) ∧
    (tryPoll .tp absent).2.pollTp.emptyTimer =
      .running (msTime (engine absent .tp).settings.replyTimeout) ∧
    ((arbitrate .tp { tp with pollTp := { resetPoll with control := [o] } }).pollTp.inFlight.map
      (·.kind)) = some .control ∧
    ((arbitrate .tp { tp with pollTp := { resetPoll with control := [o], nonPollRun := 3 } }
      ).pollTp.inFlight.map (·.kind)) = some .poll ∧
    ((arbitrate .tp { tp with pollTp := { resetPoll with inProgress := some ⟨o, 1⟩ } }
      ).pollTp.inFlight.map (·.attempt)) = some (some 2) ∧
    ((arbitrate .tp { tp with pollTp := { resetPoll with command := [⟨0, 20, 0x30, 0⟩] } }
      ).pollTp.inFlight.map (·.kind)) = some .command := by decide +kernel

theorem test_witness_RepliesJudged_copy :
    let copied := { small.toShelf with
      shelfTime := 5000, modules := vset small.modules 0 ⟨.present, 0, some 0⟩ }
    ((rosterAt copied 0).map fun e => (e.forward, e.interval, e.kind)) = some (true, 5, .tray) ∧
    reached copied.shelfTime (0 + BitVec.ofNat 32 (1000 * 5)) = true ∧
    reached ({ copied with shelfTime := 4999 }).shelfTime (0 + BitVec.ofNat 32 (1000 * 5)) = false ∧
    ((rosterAt copied 1).map fun e => (e.forward, e.kind)) = some (false, .psm) ∧
    rosterAt copied 47 = none ∧ copied.telemetry.length < 8 ∧
    ((trayAt copied 0).map (·.roster)) = some 0 ∧ ((psmAt copied 0).map (·.roster)) = some 1 ∧
    ((bbmAt copied 0).map (·.roster)) = some 2 ∧
    (copyReport 0 (List.replicate 60 7) copied).telemetry.map (fun f => f.payload.length) = [59] := by
  decide +kernel

theorem test_witness_SignalsConvertedAndStale_report :
    let e : RosterEntry := ⟨1, .sp, .psm, 0, false, 0⟩
    rosterAt small.toShelf 1 = some e ∧ rosterAt small.toShelf 47 = none ∧
    ((psmAt small.toShelf 0).map (·.roster)) = some 1 ∧
    samplesOf small.toShelf 1 [(16, 5), (1, 3), (17, 9)] =
      [(⟨1, 16, 127, 256, 0, 0, .electrical, true⟩, 5)] ∧
    statusWords [(16, 5), (1, 3), (17, 9)] = [3] ∧
    ((psmAt small.toShelf 0).map fun g => (g.voltage, g.current, g.temperature)) = some (0, 1, 2) ∧
    ((bbmAt small.toShelf 0).map fun g => (g.energy, g.discharge)) = some (3, 4) := by
  decide +kernel

theorem test_witness_ResetsLoadTheTables_blocks :
    let off := put tPort 2 (encodePort { defaultPort 2 with enable := false }) small
    let on := put tPort 2 (encodePort { defaultPort 2 with enable := true }) small
    let lines := put tLine 16 (encodeDrive ⟨.valve, 7, .low⟩) <|
      put tLine 17 (encodeDrive ⟨.rideActive, 0, .low⟩) small
    (portEntry off.toShelf .tp).enable = false ∧ (portEntry on.toShelf .tp).enable = true ∧
    (∀ t ∈ [9, 11, 0, 2], vget ({ small with loads := .replicate 13 .loaded }).loads t = .loaded) ∧
    vget small.loads 9 ≠ .loaded ∧ small.deferred = [] ∧ small.level ≤ 3 ∧
    (driveAt lines.toShelf 0).role = .valve ∧ (driveAt lines.toShelf 1).role = .rideActive := by
  decide +kernel

theorem test_witness_TraysAdmittedShedAndLocked_stop :
    let stopped := fun (st : TrayState) =>
      trayState (shelfStopTray 0 (withTray 0 { resetTray with state := st } small).toShelf) 0
    [TrayState.unknown, .off, .queued, .starting, .on, .stopping, .shedding, .shed, .locked, .fault].map
        stopped =
      [.unknown, .off, .off, .stopping, .stopping, .stopping, .stopping, .off, .locked, .fault] := by
  decide +kernel

/-- A step of a kind at place 0, with tray 0 in its tray set. -/
def withStep (kind : StepKind) (argument timeout : Nat) (s : State) : State :=
  put tSequence 0 (encodeStep ⟨kind, 1, argument, timeout, 31, 30⟩) s

theorem test_witness_ProgramStepsAndTimers_kinds :
    let entered := fun kind argument => (enterStep 0 (withStep kind argument 7 small).toShelf).seq
    let queued := withTray 0 { resetTray with state := .queued } (withStep .awaitTrays 0 7 small)
    let wet := { small with zones := vset small.zones 7 { resetZone with state := .wet } }
    (stepAt (withStep .start 0 0 small).toShelf 0).isSome ∧
    (enterStep 0 (withStep .start 0 0 small).toShelf).raised = [.seqStart [0]] ∧
    (enterStep 0 (withStep .awaitTrays 0 7 small).toShelf).raised = [.seqEnter 31] ∧
    (enterStep 0 queued.toShelf).seq.state = .waiting ∧
    (enterStep 0 queued.toShelf).seq.stepTimer = .running 7000 ∧
    (enterStep 0 (withRide .ride queued).toShelf).seq.stepTimer = .frozen 7000 ∧
    (entered .awaitHeadroom 1).state = .waiting ∧ (entered .awaitHeadroom 0).pointer = some 0 ∧
    (enterStep 0 (withStep .awaitEnergy 1 0 small).toShelf).raised = [.seqEnter 31] ∧
    (entered .delay 9).delayTimer = .running 9000 ∧ (entered .delay 9).stepTimer = .stopped ∧
    (enterStep 0 (withStep .branchZone 7 0 wet).toShelf).seq.outcome =
        some (.halted .badStep 0) ∧
    (enterStep 31 small.toShelf).seq.outcome = some (.ended 31) := by decide +kernel

theorem test_witness_ProgramStepsAndTimers_held :
    let held := { withStep .awaitHeadroom 1 0 small with
      seq := { resetSeq with
        state := .held, pointer := some 0, stepTimer := .frozen 55, delayTimer := .stopped } }
    let off := withTray 0 { resetTray with state := .off } small
    held.seq.state = .held ∧ held.ride.state = .normal ∧ (stepAt held.toShelf 0).isSome ∧
    stepCondition held.toShelf ⟨.awaitHeadroom, 1, 1, 0, 31, 30⟩ = false ∧
    (resumeSequencer held.toShelf).seq.stepTimer = .running 55 ∧
    (withRide .ride held).ride.state ≠ .normal ∧
    (seqShelfStop held.toShelf).raised = [.seqHalt .shelfStop 0 0] ∧ small.seq.state = .idle ∧
    (trayAt off.toShelf 0).isSome ∧ trayState off.toShelf 0 = .off ∧ off.bay.queue = [] ∧
    trayAt small.toShelf 23 = none := by decide +kernel

/-- R93, R110, R111, R116: a START step whose own recomputation sets DEFICIT (the held P of PSM 0) requests both its
trays in NORMAL, and the ride begins after the walk. -/
theorem test_walk_whole_before_ride :
    let two := put tRoster 3 (encodeRoster ⟨21, .tp, .tray, 1, false, 0⟩) <|
      put tTrays 1 (encodeTray ⟨3, 2000, 500, 100, 60, 1, none, none⟩) <|
      put tSequence 0 (encodeStep ⟨.start, 3, 0, 0, 31, 30⟩) small
    let off := { resetTray with state := .off }
    let walk := { two.toShelf with
      bay := { two.bay with trays := vset (vset two.bay.trays 0 off) 1 off }
      balance := { two.balance with p := vset two.balance.p 0 100 }
      raised := [.seqEnter 0] }
    (∀ n < 16,
      let y := runReactions n walk
      y.ride.state = .normal ∨ (trayState y 1 = .queued ∧ y.seq.state = .idle)) ∧
    (runReactions 16 walk).ride.state = .ride := by decide +kernel

/-! ### Witnesses of reactions, recomputations, applies and the upstream queues -/

theorem test_witness_QuietEventsEnd_reactions :
    let halts := { small with raised := [.seqHalt .abort 0 0] }
    let due := { small.toShelf with admitDue := true }
    halts.raised ++ halts.agenda = [.seqHalt .abort 0 0] ∧
    (let alone := { halts.toShelf with raised := [], agenda := [] }
     Quiet (perform (.seqHalt .abort 0 0) alone) ∧
       (perform (.seqHalt .abort 0 0) alone).engUp.rx = [] ∧
       (perform (.seqHalt .abort 0 0) alone).notices.length = 1) ∧
    (react halts.toShelf).engUp.rx = [] ∧ due.raised = [] ∧ due.agenda = [] ∧ due.applying = none ∧
    ({ due with applying := some [] }).applying ≠ none ∧
    ({ small.toShelf with deferred := [.charge] }).deferred = .charge :: [] ∧
    small.admitDue = false := by decide +kernel

theorem test_witness_CommitmentAndHeadroom_recomputation :
    let given := { small.toShelf with causes := [.tray] }
    let on := { withTray 0 { resetTray with state := .on } small with causes := [.tray] }
    let two := (put tPolicy 0 (encodePolicy { defaultPolicy with redundant := true })
      (put tPsm 5 (encodePsm ⟨1, 800, 50, 0, 1, 2⟩)
        (put tPsm 4 (encodePsm ⟨1, 700, 50, 0, 1, 2⟩) small))).toShelf
    let two := { two with
      psms := Vector.replicate 6 { resetPsm with state := .ok }
      signals := vset two.signals 2 { resetSignal with band := .normal } }
    given.causes ≠ [] ∧ given.applying = none ∧ small.causes = [] ∧
    ({ given with applying := some [.apply] }).applying = some [.apply] ∧ Cause.apply ∉ given.causes ∧
    ({ given with applying := some [] }).applying = some [] ∧
    (perform .balance on.toShelf).balance.h = -2000 ∧ (perform .balance on.toShelf).notices.length = 1 ∧
    (policy two).redundant = true ∧ (policy small.toShelf).redundant = false ∧
    trialHeadroom two 0 = 700 - 2000 ∧ trialHeadroom two 5 = 700 - 2000 ∧
    vget (balanceNow two []).g 1 = 0 ∧ trialHeadroom two 1 = (balanceNow two []).h := by decide +kernel

theorem test_witness_UpstreamLinkServed_queues :
    let f : TxFrame := ⟨⟨0, kindAnswer, [0x28, 0]⟩, false⟩
    let full := { small.toShelf with replies := List.replicate 4 f }
    let waits := { small with replyWait := [f] }
    let last := { small with engUp := { small.engUp with rx := [.damage, .damage] } }
    let order : Frame := ⟨62, kindOrder, 0x40 :: be16 7⟩
    4 ≤ full.replies.length ∧ small.replies.length < 4 ∧ small.replyWait = [] ∧ waits.replyWait ≠ [] ∧
    2 ≤ last.engUp.rx.length ∧ small.engUp.rx.length < 2 ∧ small.engUp.overrun = false ∧
    (offerUp .damage last.toShelf).notices.length = 1 ∧
    ({ last.engUp with overrun := true }).overrun = true ∧
    frameValid order = true ∧ small.engUp.enabled = true ∧ small.engUp.rx = [] ∧ small.restart = none ∧
    ({ small with restart := some false }).restart ≠ none ∧
    (receiveUp order waits).engUp.rx = [.frame order] ∧
    (receiveUp ⟨0, kindRequest, [0x28]⟩ waits).engUp.rx.length = 1 ∧
    small.engUp.buffer = none ∧ chooseUp small.toShelf = none ∧
    chooseUp full = some (f, { full with replies := List.replicate 3 f, telemetryRun := 1 }) ∧
    (arbitrateUp full).engUp.shifter = some f ∧ (arbitrateUp full).engUp.buffer = none := by
  decide +kernel

theorem test_witness_ZonesEvaluatedAndCleared_points :
    let fed := put tSample 0 (encodeSample ⟨1, 16, 127, 256, 0, 0, .leak, true⟩) small
    let low := { fed with signals := vset fed.signals 127 { resetSignal with band := .low } }
    let mine := put tLine 0 (encodeSense ⟨.leak, 7, .high, 0, .both⟩) small
    let wet := { mine with lines := vset mine.lines 0 { resetSense with accepted := some .high } }
    let wet := put tTrays 0 (encodeTray ⟨0, 2000, 500, 100, 60, 0, some 7, none⟩) wet
    ((feeding low.toShelf 127).map (·.kind)) = some .leak ∧ (vget low.signals 127).band = .low ∧
    pointState low.toShelf 7 (.signal 127) = .wet ∧ pointState fed.toShelf 7 (.signal 127) = .unknown ∧
    pointState { low with signals := vset fed.signals 127 { resetSignal with band := .critHigh } }.toShelf 7
      (.signal 127) = .dry ∧
    pointState small.toShelf 7 (.signal 127) = .unknown ∧ pointState small.toShelf 7 (.line 0) = .unknown ∧
    pointState mine.toShelf 7 (.line 0) = .dry ∧ pointState wet.toShelf 7 (.line 0) = .wet ∧
    (zoneAt wet.toShelf 7).isSome ∧ zoneAt wet.toShelf 6 = none ∧
    zonesTouched wet.toShelf = [7] ∧ (vget (perform (.zoneEval 7) wet.toShelf).zones 7).state = .wet ∧
    (perform (.zoneEval 7) wet.toShelf).raised = [.lockTray 0] ∧
    (let again := { wet with zones := vset wet.zones 7 { resetZone with state := .wet } }
     (perform (.zoneEval 7) again.toShelf).raised = []) ∧
    (vget (applyZone 7 none wet.toShelf).zones 7).points = [.dry] := by decide +kernel

theorem test_witness_TraysAdmittedShedAndLocked_apply :
    let entry : TrayEntry := ⟨0, 2000, 500, 100, 60, 0, some 0, none⟩
    let old := fun (e : TrayEntry) => (vget small.tables tTrays).set 0 (encodeTray e)
    let none_ := (vget small.tables tTrays).set 0 (List.replicate 13 0)
    let on := withTray 0 { resetTray with state := .on, seen := .on } small
    let locked := withTray 0 { resetTray with state := .locked } small
    let wet := put tTrays 0 (encodeTray { entry with zone := some 7 })
      { on with zones := vset on.zones 7 { resetZone with state := .wet } }
    let gone := put tTrays 0 (List.replicate 13 0) (withTray 0 { resetTray with state := .starting } small)
    let waits := withTray 0 { resetTray with state := .queued } small
    let became := fun (s : Shelf) => (vget s.bay.trays 0).state
    (trayAt small.toShelf 0) = some entry ∧ decodeTray (recordOf none_ 0) = none ∧
    became (releaseTray 0 locked.toShelf) = .off ∧ became (releaseTray 0 on.toShelf) = .on ∧
    trayAt gone.toShelf 0 = none ∧ (applyTray (old entry) 0 gone.toShelf).admitDue = true ∧
    became (applyTray (old entry) 0 gone.toShelf) = .unknown ∧
    became (applyTray none_ 0 on.toShelf) = .unknown ∧
    became (applyTray (old { entry with roster := 5 }) 0 on.toShelf) = .unknown ∧
    (applyTray (old { entry with roster := 5 }) 0 on.toShelf).causes = [.tray] ∧
    became (applyTray none_ 0 wet.toShelf) = .locked ∧
    became (applyTray (old entry) 0 wet.toShelf) = .locked ∧
    became (applyTray (old { entry with zone := none }) 0 locked.toShelf) = .off ∧
    became (applyTray (old entry) 0 on.toShelf) = .on ∧
    (applyTray (old { entry with inrush := 1 }) 0 waits.toShelf).deferred = [.charge] ∧
    (applyTray (old { entry with inrush := 1 }) 0 on.toShelf).deferred = [] := by decide +kernel

theorem test_witness_ApplyDecided_effects :
    let roster := vget small.tables tRoster
    let order : ControlOrder := ⟨0, 20, 0x02, 0, .tray 0⟩
    let awaits := { withTray 0 { resetTray with state := .stopping, awaited := .off } small with
      pollTp := { resetPoll with control := [order], command := [⟨0, 20, 0x40, 0⟩] } }
    let empty := put tRoster 0 (List.replicate 8 0) awaits
    let moved := put tRoster 0 (encodeRoster ⟨21, .tp, .tray, 0, true, 5⟩) awaits
    let gone := (removeOld roster 0 empty.toShelf)
    (decodeRoster (recordOf roster 0)).isSome ∧ rosterAt empty.toShelf 0 = none ∧
    ((rosterAt moved.toShelf 0).map (·.address)) = some 21 ∧
    gone.pollTp.control = [] ∧ gone.pollTp.command = [] ∧ gone.replies.length = 1 ∧
    trayState gone 0 = .fault ∧ (vget gone.modules 0).presence = .absent ∧
    (vget (admitNew roster 0 moved.toShelf).modules 0) = ⟨.new, 0, none⟩ ∧
    removeOld roster 0 awaits.toShelf = awaits.toShelf ∧
    adoptionWas (vget small.tables tTrays) small.toShelf = false ∧
    (perform (.applied 9 (vget small.tables tTrays) []) awaits.toShelf).deferred = [] ∧
    (perform (.applied 9 (vget small.tables tTrays) [0])
      (put tTrays 0 (List.replicate 13 0) small).toShelf).admitDue = true ∧
    (perform (.applied 3 [] []) small.toShelf).raised =
      [.moduleAbsent 1 false, .moduleAbsent 2 false, .zones] := by decide +kernel

theorem test_witness_SuppliesJudged_apply :
    let entry : PsmEntry := ⟨1, 1000, 50, 0, 1, 2⟩
    let old := fun (e : PsmEntry) => [encodePsm e]
    let gone := put tPsm 0 (List.replicate 8 0) small
    (psmAt small.toShelf 0) = some entry ∧ psmAt gone.toShelf 0 = none ∧
    decodePsm (recordOf [List.replicate 8 0] 0) = none ∧ decodePsm (recordOf (old entry) 0) = some entry ∧
    (vget gone.psms 0).state ≠ .absent ∧ (applyPsm (old entry) 0 gone.toShelf).causes = [.psmState] ∧
    (vget ({ gone with psms := vset gone.psms 0 { resetPsm with state := .absent } }).psms 0).state = .absent ∧
    ((decodePsm (recordOf (old { entry with voltage := 9 }) 0)).map (·.voltage)) = some 9 := by
  decide +kernel

theorem test_witness_BatteriesJudged_apply :
    let entry : BbmEntry := ⟨2, 2000, 500, 100, 3, 4⟩
    let gone := put tBbm 0 (List.replicate 12 0) small
    let charging := { small with
      bbms := vset small.bbms 0 { resetBbm with state := .charging, acknowledged := 50 } }
    bbmAt gone.toShelf 0 = none ∧ decodeBbm (recordOf [encodeBbm entry] 0) = some entry ∧
    decodeBbm (recordOf [List.replicate 12 0] 0) = none ∧ (bbmAt charging.toShelf 0) = some entry ∧
    (vget (applyBbm [encodeBbm entry] 0 charging.toShelf).bbms 0).acknowledged = 0 ∧
    (applyBbm [encodeBbm entry] 0 charging.toShelf).causes = [.charge, .bbmState] ∧
    (vget (applyBbm [encodeBbm entry] 0 gone.toShelf).bbms 0) = resetBbm := by decide +kernel

theorem test_witness_SignalsConvertedAndStale_apply :
    let entry : SampleEntry := ⟨1, 16, 127, 256, 0, 0, .electrical, true⟩
    let known := { small with
      signals := vset small.signals 127
        { resetSignal with band := .high, value := 7, pending := some .low, count := 1 } }
    let unfed := put tSample 0 (List.replicate 11 0) known
    let signal := fun old (s : State) => vget (applySignal old 127 s.toShelf).signals 127
    feeding known.toShelf 127 = some entry ∧ feeding unfed.toShelf 127 = none ∧
    feedingIn [encodeSample entry] 127 = some entry ∧ feedingIn [] 127 = none ∧
    (signal [] known).band = .unknown ∧ (signal [encodeSample entry] unfed).band = .unknown ∧
    signal [encodeSample { entry with gain := 1 }] known =
      { resetSignal with band := .high, value := 7 } ∧
    (signal [encodeSample { entry with fieldId := 17 }] known).value = 0 ∧
    (applySampleMap [] known.toShelf).notices.length = 1 ∧
    recordOf [encodeLimits defaultLimits] 0 ≠ recordAt known.toShelf 5 0 ∧
    (vget (applyLimits [encodeLimits defaultLimits] known.toShelf).signals 127).pending = none ∧
    (vget (applyLimits [encodeLimits defaultLimits] (opening (later 10) known).toShelf).signals 127).stale =
      true ∧
    (vget known.signals 127).stale = false ∧ small.applying = none := by decide +kernel

theorem test_witness_LinesAcceptAndDrive_apply :
    let entry : SenseEntry := ⟨.leak, 0, .high, 0, .both⟩
    let stop := { entry with role := .shelfStop }
    let seen := { small with
      shelfStop := true, lines := vset small.lines 0 { resetSense with accepted := some .high } }
    senseAt small.toShelf 0 = entry ∧ stop.role ≠ (senseAt small.toShelf 0).role ∧
    (withdrawSense 0 stop seen.toShelf).shelfStop = false ∧
    (withdrawSense 0 { entry with period := 100 } seen.toShelf).shelfStop = true ∧
    (deliverSense 0 { entry with active := .low } seen.toShelf).raised = [.zones] ∧
    (deliverSense 0 entry seen.toShelf).raised = [] := by decide +kernel

theorem test_witness_RepliesJudged_discarded :
    let s := withFlight .poll 0 small
    let gone := editPoll .tp
      (fun g => { g with inFlight := g.inFlight.map fun tx => { tx with discarded := true } }) s.toShelf
    ((pollEngine gone .tp).inFlight.map fun tx => (tx.discarded, tx.timer, tx.kind)) =
      some (true, .running 20000, .poll) ∧
    (judge .tp (.frame ⟨20, kindReport, []⟩) gone).pollTp.inFlight = none ∧
    vget (judge .tp .damage gone).modules 0 = vget small.modules 0 := by decide +kernel

/-- R28 and R39: a change gathered by the side effects of an apply is named beside APPLY, once, in its one
recomputation. -/
theorem test_apply_names_every_cause :
    let ends := fun (gathered own : List Cause) =>
      (endApply { small.toShelf with causes := gathered, applying := some own }).balance.causes
    (ends [.tray] [.apply], ends [] [.start], ends [.psmState, .charge] []) =
      ([.tray, .apply], [.start], [.psmState, .charge]) := by decide +kernel

/-- R40: at start-up an in-use tray whose module no poll list names commits its allocation in the first
recomputation. -/
theorem test_start_up_commits_unlisted_tray :
    let unlistedTray := (put tPoll 63 (List.replicate 2 0) small).toShelf
    unlisted unlistedTray 0 = true ∧ (endApply (placeTables unlistedTray)).balance.c = 2000 ∧
    (endApply (placeTables unlistedTray)).balance.causes.contains .start = true := by decide +kernel

/-! ### Witnesses of records, answers, validation, start-up and what follows a change -/

theorem test_witness_RecordsKeepEveryField_read :
    (decodePolicy (encodePolicy defaultPolicy)).isSome ∧ (encodePolicy defaultPolicy).length = 19 ∧
    (decodePort (encodePort (defaultPort 2))).isSome ∧
    [decodeRoster (recordAt small.toShelf 2 0)].all (·.isSome) ∧
    (decodePoll (recordAt small.toShelf 3 63)).isSome ∧ (decodeSample (recordAt small.toShelf 4 0)).isSome ∧
    (decodeLimits (recordAt small.toShelf 5 0)).isSome ∧ (decodeSense (recordAt small.toShelf 6 0)).isSome ∧
    (decodeDrive (recordAt small.toShelf 6 16)).isSome ∧ (decodePsm (recordAt small.toShelf 7 0)).isSome ∧
    (decodeBbm (recordAt small.toShelf 8 0)).isSome ∧ (decodeTray (recordAt small.toShelf 9 0)).isSome ∧
    (decodeZone (recordAt small.toShelf 10 7)).isSome ∧ (decodeStep (recordAt small.toShelf 11 31)).isSome ∧
    (decodeGuard (recordAt small.toShelf 12 0)).isSome ∧
    (∀ t < 13, tableValid small.toShelf t (vget small.tables t) = true) := by decide +kernel

/-- R176: one entry for each table that fails, by a field, by a field of its own kind, or in a conflict. -/
theorem test_witness_RecordsKeepEveryField_failing :
    let fails := fun (t : Nat) (i : Nat) (r : Record) =>
      entryFails small.toShelf t ((vget small.tables t).set i r) i
    let tray : TrayEntry := ⟨0, 2000, 500, 100, 60, 0, some 0, none⟩
    [fails 0 0 (encodePolicy { defaultPolicy with startWindow := 5 }),
      fails 1 0 (encodePort { defaultPort 0 with pulse := true }),
      fails 2 5 (encodeRoster ⟨20, .tp, .leakNode, 0, true, 5⟩),
      fails 2 5 (encodeRoster ⟨30, .tp, .tray, 0, true, 5⟩),
      fails 2 5 (encodeRoster ⟨30, .sp, .leakNode, 0, true, 5⟩),
      fails 3 32 (encodePoll 0), fails 4 1 (encodeSample ⟨1, 16, 5, 256, 0, 0, .electrical, true⟩),
      fails 5 0 (encodeLimits { defaultLimits with n := 0 }),
      fails 6 16 (List.replicate 5 9),
      fails 7 1 (encodePsm ⟨1, 1000, 50, 0, 1, 2⟩), fails 7 0 (encodePsm ⟨1, 1000, 50, 1, 1, 2⟩),
      fails 8 0 (encodeBbm ⟨1, 2000, 500, 100, 3, 4⟩), fails 9 0 (encodeTray { tray with shedRank := 24 }),
      fails 9 1 (encodeTray tray), fails 10 0 (encodeZone ⟨[.line 0], 2, 0⟩),
      fails 11 0 (encodeStep ⟨.delay, 0, 0, 0, 32, 0⟩),
      fails 12 1 (encodeGuard ⟨0x40, .psm, .pass⟩),
      fails 12 1 (encodeGuard ⟨0x50, .tray, .supplyCheck⟩)].all (· = true) = true ∧
    [fails 1 2 (encodePort { defaultPort 2 with pulse := true }), fails 9 0 (encodeTray tray),
      fails 3 0 (encodePoll 0), fails 10 0 (encodeZone ⟨[.line 0], 1, 0⟩),
      fails 2 5 (List.replicate 8 0)].all (· = false) = true ∧
    (let goods := fun (i j : Nat) (r : Record) =>
      entryFails small.toShelf 6 ((vget small.tables 6).set j r) i
     goods 0 1 (encodeSense ⟨.leak, 0, .high, 0, .both⟩) = false ∧
       entryFails small.toShelf 6
         (((vget small.tables 6).set 3 (encodeSense ⟨.trayGood, 4, .high, 0, .both⟩)).set 9
           (encodeSense ⟨.trayGood, 4, .low, 0, .both⟩)) 9 = true) := by decide +kernel

theorem test_witness_WindowOpensAndLatches_protected :
    let ride := (withRide .ride small).toShelf
    let held := { small.toShelf with seq := { resetSeq with state := .held } }
    let wet := { small.toShelf with zones := vset small.zones 7 { resetZone with state := .wet } }
    ([0, 8, 9].all fun t => rangeProtected ride t 0 1) = true ∧
    ([1, 2, 3, 4, 5, 6, 7, 10, 11, 12].all fun t => !rangeProtected ride t 0 1) = true ∧
    rangeProtected held 11 31 1 = true ∧ rangeProtected small.toShelf 11 31 1 = false ∧
    rangeProtected wet 10 0 8 = true ∧ rangeProtected wet 10 0 7 = false ∧
    rangeProtected wet 10 7 1 = true := by decide +kernel

theorem test_witness_ApplyDecided_failing :
    let tray : TrayEntry := ⟨0, 2000, 500, 100, 60, 0, some 0, none⟩
    let w : Window :=
      { table := 9, first := 0, count := 3, idle := .stopped
        latched := [none, some (encodeTray tray), some (encodeTray { tray with shedRank := 24 })] }
    let conflicts := { w with latched := [some (encodeTray tray), some (encodeTray tray), none] }
    latchedEntries w = [1, 2] ∧ firstFailing small.toShelf w = some 1 ∧
    firstFailing small.toShelf conflicts = some 0 ∧
    latchedAt w 2 = some (encodeTray { tray with shedRank := 24 }) ∧ latchedAt w 0 = none ∧
    firstFailing small.toShelf { w with latched := [some (encodeTray tray), none, none] } = none := by
  decide +kernel

theorem test_witness_ReadsAnswer_contents :
    let waits := (withTray 0 { resetTray with state := .queued } small).toShelf
    let shed := (withTray 0 { resetTray with state := .shed } small).toShelf
    let at_ := fun (kind : StepKind) (x : Shelf) =>
      (put tSequence 0 (encodeStep ⟨kind, 1, 0, 0, 31, 30⟩) { small with
        bay := x.bay, seq := { resetSeq with state := .waiting, pointer := some 0 } }).toShelf
    let open_ := { small.toShelf with
      window := some { table := 7, first := 1, count := 2, latched := [none, some [7]], idle := .stopped } }
    trayAt small.toShelf 23 = none ∧ trayData small.toShelf 23 = [0] ∧ (trayAt waits 0).isSome ∧
    0 ∈ waits.bay.queue ∧ 0 ∉ shed.bay.queue ∧ 0 ∈ shed.bay.stack ∧
    small.bay.queue = [] ∧ small.bay.stack = [] ∧
    small.seq.pointer.bind (stepAt small.toShelf) = none ∧
    (at_ .start waits).seq.pointer = some 0 ∧
    ((stepAt (at_ .start waits) 0).map (·.kind)) = some .start ∧
    ((stepAt (at_ .awaitTrays waits) 0).map (·.kind)) = some .awaitTrays ∧
    (programData (at_ .awaitTrays waits)).drop ((programData (at_ .awaitTrays waits)).length - 4) =
      [1, 0, 0, 1] ∧
    (readRange open_ 7 1 2).take 4 = [7, 1, 2, 2] ∧ (readRange open_ 8 1 2).take 4 = [8, 1, 2, 0] := by
  decide +kernel

theorem test_witness_ResetsLoadTheTables_placed :
    let zone := fun (st : ZoneState) => { small.toShelf with
      zones := vset small.zones 0 { resetZone with state := st, wet := 1, points := [.wet] } }
    let wet := (put tTrays 0 (encodeTray ⟨0, 2000, 500, 100, 60, 0, some 7, none⟩) { small with
      lines := vset small.lines 0 { resetSense with accepted := some .high } }).toShelf
    let wet := { wet with zones := vset wet.zones 7 { resetZone with state := .wet, wet := 1 } }
    let lone := (put tRoster 5 (encodeRoster ⟨30, .tp, .leakNode, 3, true, 5⟩) small).toShelf
    (zoneAt small.toShelf 7).isSome ∧ zoneAt small.toShelf 0 = none ∧
    (placeZone 0 (zone .wet)).notices.length = 1 ∧ (placeZone 0 (zone .suspect)).notices.length = 1 ∧
    (placeZone 0 (zone .dry)).notices = [] ∧ (vget (placeZone 0 (zone .dry)).zones 0).epoch = 1 ∧
    (vget (placeZone 0 (zone .wet)).zones 0).state = .dry ∧
    (placeZone 7 small.toShelf).zones = (perform (.zoneEval 7) small.toShelf).zones ∧
    trayState (lockTrayOnly 0 small.toShelf) 0 = .locked ∧ trayState small.toShelf 0 ≠ .locked ∧
    trayState (placeTables wet) 0 = .locked ∧
    (startUp .powerOn small.store small.toShelf).raised =
      [.endApply, .startPorts, .startAutostart, .postStarted .powerOn] ∧
    (placeTables lone).raised.contains (.moduleAbsent 5 false) = true ∧
    (placeTables small.toShelf).raised = [.moduleAbsent 1 false, .moduleAbsent 2 false] := by
  decide +kernel

theorem test_witness_OrdersDecided_found :
    let x := small.toShelf
    [20, 1, 62, 2].map (fun a => (moduleAt x a).map (·.1)) = [some 0, some 1, some 2, none] ∧
    guardAction x 0x40 .psm = some .supplyCheck ∧ guardAction x 0x41 .psm = some .deny ∧
    guardAction x 0x40 .tray = none ∧ psmOf x 1 = some 0 ∧ psmOf x 2 = none := by decide +kernel

theorem test_witness_LinesAcceptAndDrive_third :
    let third := fun (accepted : Option Level) =>
      put tLine 15 (encodeSense ⟨.leak, 0, .high, 200, .both⟩) { small with
        sampling := true
        lines := vset small.lines 15 { resetSense with accepted, history := ⟨some .high, 2, 7⟩ } }
    (senseAt (third none).toShelf 15).period = 200 ∧
    sampleDue (opening q (third none)).toShelf 15 = true ∧
    sampleDue (opening q (third (some .low))).toShelf 15 = true ∧
    (vget (after (.firstAcceptance q 15 .high) (third none)).lines 15).accepted = some .high ∧
    (vget (after (.lineEdge q 15 .high) (third (some .low))).lines 15).capture =
      ⟨7, 0, some .rising, true, false⟩ := by
  decide +kernel

theorem test_witness_SuppliesJudged_absent :
    (psmAt small.toShelf 0).isSome ∧ psmAt small.toShelf 5 = none ∧
    (let gone := (moduleAbsent 1 false small.toShelf)
     (vget gone.psms 0).state = .absent ∧ (vget gone.psms 0).status = none ∧
       (vget gone.psms 0).inputHold = true ∧ gone.notices.length = 1) := by decide +kernel

/-- R66: the code ordered after a battery's entry to a state, in each ride state. -/
theorem test_witness_EnergyAccounted_orders :
    let ordered := fun (in_ : RideState) (st : BbmState) =>
      (rideBattery 0 .idle st (withRide in_ (withBattery st small)).toShelf).pollSp.control.map (·.code)
    ([RideState.normal, .ride, .depleted, .returning].map fun in_ =>
      [BbmState.idle, .charging, .discharging].map (ordered in_)) =
      [[[], [], []], [[0x11], [0x11], []], [[], [], [0x12]], [[], [], [0x12]]] ∧
    ordered .ride .fault = [] := by decide +kernel

theorem test_witness_BatteriesJudged_full :
    let charges := (withRide .ride (withBattery .charging small)).toShelf
    let y := bbmStatusWord 0 0x0C charges
    (vget charges.bbms 0).state = .charging ∧ (0x0C : Nat).testBit 2 = true ∧ (0x0C : Nat).testBit 3 = true ∧
    (vget y.bbms 0).state = .fault ∧ y.notices.length = 2 ∧
    y.pollSp.control.map (·.code) = [0x11] ∧ (bbmStatusWord 0 8 charges).pollSp.control.map (·.code) = [0x11] ∧
    (bbmAbsent 0 charges).pollSp.control = [] := by decide +kernel

theorem test_witness_EnergyDebited_depleted :
    let s := (withRide .ride (withTray 0 { resetTray with state := .on, seen := .on } small)).toShelf
    let y := energyTick s
    s.ride.state = .ride ∧ y.ride.state = .depleted ∧ (y.ride.openSummary.map (·.depleted)) = some true ∧
    y.raised = [.shed 0, .postDepleted 1] ∧
    ((postDepleted 1 y).notices.map fun n => (n.code, n.word1, n.word2)) = [(7, 1, 0)] := by decide +kernel

theorem test_witness_ZonesEvaluatedAndCleared_rises :
    let y := evaluateZone ⟨[.line 0, .line 1], 2, 0⟩ [.wet, .dry] 5 { resetZone with timer := .running 9 }
    y.state = .suspect ∧ y.timer = .stopped ∧ y.firstWet = 5 ∧ resetZone.state ≠ .wet := by decide +kernel

theorem test_witness_TraysAdmittedShedAndLocked_told :
    let in_ := fun (st : TrayState) => (withTray 0 { resetTray with state := st } small).toShelf
    let put_ := fun (new : TrayState) (x : Shelf) => trayTo 0 new id x
    let y := put_ .on (in_ .starting)
    (vget y.bay.trays 0).state ≠ .starting ∧ y.admitDue = true ∧
    (let z := put_ .queued (in_ .off)
     (in_ .off).bay.queue.head? ≠ z.bay.queue.head? ∧ z.admitDue = true ∧ Task.charge ∈ z.deferred) ∧
    (let z := put_ .off (in_ .shed)
     (in_ .shed).bay.stack ≠ z.bay.stack ∧ z.admitDue = true ∧ Task.stackChanged ∈ z.raised) ∧
    (let z := put_ .off (in_ .unknown)
     adoptionComplete (in_ .unknown) = false ∧ adoptionComplete z = true ∧ z.admitDue = true ∧
       Task.autostartTest ∈ z.deferred) := by decide +kernel

/-- R89, R98 and R104: what is raised last by the adoption of a tray as ON. -/
theorem test_witness_TrayRecordsFollow_adopted :
    let last := fun (s : State) => (trayStatus 0 0x30 5 s.toShelf).raised.getLast?
    let stops := { small with shelfStop := true }
    trayState small.toShelf 0 = .unknown ∧ (0x30 : Nat).testBit 4 = true ∧ (0x30 : Nat).testBit 5 = true ∧
    last stops = some (.shelfStopTray 0) ∧ last (withRide .depleted small) = some (.shed 0) ∧
    last (withRide .depleted stops) = some (.shelfStopTray 0) ∧
    trayState (trayStatus 0 0x30 5 small.toShelf) 0 = .on ∧
    (trayStatus 0 0x30 5 small.toShelf).raised.contains (.shed 0) = false ∧
    trayState (trayStatus 0 0x34 5 small.toShelf) 0 = .on := by decide +kernel

theorem test_witness_ProgramStepsAndTimers_tested :
    let waits := fun (kind : StepKind) (argument : Nat) =>
      (withStep kind argument 0 { small with
        seq := { resetSeq with state := .waiting, pointer := some 0 } }).toShelf
    let begins := fun (n : Nat) => (put tTrays 0 (List.replicate 13 0)
      { small with seq := { resetSeq with autostart := some n } }).toShelf
    (waits .awaitHeadroom 0).seq.state = .waiting ∧ (stepAt (waits .awaitHeadroom 0) 0).isSome ∧
    (testStep (waits .awaitHeadroom 0)).raised = [.seqEnter 31] ∧
    (testStep (waits .awaitHeadroom 1)).raised = [] ∧ (testStep (waits .delay 0)).raised = [] ∧
    small.seq.state ≠ .waiting ∧ stepAt (begins 5) 5 = none ∧ autostartCondition (begins 5) = true ∧
    (perform .autostartTest (begins 5)).seq.outcome = some (.halted .badStep 5) ∧
    ((perform .autostartTest (begins 5)).notices.map fun n => (n.index, n.code, n.word1, n.word2)) =
      [(5, 12, 0, 5)] ∧
    (perform .autostartTest (begins 31)).raised = [.seqEnter 31] ∧
    autostartCondition small.toShelf = false := by decide +kernel

/-! ### Presence, reports and hearing -/

/-- R45 to R47: an ACTIVE delivery leaves a FAILED PSM as it is, and so does a report with no status word and no
band change; a report with one evaluates it. -/
theorem test_report_without_status :
    let held := { resetPsm with
      state := .failed, status := some ⟨true, true, false⟩, lineActive := true }
    let failed := { small with psms := vset small.psms 0 held }
    let state := fun pairs => (vget (takeReport 1 pairs 0 failed.toShelf).psms 0).state
    (state [(17, 9)], state [(1, 3)]) = (.failed, .inputLost) := by decide +kernel

/-- R139: the absence of a LEAK-NODE reaches no tray, whichever Trays entry names its Roster entry. -/
theorem test_absent_by_kind :
    let queued := withTray 0 { resetTray with state := .queued } small
    let node := put tRoster 0 (encodeRoster ⟨20, .tp, .leakNode, 0, true, 5⟩) queued
    let state := fun (s : State) => trayState (moduleAbsent 0 true s.toShelf) 0
    (state queued, state node) = (.off, .queued) := by decide +kernel

/-! ### Witnesses of times, of commands that are not due, and of what statements pin -/

theorem test_witness_ShelfTimeMoves_reached :
    reached 0 0 = true ∧ reached 0x7FFFFFFF 0 = true ∧ reached 0x80000000 0 = false ∧
    reached 4 5 = false ∧ reached 3 0xFFFFFFFF = true ∧
    expired 5 (.running 5) = true ∧ expired 4 (.running 5) = false ∧
    expired 5 .stopped = false ∧ expired 5 (.frozen 0) = false := by decide +kernel

theorem test_witness_QuietEventsEnd_waits :
    let x := small.toShelf
    let empty := { small with pollSp := { resetPoll with emptyTimer := .running 1001 } }
    let copied := { small with modules := vset small.modules 0 { resetModule with lastCopy := some 0 } }
    let flight := withFlight .poll 0 small
    let sends := { small with engUp := { small.engUp with shifter := some ⟨⟨20, kindPoll, []⟩, false⟩ } }
    (∀ s ∈ [empty, copied, flight, sends, withRide .ride small], Still s) ∧
    expired (0 + (later 1).elapsed) empty.pollSp.emptyTimer = false ∧
    (flight.pollTp.inFlight.any fun tx => expired (0 + (later 20).elapsed) tx.timer) = true ∧
    (flight.pollTp.inFlight.any fun tx => expired (0 + (later 19).elapsed) tx.timer) = false ∧
    (rosterAt copied.toShelf 0).isSome ∧ rosterAt copied.toShelf 47 = none ∧
    reached (0 + (later 4).elapsed) ((0 : Time) + 5000) = false ∧ staleDue x 127 = false ∧
    (withRide .ride small).ride.tick = some 10000 ∧ reached (0 + (later 9).elapsed) 10000 = false ∧
    x.ride.state ≠ .ride ∧ trayState x 0 ≠ .starting ∧ (vget x.zones 7).state ≠ .suspect ∧
    expired 0 x.seq.stepTimer = false ∧ expired 0 x.seq.delayTimer = false ∧ x.window = none ∧
    sampleDue x 15 = false ∧ watched x 15 = false ∧ (vget x.lines 15).accepted = none ∧
    (engine x .tp).shifter = none ∧ sends.engUp.buffer = none ∧
    restartReady sends.toShelf = false := by decide +kernel

/-- R169: the argument lengths of the request table, at their edges. -/
theorem test_witness_RequestsRefused_lengths :
    [[], [0x01, 0, 0, 0], [0x01, 0, 0], [0x03], [0x03, 0], [0x41], [0x41, 0], [0x5C], 0x13 :: [0, 0],
        List.replicate 61 0x01].map invalidRequest =
      [false, false, true, true, false, false, true, true, false, false] := by decide +kernel

/-- R156, R159: a gap limit of 4 characters is 348 µs at UP's default settings and 39.6 µs at TP's. A character
at the limit is heard and one a cycle later ends no frame. -/
theorem test_witness_FramesTaken_gaps :
    let begun := { small with engUp := { small.engUp with assembling := some 0 } }
    let g := begun.engUp.settings
    let spaced := fun gap => (sentCharacters g ⟨1, kindOrder, [1, 0, 0]⟩).map fun c => { c with gap }
    Still begun ∧ gapCycles g = 40 * 348 ∧ gapCycles (defaultPort 2) = 1584 ∧
    (heardCharacters begun.toShelf .up (spaced (40 * 348))).isSome ∧
    heardCharacters begun.toShelf .up (spaced (40 * 348 + 1)) = none ∧
    heardCharacters small.toShelf .up (spaced 0) = none ∧
    (engine small.toShelf .sp).enabled = false ∧ small.engUp.assembling = none ∧
    (0 + (later 1).elapsed - 0 : Time).toNat < (2000 : Time).toNat ∧
    40 * (347 : Time).toNat < gapCycles g := by decide +kernel

/-- R14, R21: a sample of a STALE signal is its last, and clears STALE; a signal that no sample has reached since a
reset does not go STALE, nor does one that is STALE already. -/
theorem test_witness_SignalsConvertedAndStale_sampled :
    let known := fun (g : Signal) => (opening (later 10)
      { small with signals := vset small.signals 127 g }).toShelf
    let h := sampleSignal defaultLimits 7 500 { resetSignal with stale := true }
    (h.value, h.last, h.stale, h.band) = (7, 500, false, .normal) ∧
    staleDue (known { resetSignal with band := .normal }) 127 = true ∧
    staleDue (known resetSignal) 127 = false ∧
    staleDue (known { resetSignal with band := .normal, stale := true }) 127 = false ∧
    staleDue (known { resetSignal with band := .normal, last := 1 }) 127 = false ∧
    feeding (known resetSignal) 126 = none ∧ fedFrom (known resetSignal) 0 = [] ∧
    (fedFrom (known resetSignal) 1).map (·.signal) = [127] := by decide +kernel

end Sys2Proof.Tests
end

section
/-! PROOF. Shelf time and the event's operands (R1; log entries 1 and 3) through every operation of the blocks: no
block writes them, so an event's opening and the resets alone decide them. One lemma per operation, in the order of
the model's files; each rewrites the operation's shelf time and event to those of its argument. -/

namespace Sys2Proof.Machine

/-! ### The clock -/

/-- Two states show the same shelf time and the same event. -/
abbrev SameClock (s t : Shelf) : Prop := t.shelfTime = s.shelfTime ∧ t.ambient = s.ambient

@[simp] theorem sameClock_iff {s t : Shelf} :
    SameClock s t ↔ t.shelfTime = s.shelfTime ∧ t.ambient = s.ambient := Iff.rfl

@[simp] theorem shelfTime_ite (c : Prop) [Decidable c] (s t : Shelf) :
    (if c then s else t).shelfTime = if c then s.shelfTime else t.shelfTime :=
  apply_ite Shelf.shelfTime c s t

@[simp] theorem ambient_ite (c : Prop) [Decidable c] (s t : Shelf) :
    (if c then s else t).ambient = if c then s.ambient else t.ambient :=
  apply_ite Shelf.ambient c s t

@[simp] theorem toShelf_ite (c : Prop) [Decidable c] (s t : State) :
    (if c then s else t).toShelf = if c then s.toShelf else t.toShelf :=
  apply_ite State.toShelf c s t

/-- A list of operations, none of which touches the clock. -/
theorem sameClock_foldl {α : Type} {f : Shelf → α → Shelf} (hf : ∀ s a, SameClock s (f s a))
    (l : List α) (s : Shelf) : SameClock s (l.foldl f s) :=
  keep_foldl (P := SameClock s)
    (fun x a h => ⟨(hf x a).1.trans h.1, (hf x a).2.trans h.2⟩) l ⟨rfl, rfl⟩

/-! ### Shared operations -/

@[simp] theorem sameClock_answerOrder (address code status : Byte) (s : Shelf) :
    SameClock s (answerOrder address code status s) := by simp [answerOrder]

@[simp] theorem sameClock_editEngine (p : Port) (f : PortEngine → PortEngine) (s : Shelf) :
    SameClock s (editEngine p f s) := by simp [editEngine]

@[simp] theorem sameClock_editPoll (p : Port) (f : PollEngine → PollEngine) (s : Shelf) :
    SameClock s (editPoll p f s) := by simp [editPoll]

@[simp] theorem sameClock_foldl_addCause (cs : List Cause) (s : Shelf) :
    SameClock s (cs.foldl addCause s) := by
  rw [foldl_addCause_eq]
  exact ⟨rfl, rfl⟩

/-! ### The Balance Unit -/

@[simp] theorem sameClock_overcommitNotice (old new : Balance) (s : Shelf) :
    SameClock s (overcommitNotice old new s) := by simp [overcommitNotice]

@[simp] theorem sameClock_tellMonitorAndSequencer (h0Changed : Bool) (s : Shelf) :
    SameClock s (tellMonitorAndSequencer h0Changed s) := by simp [tellMonitorAndSequencer]

/-- At each of the three turns the Ride-Through Controller may take. -/
@[simp] theorem sameClock_handOnBalance (old new : Balance) (s : Shelf) :
    SameClock s (handOnBalance old new s) := by
  unfold handOnBalance
  dsimp only
  split <;> split <;> simp

@[simp] theorem sameClock_recompute (causes : List Cause) (s : Shelf) :
    SameClock s (recompute causes s) := by simp [recompute]

@[simp] theorem sameClock_performBalance (s : Shelf) : SameClock s (performBalance s) := by
  simp [performBalance]

/-! ### Orders -/

@[simp] theorem sameClock_placeControl (o : ControlOrder) (s : Shelf) :
    SameClock s (placeControl o s) := by simp [placeControl]

@[simp] theorem sameClock_orderModule (roster : Nat) (target : Target) (code : Byte) (argument : Nat)
    (s : Shelf) : SameClock s (orderModule roster target code argument s) := by
  unfold orderModule
  split <;> simp

@[simp] theorem sameClock_forgetOrders (t : Nat) (s : Shelf) : SameClock s (forgetOrders t s) :=
  ⟨rfl, rfl⟩

@[simp] theorem sameClock_placeOn (t : Nat) (s : Shelf) : SameClock s (placeOn t s) := by
  unfold placeOn
  split <;> simp

@[simp] theorem sameClock_placeOff (t : Nat) (s : Shelf) : SameClock s (placeOff t s) := by
  unfold placeOff
  split <;> simp

@[simp] theorem sameClock_placeBbm (k : Nat) (code : Byte) (argument : Nat) (s : Shelf) :
    SameClock s (placeBbm k code argument s) := by
  unfold placeBbm
  split <;> simp

@[simp] theorem sameClock_placeBbmOnce (k : Nat) (code : Byte) (s : Shelf) :
    SameClock s (placeBbmOnce k code s) := by simp [placeBbmOnce]

@[simp] theorem sameClock_dischargeBatteries (s : Shelf) : SameClock s (dischargeBatteries s) :=
  sameClock_foldl (by simp) _ s

@[simp] theorem sameClock_holdBatteries (s : Shelf) : SameClock s (holdBatteries s) :=
  sameClock_foldl (by simp) _ s

/-! ### The Tray Controller -/

@[simp] theorem sameClock_trayNotice (t : Nat) (old new : TrayState) (s : Shelf) :
    SameClock s (trayNotice t old new s) := by simp [trayNotice]

@[simp] theorem sameClock_afterTray (before : Shelf) (old new : TrayState) (s : Shelf) :
    SameClock s (afterTray before old new s) := by simp [afterTray]

@[simp] theorem sameClock_trayTo (t : Nat) (new : TrayState) (f : Tray → Tray) (s : Shelf) :
    SameClock s (trayTo t new f s) := by simp [trayTo]

@[simp] theorem sameClock_faultTray (t : Nat) (cause : TrayFault) (s : Shelf) :
    SameClock s (faultTray t cause s) := by simp [faultTray]

@[simp] theorem sameClock_trayGood (t : Nat) (goodTime : Time) (s : Shelf) :
    SameClock s (trayGood t goodTime s) := by simp [trayGood]

@[simp] theorem sameClock_stopTray (t : Nat) (s : Shelf) : SameClock s (stopTray t s) := by
  unfold stopTray
  split <;> simp

@[simp] theorem sameClock_withdrawTray (t : Nat) (s : Shelf) : SameClock s (withdrawTray t s) := by
  simp [withdrawTray]

@[simp] theorem sameClock_countShed (s : Shelf) : SameClock s (countShed s) := ⟨rfl, rfl⟩

@[simp] theorem sameClock_shedTray (t : Nat) (s : Shelf) : SameClock s (shedTray t s) := by
  simp [shedTray]

@[simp] theorem sameClock_lockTrayOnly (t : Nat) (s : Shelf) : SameClock s (lockTrayOnly t s) := by
  simp [lockTrayOnly]

@[simp] theorem sameClock_lockTray (t : Nat) (s : Shelf) : SameClock s (lockTray t s) := by
  simp [lockTray]

@[simp] theorem sameClock_releaseTray (t : Nat) (s : Shelf) : SameClock s (releaseTray t s) := by
  simp [releaseTray]

@[simp] theorem sameClock_clearTray (t : Nat) (s : Shelf) : SameClock s (clearTray t s) := by
  simp [clearTray]

@[simp] theorem sameClock_requestAdmission (t : Nat) (origin : QueuedBy) (s : Shelf) :
    SameClock s (requestAdmission t origin s) := by simp [requestAdmission]

@[simp] theorem sameClock_shelfStopTray (t : Nat) (s : Shelf) : SameClock s (shelfStopTray t s) := by
  unfold shelfStopTray
  split <;> simp

@[simp] theorem sameClock_setSeen (t : Nat) (seen : Seen) (s : Shelf) :
    SameClock s (setSeen t seen s) := by simp [setSeen]

@[simp] theorem sameClock_adoptedOn (t : Nat) (s : Shelf) : SameClock s (adoptedOn t s) := by
  simp [adoptedOn]

@[simp] theorem sameClock_trayStatus (t word : Nat) (sampleTime : Time) (s : Shelf) :
    SameClock s (trayStatus t word sampleTime s) := by
  unfold trayStatus
  dsimp only
  split <;> simp

@[simp] theorem sameClock_trayLineEdge (t : Nat) (rising : Bool) (edgeTime : Time) (s : Shelf) :
    SameClock s (trayLineEdge t rising edgeTime s) := by
  unfold trayLineEdge
  dsimp only
  split <;> simp

@[simp] theorem sameClock_trayAbsent (t : Nat) (s : Shelf) : SameClock s (trayAbsent t s) := by
  unfold trayAbsent
  dsimp only
  split <;> simp

@[simp] theorem sameClock_startAcknowledged (t : Nat) (s : Shelf) :
    SameClock s (startAcknowledged t s) := by simp [startAcknowledged]

/-- An outcome acts on a STARTING, a STOPPING and a SHEDDING tray alone. -/
@[simp] theorem sameClock_trayOutcome (t : Nat) (code : Byte) (o : OrderOutcome) (s : Shelf) :
    SameClock s (trayOutcome t code o s) := by
  unfold trayOutcome
  dsimp only
  split
  · simp
  · split <;> simp

@[simp] theorem sameClock_admitTray (t : Nat) (s : Shelf) : SameClock s (admitTray t s) := by
  simp [admitTray]

@[simp] theorem sameClock_admissionTry (s : Shelf) : SameClock s (admissionTry s) := by
  unfold admissionTry
  split <;> simp

@[simp] theorem sameClock_interceptOn (address : Byte) (t : Nat) (s : Shelf) :
    SameClock s (interceptOn address t s) := by
  unfold interceptOn
  split <;> simp

@[simp] theorem sameClock_interceptOff (address : Byte) (t : Nat) (s : Shelf) :
    SameClock s (interceptOff address t s) := by
  unfold interceptOff
  split
  · simp
  · dsimp only
    split <;> simp

/-! ### The Guard -/

@[simp] theorem sameClock_relayOrder (r : Nat) (p : Port) (address code : Byte) (argument : Nat)
    (s : Shelf) : SameClock s (relayOrder r p address code argument s) := by simp [relayOrder]

@[simp] theorem sameClock_guardTable (r : Nat) (e : RosterEntry) (address code : Byte)
    (argument : Nat) (s : Shelf) : SameClock s (guardTable r e address code argument s) := by
  unfold guardTable
  split <;> simp

@[simp] theorem sameClock_decideOrder (address code : Byte) (argument : Nat) (s : Shelf) :
    SameClock s (decideOrder address code argument s) := by
  unfold decideOrder
  split <;> simp

/-! ### The Ride-Through Controller -/

@[simp] theorem sameClock_setRide (f : Ride → Ride) (s : Shelf) : SameClock s (setRide f s) := by
  simp [setRide]

@[simp] theorem sameClock_energyUpdate (s : Shelf) : SameClock s (energyUpdate s) := by
  simp [energyUpdate, reanchor]

@[simp] theorem sameClock_recomputeCapacity (s : Shelf) : SameClock s (recomputeCapacity s) := by
  simp [recomputeCapacity]

@[simp] theorem sameClock_batteryLost (k : Nat) (s : Shelf) : SameClock s (batteryLost k s) := by
  simp [batteryLost]

@[simp] theorem sameClock_rideOrders (k : Nat) (s : Shelf) : SameClock s (rideOrders k s) := by
  unfold rideOrders
  split <;> simp

@[simp] theorem sameClock_rideBattery (k : Nat) (old new : BbmState) (s : Shelf) :
    SameClock s (rideBattery k old new s) := by simp [rideBattery]

@[simp] theorem sameClock_dropRestart (s : Shelf) : SameClock s (dropRestart s) := ⟨rfl, rfl⟩

@[simp] theorem sameClock_holdSequencer (s : Shelf) : SameClock s (holdSequencer s) := by
  simp [holdSequencer]

@[simp] theorem sameClock_leaveNormal (s : Shelf) : SameClock s (leaveNormal s) := by
  simp [leaveNormal]

@[simp] theorem sameClock_reachNormal (s : Shelf) : SameClock s (reachNormal s) := by
  simp [reachNormal]

@[simp] theorem sameClock_rideTo (new : RideState) (f : Ride → Ride) (s : Shelf) :
    SameClock s (rideTo new f s) := by simp [rideTo]

@[simp] theorem sameClock_shedStarting (s : Shelf) : SameClock s (shedStarting s) := by
  simp [shedStarting]

@[simp] theorem sameClock_enterRide (line : Bool) (d : Nat) (s : Shelf) :
    SameClock s (enterRide line d s) := by simp [enterRide]

@[simp] theorem sameClock_secondLoss (d : Nat) (s : Shelf) : SameClock s (secondLoss d s) := by
  simp [secondLoss]

@[simp] theorem sameClock_postRideEnter (d : Nat) (s : Shelf) : SameClock s (postRideEnter d s) := by
  simp [postRideEnter]

@[simp] theorem sameClock_postDepleted (trays : Nat) (s : Shelf) :
    SameClock s (postDepleted trays s) := by simp [postDepleted]

@[simp] theorem sameClock_enterDepleted (s : Shelf) : SameClock s (enterDepleted s) := by
  simp [enterDepleted]

@[simp] theorem sameClock_enterNormal (s : Shelf) : SameClock s (enterNormal s) := by
  simp [enterNormal]

@[simp] theorem sameClock_stackChanged (s : Shelf) : SameClock s (stackChanged s) := by
  simp [stackChanged]

@[simp] theorem sameClock_enterReturning (s : Shelf) : SameClock s (enterReturning s) := by
  simp [enterReturning]

@[simp] theorem sameClock_qualifyStep (returnOk : Bool) (s : Shelf) :
    SameClock s (qualifyStep returnOk s) := ⟨rfl, rfl⟩

@[simp] theorem sameClock_rideRecord (deficit line returnOk : Bool) (d : Nat) (s : Shelf) :
    SameClock s (rideRecord deficit line returnOk d s) := by
  unfold rideRecord
  split <;> simp

@[simp] theorem sameClock_projectAndShed (d eUse : Nat) (s : Shelf) :
    SameClock s (projectAndShed d eUse s) := by simp [projectAndShed]

@[simp] theorem sameClock_energyTick (s : Shelf) : SameClock s (energyTick s) := by
  simp [energyTick]

/-! ### The Module Monitor -/

@[simp] theorem sameClock_editPsm (i : Nat) (f : Psm → Psm) (s : Shelf) :
    SameClock s (editPsm i f s) := ⟨rfl, rfl⟩

@[simp] theorem sameClock_psmTo (i : Nat) (new : PsmState) (reason : PsmReason) (cause : Cause)
    (s : Shelf) : SameClock s (psmTo i new reason cause s) := by simp [psmTo]

@[simp] theorem sameClock_checkPsm (i : Nat) (trigger : PsmTrigger) (s : Shelf) :
    SameClock s (checkPsm i trigger s) := by
  unfold checkPsm
  split <;> simp

@[simp] theorem sameClock_psmLine (i : Nat) (active : Bool) (s : Shelf) :
    SameClock s (psmLine i active s) := by simp [psmLine]

@[simp] theorem sameClock_psmAbsent (i : Nat) (s : Shelf) : SameClock s (psmAbsent i s) := by
  simp [psmAbsent]

@[simp] theorem sameClock_tellBbmState (k : Nat) (old new : BbmState) (reason : BbmReason)
    (s : Shelf) : SameClock s (tellBbmState k old new reason s) := by simp [tellBbmState]

@[simp] theorem sameClock_putBbm (k : Nat) (reason : BbmReason) (f : Bbm → Bbm) (s : Shelf) :
    SameClock s (putBbm k reason f s) := by simp [putBbm]

@[simp] theorem sameClock_adoptBbm (k : Nat) (word : Option Nat) (s : Shelf) :
    SameClock s (adoptBbm k word s) := by simp [adoptBbm]

@[simp] theorem sameClock_bbmStatusWord (k word : Nat) (s : Shelf) :
    SameClock s (bbmStatusWord k word s) := by simp [bbmStatusWord]

@[simp] theorem sameClock_bbmStatusWords (k : Nat) (words : List Nat) (s : Shelf) :
    SameClock s (words.foldl (fun s w => bbmStatusWord k w s) s) := sameClock_foldl (by simp) words s

@[simp] theorem sameClock_bbmReport (k : Nat) (words : List Nat) (s : Shelf) :
    SameClock s (bbmReport k words s) := by simp [bbmReport]

@[simp] theorem sameClock_bbmAbsent (k : Nat) (s : Shelf) : SameClock s (bbmAbsent k s) := by
  simp [bbmAbsent]

@[simp] theorem sameClock_failBbm (k : Nat) (cause : BbmFault) (reason : BbmReason) (s : Shelf) :
    SameClock s (failBbm k cause reason s) := by simp [failBbm]

@[simp] theorem sameClock_bbmOutcome (k : Nat) (code : Byte) (argument : Nat) (o : OrderOutcome)
    (s : Shelf) : SameClock s (bbmOutcome k code argument o s) := by
  unfold bbmOutcome
  split
  · simp
  · split <;> simp

@[simp] theorem sameClock_orderRate (rates : List (Nat × Nat)) (s : Shelf) :
    SameClock s (orderRate rates s) := sameClock_foldl (by simp) rates s

@[simp] theorem sameClock_holdDischarging (s : Shelf) : SameClock s (holdDischarging s) :=
  sameClock_foldl (by simp) _ s

@[simp] theorem sameClock_chargeEvaluation (s : Shelf) : SameClock s (chargeEvaluation s) := by
  simp [chargeEvaluation]

@[simp] theorem sameClock_chargeZero (s : Shelf) : SameClock s (chargeZero s) := by
  simp [chargeZero]

/-! ### The Signal Screen -/

@[simp] theorem sameClock_bandNotice (n : Nat) (old : Band) (notify : Bool) (s : Shelf) :
    SameClock s (bandNotice n old notify s) := by simp [bandNotice]

@[simp] theorem sameClock_putSignal (n : Nat) (notify : Bool) (f : Signal → Signal) (s : Shelf) :
    SameClock s (putSignal n notify f s) := by simp [putSignal]

@[simp] theorem sameClock_checkPsms (trigger : PsmTrigger) (is : List Nat) (s : Shelf) :
    SameClock s (checkPsms trigger is s) := sameClock_foldl (by simp) is s

@[simp] theorem sameClock_handOnSignals (h : HandOn) (trigger : PsmTrigger) (s : Shelf) :
    SameClock s (handOnSignals h trigger s) := by simp [handOnSignals]

@[simp] theorem sameClock_staleSignal (n : Nat) (notify : Bool) (s : Shelf) :
    SameClock s (staleSignal n notify s) := by simp [staleSignal]

@[simp] theorem sameClock_staleAll (es : List SampleEntry) (s : Shelf) :
    SameClock s (staleAll es s) := by
  have marked := sameClock_foldl (f := fun s (e : SampleEntry) => staleSignal e.signal e.notify s)
    (by simp) es s
  simp [staleAll, marked]

@[simp] theorem sameClock_applySample (e : SampleEntry) (raw : Nat) (time : Time) (s : Shelf) :
    SameClock s (applySample e raw time s) := by simp [applySample]

@[simp] theorem sameClock_applySamples (time : Time) (samples : List (SampleEntry × Nat))
    (x : Shelf × List (Nat × SignalKind)) : SameClock x.1 (applySamples time samples x).1 := by
  induction samples generalizing x with
  | nil => exact ⟨rfl, rfl⟩
  | cons sample rest ih => simp [applySamples, ih]

/-- The owner of each kind of module takes its words one after another. -/
@[simp] theorem sameClock_deliverStatus (e : RosterEntry) (r : Nat) (words : List Nat) (time : Time)
    (s : Shelf) : SameClock s (deliverStatus e r words time s) := by
  have psms := sameClock_foldl (f := fun s w => editPsm e.index (psmStatusWord w) s) (by simp) words s
  have trays := sameClock_foldl (f := fun s w => trayStatus e.index w time s) (by simp) words s
  unfold deliverStatus
  split <;> simp [psms, trays]

@[simp] theorem sameClock_evaluateReporter (e : RosterEntry) (r : Nat) (words : List Nat)
    (s : Shelf) : SameClock s (evaluateReporter e r words s) := by
  unfold evaluateReporter
  split <;> simp

@[simp] theorem sameClock_takeReport (r : Nat) (pairs : List (Nat × Nat)) (time : Time)
    (s : Shelf) : SameClock s (takeReport r pairs time s) := by
  unfold takeReport
  split <;> simp

/-! ### The Sense Line Unit -/

@[simp] theorem sameClock_editLine (l : Nat) (f : SenseLine → SenseLine) (s : Shelf) :
    SameClock s (editLine l f s) := ⟨rfl, rfl⟩

@[simp] theorem sameClock_followShelfStop (s : Shelf) : SameClock s (followShelfStop s) := by
  simp [followShelfStop]

/-- Each role has its own receiver; a TRAY-GOOD line tells its tray of edges alone. -/
@[simp] theorem sameClock_deliverLine (e : SenseEntry) (l : Nat) (active : Bool)
    (edge : Option Time) (s : Shelf) : SameClock s (deliverLine e l active edge s) := by
  unfold deliverLine
  split
  case h_4 => split <;> simp
  all_goals simp

@[simp] theorem sameClock_acceptLevel (l : Nat) (level : Level) (time : Time) (s : Shelf) :
    SameClock s (acceptLevel l level time s) := by simp [acceptLevel]

@[simp] theorem sameClock_takeSample (l : Nat) (level : Level) (s : Shelf) :
    SameClock s (takeSample l level s) := by simp [takeSample]

@[simp] theorem sameClock_filterSample (l : Nat) (level : Level) (s : Shelf) :
    SameClock s (filterSample l level s) := by simp [filterSample]

@[simp] theorem sameClock_acceptance (first : Bool) (l : Nat) (level : Level) (s : Shelf) :
    SameClock s (acceptance first l level s) := by simp [acceptance]

@[simp] theorem sameClock_withdrawLine (old : SenseEntry) (s : Shelf) :
    SameClock s (withdrawLine old s) := by
  unfold withdrawLine
  split <;> simp

@[simp] theorem sameClock_withdrawSense (l : Nat) (old : SenseEntry) (s : Shelf) :
    SameClock s (withdrawSense l old s) := by simp [withdrawSense]

@[simp] theorem sameClock_deliverSense (l : Nat) (old : SenseEntry) (s : Shelf) :
    SameClock s (deliverSense l old s) := by simp [deliverSense]

/-! ### The Leak Zone Unit -/

@[simp] theorem sameClock_editZone (z : Nat) (f : Zone → Zone) (s : Shelf) :
    SameClock s (editZone z f s) := ⟨rfl, rfl⟩

@[simp] theorem sameClock_tellZone (z : Nat) (old new : ZoneState) (cause : ZoneCause) (s : Shelf) :
    SameClock s (tellZone z old new cause s) := by simp [tellZone, zoneNotice]

@[simp] theorem sameClock_putZone (z : Nat) (cause : ZoneCause) (f : Zone → Zone) (s : Shelf) :
    SameClock s (putZone z cause f s) := by simp [putZone]

@[simp] theorem sameClock_zoneEvaluation (z : Nat) (s : Shelf) : SameClock s (zoneEvaluation z s) := by
  unfold zoneEvaluation
  split <;> simp

@[simp] theorem sameClock_zonesChanged (s : Shelf) : SameClock s (zonesChanged s) := by
  simp [zonesChanged]

@[simp] theorem sameClock_confirmExpiry (z : Nat) (s : Shelf) : SameClock s (confirmExpiry z s) := by
  simp [confirmExpiry]

@[simp] theorem sameClock_clearZone (z : Nat) (s : Shelf) : SameClock s (clearZone z s) := by
  simp [clearZone]

@[simp] theorem sameClock_applyZone (z : Nat) (old : Option ZoneEntry) (s : Shelf) :
    SameClock s (applyZone z old s) := by
  unfold applyZone
  split <;> simp

@[simp] theorem sameClock_placeZone (z : Nat) (s : Shelf) : SameClock s (placeZone z s) := by
  unfold placeZone
  split <;> simp

/-! ### The Program Sequencer -/

@[simp] theorem sameClock_haltRun (cause : HaltCause) (source word : Nat) (s : Shelf) :
    SameClock s (haltRun cause source word s) := by simp [haltRun]

@[simp] theorem sameClock_endRun (step : Nat) (s : Shelf) : SameClock s (endRun step s) := by
  simp [endRun]

@[simp] theorem sameClock_completeStep (named : Nat) (s : Shelf) :
    SameClock s (completeStep named s) := by simp [completeStep]

@[simp] theorem sameClock_waitAt (e : StepEntry) (s : Shelf) : SameClock s (waitAt e s) := by
  simp [waitAt]

@[simp] theorem sameClock_enterStep (n : Nat) (s : Shelf) : SameClock s (enterStep n s) := by
  unfold enterStep
  split
  · simp
  · dsimp only
    split <;> simp

@[simp] theorem sameClock_startTrays (trays : List Nat) (s : Shelf) :
    SameClock s (startTrays trays s) := by
  unfold startTrays
  split
  · simp
  · split
    · split <;> simp
    · simp

@[simp] theorem sameClock_testStep (s : Shelf) : SameClock s (testStep s) := by
  unfold testStep
  split <;> simp

@[simp] theorem sameClock_resumeSequencer (s : Shelf) : SameClock s (resumeSequencer s) := by
  simp [resumeSequencer]

@[simp] theorem sameClock_stepExpiry (s : Shelf) : SameClock s (stepExpiry s) := by
  unfold stepExpiry
  split <;> simp

@[simp] theorem sameClock_delayExpiry (s : Shelf) : SameClock s (delayExpiry s) := by
  unfold delayExpiry
  split <;> simp

@[simp] theorem sameClock_startRun (entry : Nat) (origin : Origin) (s : Shelf) :
    SameClock s (startRun entry origin s) := by simp [startRun]

@[simp] theorem sameClock_abortRun (cause : HaltCause) (s : Shelf) :
    SameClock s (abortRun cause s) := by simp [abortRun]

@[simp] theorem sameClock_seqShelfStop (s : Shelf) : SameClock s (seqShelfStop s) := by
  simp [seqShelfStop]

@[simp] theorem sameClock_autostartTest (s : Shelf) : SameClock s (autostartTest s) := by
  unfold autostartTest
  split <;> simp

/-! ### The downstream ports -/

@[simp] theorem sameClock_editModule (r : Nat) (f : Module → Module) (s : Shelf) :
    SameClock s (editModule r f s) := ⟨rfl, rfl⟩

@[simp] theorem sameClock_tellOwner (e : RosterEntry) (r : Nat) (s : Shelf) :
    SameClock s (tellOwner e r s) := by
  unfold tellOwner
  split <;> simp

@[simp] theorem sameClock_signalsStale (r : Nat) (s : Shelf) : SameClock s (signalsStale r s) := by
  simp [signalsStale]

@[simp] theorem sameClock_moduleAbsentAs (e : RosterEntry) (r : Nat) (missed : Bool) (s : Shelf) :
    SameClock s (moduleAbsentAs e r missed s) := by simp [moduleAbsentAs, tellAbsent, absentNotice]

@[simp] theorem sameClock_moduleAbsent (r : Nat) (missed : Bool) (s : Shelf) :
    SameClock s (moduleAbsent r missed s) := by
  unfold moduleAbsent
  split <;> simp

@[simp] theorem sameClock_countMiss (r : Nat) (s : Shelf) : SameClock s (countMiss r s) := by
  simp [countMiss]

@[simp] theorem sameClock_offerTelemetry (f : Frame) (s : Shelf) :
    SameClock s (offerTelemetry f s) := by simp [offerTelemetry]

@[simp] theorem sameClock_copyReport (r : Nat) (payload : List Byte) (s : Shelf) :
    SameClock s (copyReport r payload s) := by
  unfold copyReport
  split <;> simp

@[simp] theorem sameClock_countStray (p : Port) (s : Shelf) : SameClock s (countStray p s) := by
  simp [countStray]

@[simp] theorem sameClock_pollAnswered (r : Nat) (payload : List Byte) (s : Shelf) :
    SameClock s (pollAnswered r payload s) := by simp [pollAnswered]

/-- A POLL, an attempt of a control order and a relayed order end each in its own way. -/
@[simp] theorem sameClock_endAnswered (p : Port) (tx : Transaction) (f : Frame) (s : Shelf) :
    SameClock s (endAnswered p tx f s) := by
  unfold endAnswered
  dsimp only
  split
  · simp
  · split
    · simp
    · split <;> simp
    · simp

@[simp] theorem sameClock_endFailed (p : Port) (tx : Transaction) (s : Shelf) :
    SameClock s (endFailed p tx s) := by
  unfold endFailed
  dsimp only
  split
  · simp
  · split
    · simp
    · split <;> simp
    · simp

@[simp] theorem sameClock_judge (p : Port) (x : RxEntry) (s : Shelf) :
    SameClock s (judge p x s) := by
  unfold judge
  split
  · split
    · split <;> simp
    · simp
  · simp

@[simp] theorem sameClock_beginTx (p : Port) (tx : Transaction) (f : Frame) (s : Shelf) :
    SameClock s (beginTx p tx f s) := by simp [beginTx]

@[simp] theorem sameClock_tryPoll (p : Port) (s : Shelf) : SameClock s (tryPoll p s).2 := by
  unfold tryPoll
  split
  · dsimp only
    split <;> simp
  · simp

@[simp] theorem sameClock_beginAttempt (p : Port) (x : Progress) (s : Shelf) :
    SameClock s (beginAttempt p x s) := by simp [beginAttempt]

@[simp] theorem sameClock_beginCommand (p : Port) (o : RelayedOrder) (s : Shelf) :
    SameClock s (beginCommand p o s) := by simp [beginCommand]

@[simp] theorem sameClock_arbitrateOrders (p : Port) (s : Shelf) :
    SameClock s (arbitrateOrders p s) := by
  unfold arbitrateOrders
  dsimp only
  split <;> simp

/-- After three transactions that are no polls a poll is tried first, and the orders where none is due. -/
@[simp] theorem sameClock_arbitrate (p : Port) (s : Shelf) : SameClock s (arbitrate p s) := by
  have polled := sameClock_tryPoll p s
  unfold arbitrate
  dsimp only
  split
  · split
    · split <;> simp_all
    · simp
  · simp

@[simp] theorem sameClock_clearMisses (p : Port) (s : Shelf) : SameClock s (clearMisses p s) :=
  sameClock_foldl (by simp) _ s

@[simp] theorem sameClock_enablePort (p : Port) (s : Shelf) : SameClock s (enablePort p s) := by
  simp [enablePort]

@[simp] theorem sameClock_abandonFlight (pe : PollEngine) (s : Shelf) :
    SameClock s (abandonFlight pe s) := by
  unfold abandonFlight
  cases pe.inProgress <;> cases pe.inFlight <;> simp

@[simp] theorem sameClock_refuseRelayed (os : List RelayedOrder) (s : Shelf) :
    SameClock s (refuseRelayed os s) := sameClock_foldl (by simp) os s

@[simp] theorem sameClock_absentAll (rs : List Nat) (s : Shelf) : SameClock s (absentAll rs s) := by
  simp [absentAll]

@[simp] theorem sameClock_disablePort (p : Port) (s : Shelf) : SameClock s (disablePort p s) := by
  simp [disablePort]

/-! ### The edit window -/

@[simp] theorem sameClock_openWindow (table first count : Nat) (s : Shelf) :
    SameClock s (openWindow table first count s).2 := by
  unfold openWindow
  repeat' split
  all_goals simp

@[simp] theorem sameClock_writeWindow (entry : Nat) (record : Record) (s : Shelf) :
    SameClock s (writeWindow entry record s).2 := by
  unfold writeWindow
  split
  · simp
  · dsimp only
    repeat' split
    all_goals simp

@[simp] theorem sameClock_discardWindow (s : Shelf) : SameClock s (discardWindow s).2 := by
  unfold discardWindow
  split <;> simp

@[simp] theorem sameClock_expireWindow (s : Shelf) : SameClock s (expireWindow s) := by
  unfold expireWindow
  split <;> simp

/-! ### Reads that clear their marks -/

@[simp] theorem sameClock_readLine (line : Nat) (s : Shelf) : SameClock s (readLine line s).2 := by
  unfold readLine
  repeat' split
  all_goals simp [clearCapture]

@[simp] theorem sameClock_readPort (port : Nat) (s : Shelf) : SameClock s (readPort port s).2 := by
  unfold readPort
  split <;> simp

/-! ### EDIT-APPLY -/

@[simp] theorem sameClock_answerFlight (r : Nat) (pe : PollEngine) (s : Shelf) :
    SameClock s (answerFlight r pe s) := by
  unfold answerFlight
  split <;> simp

@[simp] theorem sameClock_tellPortOff (s : Shelf) (o : ControlOrder) :
    SameClock s (tellPortOff s o) := by
  unfold tellPortOff
  split <;> simp

@[simp] theorem sameClock_removeOrders (p : Port) (r : Nat) (s : Shelf) :
    SameClock s (removeOrders p r s) := by
  have told := fun os s => sameClock_foldl sameClock_tellPortOff os s
  simp [removeOrders, told]

@[simp] theorem sameClock_removeOld (old : List Record) (r : Nat) (s : Shelf) :
    SameClock s (removeOld old r s) := by
  unfold removeOld
  split <;> simp [removeModule]

@[simp] theorem sameClock_admitNew (old : List Record) (r : Nat) (s : Shelf) :
    SameClock s (admitNew old r s) := by simp [admitNew]

@[simp] theorem sameClock_applyRoster (old : List Record) (latched : List Nat) (s : Shelf) :
    SameClock s (applyRoster old latched s) := by
  have removed := sameClock_foldl (f := fun s r => removeOld old r s) (by simp) latched s
  have admitted := sameClock_foldl (f := fun s r => admitNew old r s) (by simp) latched
  simp [applyRoster, removed, admitted]

@[simp] theorem sameClock_absentUnlisted (s : Shelf) : SameClock s (absentUnlisted s) := by
  simp [absentUnlisted]

@[simp] theorem sameClock_applySignal (old : List Record) (n : Nat) (s : Shelf) :
    SameClock s (applySignal old n s) := by
  unfold applySignal
  split <;> simp

@[simp] theorem sameClock_applySampleMap (old : List Record) (s : Shelf) :
    SameClock s (applySampleMap old s) := by
  have applied := sameClock_foldl (f := fun s n => applySignal old n s) (by simp)
    (List.range Config.signalCount) s
  simp [applySampleMap, applied]

@[simp] theorem sameClock_applyLimits (old : List Record) (s : Shelf) :
    SameClock s (applyLimits old s) := by
  have cleared := sameClock_foldl
    (f := fun s (e : SampleEntry) => { s with signals := vmod s.signals e.signal clearPending })
    (by simp) (limitedBy old s) s
  simp [applyLimits, cleared]

@[simp] theorem sameClock_applyLines (old : List Record) (latched : List Nat) (s : Shelf) :
    SameClock s (applyLines old latched s) := by
  simp [applyLines, sameClock_foldl]

@[simp] theorem sameClock_dropOutput (i : Nat) (s : Shelf) : SameClock s (dropOutput i s) := ⟨rfl, rfl⟩

@[simp] theorem sameClock_dropPsm (i : Nat) (s : Shelf) : SameClock s (dropPsm i s) := by
  simp [dropPsm]

@[simp] theorem sameClock_applyPsm (old : List Record) (i : Nat) (s : Shelf) :
    SameClock s (applyPsm old i s) := by
  unfold applyPsm
  split <;> simp

@[simp] theorem sameClock_markUnread (k : Nat) (s : Shelf) : SameClock s (markUnread k s) := ⟨rfl, rfl⟩

@[simp] theorem sameClock_applyBbm (old : List Record) (k : Nat) (s : Shelf) :
    SameClock s (applyBbm old k s) := by
  unfold applyBbm
  split <;> simp

@[simp] theorem sameClock_renewTray (t : Nat) (s : Shelf) : SameClock s (renewTray t s) := by
  simp [renewTray]

@[simp] theorem sameClock_moveToRoster (t : Nat) (s : Shelf) : SameClock s (moveToRoster t s) := by
  simp [moveToRoster]

@[simp] theorem sameClock_applyKeptTray (t : Nat) (a b : TrayEntry) (s : Shelf) :
    SameClock s (applyKeptTray t a b s) := by simp [applyKeptTray]

@[simp] theorem sameClock_applyTray (old : List Record) (t : Nat) (s : Shelf) :
    SameClock s (applyTray old t s) := by
  unfold applyTray
  split <;> simp

@[simp] theorem sameClock_applyTrays (old : List Record) (latched : List Nat) (s : Shelf) :
    SameClock s (applyTrays old latched s) := by
  simp [applyTrays, sameClock_foldl]

/-- Each table has its own side effects. -/
@[simp] theorem sameClock_applyEffects (t : Nat) (old : List Record) (latched : List Nat)
    (s : Shelf) : SameClock s (applyEffects t old latched s) := by
  simp [applyEffects, sameClock_foldl]

@[simp] theorem sameClock_endApply (s : Shelf) : SameClock s (endApply s) := by
  unfold endApply
  split <;> simp

@[simp] theorem sameClock_replaceEntries (w : Window) (s : Shelf) :
    SameClock s (replaceEntries w s) := by simp [replaceEntries]

@[simp] theorem sameClock_applyWindow (s : Shelf) : SameClock s (applyWindow s).2 := by
  unfold applyWindow
  split
  · simp
  · dsimp only
    repeat' split
    all_goals simp

/-! ### The configuration store -/

@[simp] theorem sameClock_storeErase (scope row : Nat) (s : State) :
    SameClock s.toShelf (storeErase scope row s).2.toShelf := by
  unfold storeErase
  split
  · simp
  · repeat' split
    all_goals simp [startOperation]

@[simp] theorem sameClock_storeWrite (row page : Nat) (data : List Byte) (s : State) :
    SameClock s.toShelf (storeWrite row page data s).2.toShelf := by
  unfold storeWrite
  repeat' split
  all_goals simp [startOperation]

@[simp] theorem sameClock_storeVerify (row page : Nat) (s : State) :
    SameClock s.toShelf (storeVerify row page s).2.toShelf := by
  unfold storeVerify
  repeat' split
  all_goals simp [startOperation]

@[simp] theorem sameClock_completeOperation (weak : Bool) (s : State) :
    SameClock s.toShelf (completeOperation weak s).toShelf := by
  unfold completeOperation
  split
  · simp
  · split <;> simp [completionNotice]

/-! ### Start-up -/

@[simp] theorem sameClock_loadTables (st : Store) (s : Shelf) : SameClock s (loadTables st s) := by
  have loaded := sameClock_foldl (f := loadInto st) (fun _ _ => ⟨rfl, rfl⟩) loadOrder s
  simp [loadTables, loaded]

@[simp] theorem sameClock_placeTables (s : Shelf) : SameClock s (placeTables s) := by
  simp [placeTables, sameClock_foldl]

@[simp] theorem sameClock_startUp (kind : ResetKind) (st : Store) (s : Shelf) :
    SameClock s (startUp kind st s) := by simp [startUp]

@[simp] theorem sameClock_startPort (p : Port) (s : Shelf) : SameClock s (startPort p s) := by
  unfold startPort
  dsimp only
  split <;> simp

@[simp] theorem sameClock_startPorts (s : Shelf) : SameClock s (startPorts s) := by
  simp [startPorts]

@[simp] theorem sameClock_startAutostart (s : Shelf) : SameClock s (startAutostart s) := by
  simp [startAutostart]

@[simp] theorem sameClock_postStarted (kind : ResetKind) (s : Shelf) :
    SameClock s (postStarted kind s) := by simp [postStarted]

/-! ### The reactions of an event -/

/-- Each reaction is one operation of its block. -/
@[simp] theorem sameClock_perform (task : Task) (s : Shelf) : SameClock s (perform task s) := by
  cases task <;> simp [perform]

theorem sameClock_nextReaction {s t : Shelf} (h : nextReaction s = some t) : SameClock s t := by
  unfold nextReaction at h
  split at h
  case h_1 =>
    obtain rfl := Option.some.inj h
    simp
  case h_2 =>
    split at h
    · obtain rfl := Option.some.inj h
      simp
    · split at h
      · obtain rfl := Option.some.inj h
        simp
      · cases h

@[simp] theorem sameClock_runReactions (n : Nat) (s : Shelf) : SameClock s (runReactions n s) := by
  induction n generalizing s with
  | zero => exact ⟨rfl, rfl⟩
  | succ n ih =>
    unfold runReactions
    split
    case h_1 t next =>
      have one := sameClock_nextReaction next
      exact ⟨(ih t).1.trans one.1, (ih t).2.trans one.2⟩
    case h_2 => exact ⟨rfl, rfl⟩

@[simp] theorem sameClock_react (s : Shelf) : SameClock s (react s) := sameClock_runReactions _ s

/-! ### Requests, frames and the Router -/

@[simp] theorem toShelf_onShelf (f : Shelf → Shelf) (s : State) :
    (onShelf f s).toShelf = f s.toShelf := rfl

@[simp] theorem sameClock_respond (code : Byte) (a : Answer) (s : Shelf) :
    SameClock s (respond code a s) := by simp [respond]

@[simp] theorem sameClock_answerWith (code : Byte) (a : Shelf → Answer) (s : State) :
    SameClock s.toShelf (answerWith code a s).toShelf := by simp [answerWith]

@[simp] theorem sameClock_storeAnswer (code : Byte) (a : State → Answer) (s : State) :
    SameClock s.toShelf (storeAnswer code a s).toShelf := by simp [storeAnswer]

@[simp] theorem sameClock_actWith (code : Byte) {f : Shelf → Byte × Shelf}
    (hf : ∀ s, SameClock s (f s).2) (s : State) :
    SameClock s.toShelf (actWith code f s).toShelf := by simp_all [actWith]

@[simp] theorem sameClock_actAndTell (code : Byte) {f : Shelf → Answer × Shelf}
    (hf : ∀ s, SameClock s (f s).2) (s : State) :
    SameClock s.toShelf (actAndTell code f s).toShelf := by simp_all [actAndTell]

@[simp] theorem sameClock_storeWith (code : Byte) {f : State → Byte × State}
    (hf : ∀ s, SameClock s.toShelf (f s).2.toShelf) (s : State) :
    SameClock s.toShelf (storeWith code f s).toShelf := by simp_all [storeWith]

@[simp] theorem sameClock_requestClearTray (tray : Nat) (s : Shelf) :
    SameClock s (requestClearTray tray s).2 := by
  unfold requestClearTray
  repeat' split
  all_goals simp

@[simp] theorem sameClock_requestRun (step : Nat) (s : Shelf) :
    SameClock s (requestRun step s).2 := by
  unfold requestRun
  repeat' split
  all_goals simp

@[simp] theorem sameClock_requestAbort (s : Shelf) : SameClock s (requestAbort s).2 := by
  unfold requestAbort
  split <;> simp

@[simp] theorem sameClock_requestClearZone (zone : Nat) (epoch : Byte) (s : Shelf) :
    SameClock s (requestClearZone zone epoch s).2 := by
  unfold requestClearZone
  repeat' split
  all_goals simp

@[simp] theorem sameClock_requestEnable (port : Nat) (s : Shelf) :
    SameClock s (requestEnable port s).2 := by
  unfold requestEnable
  repeat' split
  all_goals simp

@[simp] theorem sameClock_requestDisable (port : Nat) (s : Shelf) :
    SameClock s (requestDisable port s).2 := by
  unfold requestDisable
  repeat' split
  all_goals simp

@[simp] theorem sameClock_handleRestart (s : State) :
    SameClock s.toShelf (handleRestart s).toShelf := by
  unfold handleRestart
  dsimp only
  split <;> simp

/-- Every request code has its own operation. -/
@[simp] theorem sameClock_dispatch (code : Byte) (args : List Byte) (s : State) :
    SameClock s.toShelf (dispatch code args s).toShelf := by
  simp [dispatch]

@[simp] theorem sameClock_handleRequest (payload : List Byte) (s : State) :
    SameClock s.toShelf (handleRequest payload s).toShelf := by
  unfold handleRequest
  dsimp only
  split <;> simp

@[simp] theorem sameClock_offerUp (x : RxEntry) (s : Shelf) : SameClock s (offerUp x s) := by
  simp [offerUp, overrunUp]

@[simp] theorem sameClock_takeEntry (x : RxEntry) (s : State) :
    SameClock s.toShelf (takeEntry x s).toShelf := by
  unfold takeEntry
  repeat' split
  all_goals simp

@[simp] theorem sameClock_arriveUp (x : RxEntry) (s : State) :
    SameClock s.toShelf (arriveUp x s).toShelf := by
  unfold arriveUp
  split <;> simp

@[simp] theorem sameClock_damageUp (s : State) : SameClock s.toShelf (damageUp s).toShelf := by
  simp [damageUp]

@[simp] theorem sameClock_receiveUp (f : Frame) (s : State) :
    SameClock s.toShelf (receiveUp f s).toShelf := by
  unfold receiveUp
  repeat' split
  all_goals simp

@[simp] theorem sameClock_routeWaiting (n : Nat) (s : State) :
    SameClock s.toShelf (routeWaiting n s).toShelf := by
  induction n generalizing s with
  | zero => exact ⟨rfl, rfl⟩
  | succ n ih =>
    unfold routeWaiting
    repeat' split
    all_goals simp [ih]

theorem sameClock_chooseUp {f : TxFrame} {s t : Shelf} (h : chooseUp s = some (f, t)) :
    SameClock s t := by
  have telemetry : takeTelemetry s = some (f, t) → SameClock s t := by
    unfold takeTelemetry
    split
    · rintro ⟨⟩
      exact ⟨rfl, rfl⟩
    · nofun
  unfold chooseUp at h
  split at h
  · exact telemetry h
  · split at h
    · cases h
      exact ⟨rfl, rfl⟩
    · cases h
      exact ⟨rfl, rfl⟩
    · exact telemetry h

@[simp] theorem sameClock_arbitrateUp (s : Shelf) : SameClock s (arbitrateUp s) := by
  unfold arbitrateUp
  split
  · split
    case h_1 chosen =>
      obtain ⟨time, shown⟩ := sameClock_chooseUp chosen
      exact ⟨time, shown⟩
    case h_2 => exact ⟨rfl, rfl⟩
  · exact ⟨rfl, rfl⟩

@[simp] theorem sameClock_closing (s : State) : SameClock s.toShelf (closing s).toShelf := by
  simp [closing]

@[simp] theorem sameClock_damageOn (p : Port) (s : State) :
    SameClock s.toShelf (damageOn p s).toShelf := by
  unfold damageOn
  split <;> simp

@[simp] theorem sameClock_deliverOn (p : Port) (f : Frame) (s : State) :
    SameClock s.toShelf (deliverOn p f s).toShelf := by
  unfold deliverOn
  split <;> simp [hunt]

/-! ### Resets -/

/-- A reset keeps the event; shelf time starts at 0 but for RESTART. -/
theorem resetPart_clock (kind : ResetKind) (s : State) :
    (resetPart kind s).ambient = s.ambient ∧
      (resetPart kind s).shelfTime = if kind = .restart then s.shelfTime else 0 := by
  cases kind <;> simp [resetPart, resetBlocks, resetShelf]

@[simp] theorem sameClock_endUp (s : State) : SameClock s.toShelf (endUp s).toShelf := by
  unfold endUp
  repeat' split
  all_goals simp [resetPart_clock]

/-! ### The links' and the timers' own events -/

@[simp] theorem sameClock_endDown (p : Port) (s : Shelf) : SameClock s (endDown p s) := by
  simp [endDown, startReplyTimer]

@[simp] theorem sameClock_shiftUp (s : Shelf) : SameClock s (shiftUp s) := by
  unfold shiftUp
  split <;> simp

@[simp] theorem sameClock_emptyPassExpiry (p : Port) (s : Shelf) :
    SameClock s (emptyPassExpiry p s) := by simp [emptyPassExpiry]

@[simp] theorem sameClock_replyExpiry (p : Port) (s : Shelf) : SameClock s (replyExpiry p s) := by
  unfold replyExpiry
  split <;> simp

@[simp] theorem sameClock_forwardExpiry (r : Nat) (s : Shelf) : SameClock s (forwardExpiry r s) := by
  simp [forwardExpiry]

@[simp] theorem sameClock_staleExpiry (n : Nat) (s : Shelf) : SameClock s (staleExpiry n s) := by
  simp [staleExpiry]

@[simp] theorem sameClock_startExpiry (t : Nat) (s : Shelf) : SameClock s (startExpiry t s) := by
  simp [startExpiry]

/-! ### Events and commands -/

/-- The event shows `e`, and shelf time has moved on by its elapsed time. -/
abbrev Advances (e : Ambient) (s t : Shelf) : Prop :=
  t.ambient = e ∧ t.shelfTime = s.shelfTime + e.elapsed

/-- An event opens by moving shelf time on (R1); what follows leaves the clock alone. -/
theorem opening_clock (e : Ambient) (s : State) : Advances e s.toShelf (opening e s).toShelf :=
  ⟨rfl, rfl⟩

theorem advances_wholeEvent (e : Ambient) {f : State → State} (s : State)
    (hf : ∀ s, SameClock s.toShelf (f s).toShelf) :
    Advances e s.toShelf (wholeEvent e f s).toShelf := by
  obtain ⟨time, shown⟩ := hf (opening e s)
  obtain ⟨began, moved⟩ := opening_clock e s
  simp [Advances, wholeEvent, time, shown, began, moved]

theorem advances_event (e : Ambient) {f : Shelf → Shelf} (s : State)
    (hf : ∀ s, SameClock s (f s)) : Advances e s.toShelf (event e f s).toShelf :=
  advances_wholeEvent e (f := onShelf f) s fun s => hf s.toShelf

theorem advances_request (e : Ambient) (code : Byte) (args : List Byte) (s : State) :
    Advances e s.toShelf (request e code args s).toShelf :=
  advances_wholeEvent e s (sameClock_receiveUp _)

/-- Shelf time after a command's event: from 0 after power-on reset and the RESET line alone (R1). -/
def timeAfter (c : Instr) (s : State) : Time :=
  match c with
  | .powerOnReset _ | .resetLine _ => 0
  | _ => s.shelfTime + (ambientOf c).elapsed

theorem wholeEvent_reset_clock (e : Ambient) (kind : ResetKind) (hk : kind ≠ .restart) (s : State) :
    (wholeEvent e (resetPart kind) s).ambient = e ∧
      (wholeEvent e (resetPart kind) s).shelfTime = 0 := by
  obtain ⟨began, -⟩ := opening_clock e s
  simp [wholeEvent, resetPart_clock, began, hk]

/-- What a command's event shows and the shelf time it leaves, row after row of the table. -/
theorem exec_clock (c : Instr) (s : State) :
    ∃ t, exec c s = .next t ∧ t.ambient = ambientOf c ∧ t.shelfTime = timeAfter c s := by
  cases c with
  | powerOnReset e => exact ⟨_, rfl, wholeEvent_reset_clock e .powerOn nofun s⟩
  | resetLine e => exact ⟨_, rfl, wholeEvent_reset_clock e .line nofun s⟩
  | restartPerform | frameReceived | frameDamaged | gapLimitExpiry | transmitEnd
  | storeOperationComplete =>
    refine ⟨_, rfl, advances_wholeEvent _ s fun s => ?_⟩
    repeat' split
    all_goals simp
  | upStrayFrame | order | requestInvalidCode =>
    exact ⟨_, rfl, advances_wholeEvent _ s (sameClock_receiveUp _)⟩
  | upDamageMarkTaken | editIdleTimerExpiry | emptyPassTimerExpiry | replyTimerExpiry
  | forwardIntervalExpiry | staleTimeExpiry | lineEdge | firstAcceptance | energyTick
  | qualifyTimerExpiry | startTimerExpiry | confirmTimerExpiry | stepTimerExpiry | delayTimerExpiry
  | autostart | filterSample | startCharacterReceived | shifterFinishesFrame =>
    exact ⟨_, rfl, advances_event _ s (by simp)⟩
  | _ => exact ⟨_, rfl, advances_request ..⟩

/-! ### Reached and expired -/

theorem reached_iff (now t : Time) : reached now t = true ↔ (now - t).toNat < 2 ^ 31 := by
  simp [reached]

theorem isRunning_iff (timer : Timer) :
    isRunning timer = true ↔ ∃ expiry, timer = .running expiry := by
  cases timer <;> simp [isRunning]

theorem expired_iff (now : Time) (timer : Timer) :
    expired now timer = true ↔
      ∃ expiry, timer = .running expiry ∧ (now - expiry).toNat < 2 ^ 31 := by
  cases timer <;> simp [expired, reached_iff]

/-! ### The obligation -/

/-- Settles O3: every row of the table opens its event and no operation of the event touches the clock but the resets
(`exec_clock`); reached and expired by the shapes of a timer. -/
theorem shelfTimeMoves : Obligations.ShelfTimeMoves := by
  refine ⟨fun c s t next => ?_, fun now t =>
    ⟨reached_iff now t, fun timer => ⟨isRunning_iff timer, expired_iff now timer⟩⟩⟩
  obtain ⟨_, done, shown, time⟩ := exec_clock c s
  cases done.symm.trans next
  exact ⟨shown, time.trans (by cases c <;> rfl)⟩

end Sys2Proof.Machine
end

section
/-! PROOF. How a request of the rack manager is answered (R165, R166): from the frame on a calm UP to the block that
decides it, and from a decision that leaves no reaction but its ANSWER to the arbiters that end the event. -/

namespace Sys2Proof.Machine

/-! ### The end of an event without reactions -/

/-- With no reaction left nothing is carried out. -/
theorem nextReaction_quiet {s : Shelf} (h : Quiet s) : nextReaction s = none := by
  obtain ⟨agenda, deferred, raised, admission⟩ := h
  simp [nextReaction, agenda, deferred, raised, admission]

theorem runReactions_quiet {s : Shelf} (h : Quiet s) (n : Nat) : runReactions n s = s := by
  cases n with
  | zero => rfl
  | succ n => simp [runReactions, nextReaction_quiet h]

theorem react_quiet {s : Shelf} (h : Quiet s) : react s = s := runReactions_quiet h _

theorem quiet_placeReplies (fs : List Frame) {s : Shelf} (h : Quiet s) : Quiet (placeReplies fs s) := by
  rw [placeReplies_eq]
  exact h

/-- An ANSWER that is owed is the one reaction of a quiet part. -/
theorem nextReaction_respond (code : Byte) (a : Answer) {s : Shelf} (h : Quiet s) :
    nextReaction (respond code a s) = some (placeReplies (answer code a.1 a.2) s) := by
  obtain ⟨agenda, -, raised, -⟩ := h
  cases s
  cases agenda
  cases raised
  rfl

/-- The ANSWER owed by a quiet part is placed, and nothing follows (R165, R166). -/
theorem react_respond (code : Byte) (a : Answer) {s : Shelf} (h : Quiet s) :
    react (respond code a s) = placeReplies (answer code a.1 a.2) s := by
  have first : ∀ n, runReactions (n + 1) (respond code a s) = placeReplies (answer code a.1 a.2) s := by
    intro n
    simp only [runReactions, nextReaction_respond code a h]
    exact runReactions_quiet (quiet_placeReplies _ h) n
  exact first 9999

/-- The Router has nothing to take from an empty receive queue. -/
theorem routeWaiting_nil {s : State} (h : s.engUp.rx = []) (n : Nat) : routeWaiting n s = s := by
  cases n with
  | zero => rfl
  | succ n => simp [routeWaiting, h]

/-- What is taken for UP leaves its Port Engine. -/
theorem chooseUp_engUp {f : TxFrame} {s t : Shelf} (h : chooseUp s = some (f, t)) :
    t.engUp = s.engUp := by
  have telemetry : takeTelemetry s = some (f, t) → t.engUp = s.engUp := by
    unfold takeTelemetry
    split
    · rintro ⟨⟩
      rfl
    · nofun
  unfold chooseUp at h
  split at h
  · exact telemetry h
  · split at h
    · cases h
      rfl
    · cases h
      rfl
    · exact telemetry h

/-- The upstream arbiter leaves the receive queue. -/
@[simp] theorem arbitrateUp_rx (s : Shelf) : (arbitrateUp s).engUp.rx = s.engUp.rx := by
  unfold arbitrateUp
  split
  · split
    case h_1 f t chosen =>
      rw [← chooseUp_engUp chosen]
      unfold moveToShifter
      split <;> rfl
    case h_2 => rfl
  · rfl

/-- With nothing in the UP receive queue an event ends with its reactions and then the arbiters. -/
theorem closing_empty {s : State} (h : (react s.toShelf).engUp.rx = []) :
    closing s = settled react s := by
  unfold closing
  rw [routeWaiting_nil (s := onShelf react s) h, routeWaiting_nil]
  · rfl
  · simpa using h

theorem closing_told (code status : Byte) (data : List Byte) {s : State} (h : Still s) :
    closing (told code status data s) = answered code status data s := by
  obtain ⟨quiet, rx⟩ := h
  have reacted := react_respond code (status, data) quiet
  have empty : (react (told code status data s).toShelf).engUp.rx = [] := by
    simpa [told, reacted] using rx
  rw [closing_empty empty]
  simp only [settled, told, answered, onShelf, reacted]

/-! ### From the frame to the decision -/

theorem still_heard (e : Ambient) {s : State} (h : Calm s) : Still (heard e s) :=
  ⟨h.2, h.1.2.1⟩

/-- A request that fits a frame reaches the Request Handler at once on a part whose Router is free. -/
theorem requestInvalid_handled (e : Ambient) {s : State} (h : Ready s) {payload : List Byte}
    (nonempty : payload ≠ []) (short : payload.length ≤ 60) :
    wholeEvent e (receiveUp ⟨0, kindRequest, payload⟩) s =
      closing (handleRequest payload (heard e s)) := by
  obtain ⟨enabled, rx, wait, restart⟩ := h
  have runs : (opening e s).engUp.enabled = true := enabled
  have valid : frameValid ⟨0, kindRequest, payload⟩ = true := by
    simp [frameValid, validKind, kindRequest, Config.maxPayload, short]
  have here : (heard e s).engUp.rx = [] ∧ routerFree (heard e s).toShelf = true :=
    ⟨rx, by simp [routerFree, heard, opening, onShelf, hunt, editEngine, setEngine, wait, restart]⟩
  have mine : isStrayUp ⟨0, kindRequest, payload⟩ = false := by
    simp [isStrayUp, kindRequest, kindOrder, nonempty]
  simp only [wholeEvent, receiveUp, runs, valid, if_true]
  change closing (arriveUp _ (heard e s)) = _
  rw [arriveUp, if_pos here, takeEntry, mine]
  rfl

theorem request_handled (e : Ambient) {s : State} (h : Ready s) (code : Byte) {args : List Byte}
    (short : args.length ≤ 59) :
    request e code args s = closing (handleRequest (code :: args) (heard e s)) :=
  requestInvalid_handled e h (by simp) (by simpa using Nat.lt_succ_of_le short)

/-- A known request with arguments of its length is decided by the block that owns the state (R166). -/
theorem request_dispatched (e : Ambient) {s : State} (h : Ready s) {code : Byte} {args : List Byte}
    (short : args.length ≤ 59) (fits : lengthFits code args.length = true) :
    request e code args s = closing (dispatch code args (heard e s)) := by
  rw [request_handled e h code short]
  exact congrArg closing (if_pos fits)

/-- A request whose decision owes an ANSWER and raises nothing else is answered so, and the event ends. -/
theorem request_answered (e : Ambient) {s t : State} (h : Ready s) {code status : Byte}
    {args data : List Byte} (short : args.length ≤ 59) (fits : lengthFits code args.length = true)
    (decided : dispatch code args (heard e s) = told code status data t) (still : Still t) :
    request e code args s = answered code status data t := by
  rw [request_dispatched e h short fits, decided, closing_told code status data still]

/-- A request that the blocks only answer. -/
theorem request_read (e : Ambient) {s : State} (h : Calm s) {code : Byte} {args : List Byte}
    (a : Shelf → Answer) (short : args.length ≤ 59) (fits : lengthFits code args.length = true)
    (decided : ∀ x, dispatch code args x = answerWith code a x) :
    request e code args s =
      answered code (a (heard e s).toShelf).1 (a (heard e s).toShelf).2 (heard e s) :=
  request_answered e h.1 short fits (decided _) (still_heard e h)

/-- A request that the store only answers. -/
theorem request_readStore (e : Ambient) {s : State} (h : Calm s) {code : Byte} {args : List Byte}
    (a : State → Answer) (short : args.length ≤ 59) (fits : lengthFits code args.length = true)
    (decided : ∀ x, dispatch code args x = storeAnswer code a x) :
    request e code args s = answered code (a (heard e s)).1 (a (heard e s)).2 (heard e s) :=
  request_answered e h.1 short fits (decided _) (still_heard e h)

/-! ### What the end of such an event touches -/

theorem LinksOnly.trans {a b c : Shelf} (h : LinksOnly a b) (k : LinksOnly b c) : LinksOnly a c := by
  unfold LinksOnly at h k ⊢
  rw [k, h]

theorem linksOnly_heard (e : Ambient) (s : State) : LinksOnly s.toShelf (heard e s).toShelf := rfl

theorem linksOnly_placeReplies (fs : List Frame) (s : Shelf) : LinksOnly s (placeReplies fs s) := by
  unfold LinksOnly
  rw [placeReplies_eq]

theorem linksOnly_chooseUp {f : TxFrame} {s t : Shelf} (h : chooseUp s = some (f, t)) : LinksOnly s t := by
  have telemetry : takeTelemetry s = some (f, t) → LinksOnly s t := by
    unfold takeTelemetry
    split
    · rintro ⟨⟩
      rfl
    · nofun
  unfold chooseUp at h
  split at h
  · exact telemetry h
  · split at h
    · cases h
      rfl
    · cases h
      rfl
    · exact telemetry h

theorem linksOnly_arbitrateUp (s : Shelf) : LinksOnly s (arbitrateUp s) := by
  unfold arbitrateUp
  split
  · split
    case h_1 f t chosen => exact (linksOnly_chooseUp chosen).trans rfl
    case h_2 => rfl
  · rfl

theorem linksOnly_setEngine (p : Port) (e : PortEngine) (s : Shelf) : LinksOnly s (setEngine p e s) := by
  cases p <;> rfl

theorem linksOnly_setPoll (p : Port) (e : PollEngine) (s : Shelf) : LinksOnly s (setPoll p e s) := by
  cases p <;> rfl

theorem linksOnly_beginTx (p : Port) (tx : Transaction) (f : Frame) (s : Shelf) :
    LinksOnly s (beginTx p tx f s) :=
  (linksOnly_setPoll p _ s).trans (linksOnly_setEngine p _ _)

theorem linksOnly_tryPoll (p : Port) (s : Shelf) : LinksOnly s (tryPoll p s).2 := by
  unfold tryPoll
  split
  · dsimp only
    split
    · exact (linksOnly_setPoll p _ s).trans (linksOnly_beginTx p _ _ _)
    · exact linksOnly_setPoll p _ s
  · rfl

theorem linksOnly_arbitrateOrders (p : Port) (s : Shelf) : LinksOnly s (arbitrateOrders p s) := by
  unfold arbitrateOrders
  dsimp only
  split
  · exact (linksOnly_setPoll p _ s).trans (linksOnly_beginTx p _ _ _)
  · exact ((linksOnly_setPoll p _ s).trans (linksOnly_setPoll p _ _)).trans (linksOnly_beginTx p _ _ _)
  · exact (linksOnly_setPoll p _ s).trans (linksOnly_beginTx p _ _ _)
  · exact linksOnly_tryPoll p s

theorem linksOnly_arbitrate (p : Port) (s : Shelf) : LinksOnly s (arbitrate p s) := by
  unfold arbitrate
  dsimp only
  split
  · split
    · split
      case h_1 t polled => simpa [polled] using linksOnly_tryPoll p s
      case h_2 t polled =>
        have tried : LinksOnly s t := by simpa [polled] using linksOnly_tryPoll p s
        exact tried.trans (linksOnly_arbitrateOrders p t)
    · exact linksOnly_arbitrateOrders p s
  · rfl

/-- The arbiters change nothing but what is on its way to the outside (R146, R162, R167). -/
theorem linksOnly_sendOff (s : Shelf) : LinksOnly s (sendOff s) :=
  ((linksOnly_arbitrateUp s).trans (linksOnly_arbitrate .sp _)).trans (linksOnly_arbitrate .tp _)

theorem linksOnly_answered (code status : Byte) (data : List Byte) (s : State) :
    LinksOnly s.toShelf (answered code status data s).toShelf :=
  (linksOnly_placeReplies _ s.toShelf).trans (linksOnly_sendOff _)

end Sys2Proof.Machine
end

section
/-! PROOF. The requests that only read (R24, R41, R61, R84, R107, R121, R134, R155, R173, R183). -/

namespace Sys2Proof.Machine

/-- The answer that a request only reads, over the state in which it acts. -/
def readReply (code : Byte) (a : Shelf → Answer) (e : Ambient) (s : State) :
    Host.Outcome State Fault Refusal :=
  let h := heard e s
  .next (answered code (a h.toShelf).1 (a h.toShelf).2 h)

section Rows

variable (e : Ambient) {s : State} (h : Calm s)

include h

theorem exec_readTable (t f n : Byte) :
    exec (.readTable e t f n) s = readReply rqReadTable (readTable t.toNat f.toNat n.toNat) e s :=
  congrArg Host.Outcome.next (request_read e h (readTable t.toNat f.toNat n.toNat) (by simp) rfl fun _ => rfl)

theorem exec_readSignal (f n : Byte) :
    exec (.readSignal e f n) s = readReply rqReadSignal (readSignal f.toNat n.toNat) e s :=
  congrArg Host.Outcome.next (request_read e h (readSignal f.toNat n.toNat) (by simp) rfl fun _ => rfl)

theorem exec_readBalance :
    exec (.readBalance e) s = readReply rqReadBalance (fun x => (stDone, balanceData x)) e s :=
  congrArg Host.Outcome.next (request_read e h (fun x => (stDone, balanceData x)) (by simp) rfl fun _ => rfl)

theorem exec_readModule (k i : Byte) :
    exec (.readModule e k i) s = readReply rqReadModule (readModule k.toNat i.toNat) e s :=
  congrArg Host.Outcome.next (request_read e h (readModule k.toNat i.toNat) (by simp) rfl fun _ => rfl)

theorem exec_readRide :
    exec (.readRide e) s = readReply rqReadRide (fun x => (stDone, rideData x)) e s :=
  congrArg Host.Outcome.next (request_read e h (fun x => (stDone, rideData x)) (by simp) rfl fun _ => rfl)

theorem exec_readTray (f n : Byte) :
    exec (.readTray e f n) s = readReply rqReadTray (readTray f.toNat n.toNat) e s :=
  congrArg Host.Outcome.next (request_read e h (readTray f.toNat n.toNat) (by simp) rfl fun _ => rfl)

theorem exec_readQueue :
    exec (.readQueue e) s = readReply rqReadQueue (fun x => (stDone, queueData x)) e s :=
  congrArg Host.Outcome.next (request_read e h (fun x => (stDone, queueData x)) (by simp) rfl fun _ => rfl)

theorem exec_readProgram :
    exec (.readProgram e) s = readReply rqReadProgram (fun x => (stDone, programData x)) e s :=
  congrArg Host.Outcome.next (request_read e h (fun x => (stDone, programData x)) (by simp) rfl fun _ => rfl)

theorem exec_readZone (z : Byte) :
    exec (.readZone e z) s = readReply rqReadZone (readZone z.toNat) e s :=
  congrArg Host.Outcome.next (request_read e h (readZone z.toNat) (by simp) rfl fun _ => rfl)

theorem exec_readPoll (p f n : Byte) :
    exec (.readPoll e p f n) s = readReply rqReadPoll (readPoll p.toNat f.toNat n.toNat) e s :=
  congrArg Host.Outcome.next (request_read e h (readPoll p.toNat f.toNat n.toNat) (by simp) rfl fun _ => rfl)

theorem exec_storeRead (row page : Byte) :
    exec (.storeRead e row page) s =
      readReply rqStoreRead (fun _ => storeRead row.toNat page.toNat (heard e s)) e s :=
  congrArg Host.Outcome.next
    (request_readStore e h (storeRead row.toNat page.toNat) (by simp) rfl fun _ => rfl)

end Rows

/-- A request that only reads is answered, and nothing else follows. -/
theorem exec_onlyReads {c : Instr} {s : State} (reads : onlyReads c = true) (h : Calm s) :
    ∃ code a, exec c s = readReply code a (ambientOf c) s := by
  cases c with
  | readTable e t f n => exact ⟨_, _, exec_readTable e h t f n⟩
  | readSignal e f n => exact ⟨_, _, exec_readSignal e h f n⟩
  | readBalance e => exact ⟨_, _, exec_readBalance e h⟩
  | readModule e k i => exact ⟨_, _, exec_readModule e h k i⟩
  | readRide e => exact ⟨_, _, exec_readRide e h⟩
  | readTray e f n => exact ⟨_, _, exec_readTray e h f n⟩
  | readQueue e => exact ⟨_, _, exec_readQueue e h⟩
  | readProgram e => exact ⟨_, _, exec_readProgram e h⟩
  | readZone e z => exact ⟨_, _, exec_readZone e h z⟩
  | readPoll e p f n => exact ⟨_, _, exec_readPoll e h p f n⟩
  | storeRead e row page => exact ⟨_, _, exec_storeRead e h row page⟩
  | _ => nomatch reads

/-- Settles O5: the event of such a request is its ANSWER and the arbiters (`exec_onlyReads`), and these change only
what is on its way out (`linksOnly_answered`). -/
theorem readsChangeNothing : Obligations.ReadsChangeNothing := by
  intro c s t reads calm next
  obtain ⟨code, a, read⟩ := exec_onlyReads reads calm
  cases read.symm.trans next
  exact ⟨(linksOnly_heard _ s).trans (linksOnly_answered _ _ _ _), rfl, rfl⟩

end Sys2Proof.Machine
end

section
/-! PROOF. The items of the read answers, and the answers in and out of range (R8, R24, R41, R61, R84, R107, R121, R134,
R155, R166, R169, R173, R183). -/

namespace Sys2Proof.Machine

/-! ### Lists, items and sets (R163) -/

theorem beList_map {α : Type} (l : List α) (f : α → List Byte) :
    beList (l.map f) = be8 l.length ++ l.flatMap f := by simp [beList, List.flatMap]

theorem be8_flag (b : Bool) : be8 (if b then 1 else 0) = beFlag b := by cases b <;> rfl

theorem be8_portState (b : Bool) : be8 (portStateNumber b) = beFlag b := be8_flag b

theorem testBit_bitSet (items : List Nat) (i : Nat) : (bitSet items).testBit i = true ↔ i ∈ items := by
  have step : ∀ (l : List Nat) (a : Nat),
      (l.foldl (fun a i => a ||| 2 ^ i) a).testBit i = true ↔ a.testBit i = true ∨ i ∈ l := by
    intro l
    induction l with
    | nil => simp
    | cons j l ih =>
      intro a
      rw [List.foldl_cons, ih]
      rw [Nat.testBit_or, Bool.or_eq_true, Nat.testBit_two_pow, decide_eq_true_eq, or_assoc,
        List.mem_cons, eq_comm (a := i)]
  simp [bitSet, step]

/-! ### What each answer carries -/

theorem beTimer_eq (timer : Timer) : beTimer timer =
    match timer with
    | .stopped => [0, 0, 0, 0, 0]
    | .running expiry => be8 1 ++ beTime expiry
    | .frozen left => be8 2 ++ beTime left := by
  cases timer <;> rfl

theorem mem_traysIn {x : Shelf} {st : TrayState} {t : Nat} :
    t ∈ traysIn x st ↔ t < 24 ∧ (trayAt x t).isSome = true ∧ trayState x t = st := by
  simp only [traysIn, traysInUse, Config.trayCount, List.mem_filter, List.mem_range, decide_eq_true_eq,
    and_assoc]

theorem traysIn_eq (x : Shelf) (st : TrayState) :
    traysIn x st = (List.range 24).filter fun t => (trayAt x t).isSome && trayState x t = st := by
  unfold traysIn traysInUse
  rw [List.filter_filter]
  exact List.filter_congr fun t _ => Bool.and_comm _ _

theorem adoptionComplete_eq (x : Shelf) :
    adoptionComplete x =
      !(List.range 24).any fun t => (trayAt x t).isSome && trayState x t = .unknown := by
  unfold adoptionComplete
  rw [traysIn_eq, Bool.eq_iff_iff]
  simp

theorem queueData_eq (x : Shelf) :
    let starting := (List.range 24).filter fun t => (trayAt x t).isSome && trayState x t = .starting
    let adopting := (List.range 24).any fun t => (trayAt x t).isSome && trayState x t = .unknown
    queueData x =
      be8 x.bay.queue.length ++ x.bay.queue.flatMap be8 ++ be16 (headNeed x) ++
        be8 starting.length ++ be8 (policy x).startWindow ++ beFlag (!adopting) ++
        beFlag x.shelfStop := by
  simp only [queueData, beList_map, traysIn_eq, adoptionComplete_eq]

theorem qualifyData_eq (q : Option Time) :
    qualifyData q = match q with
      | some start => be8 1 ++ beTime start
      | none => [0, 0, 0, 0, 0] := by
  cases q <;> rfl

theorem trayData_unused {x : Shelf} {t : Nat} (h : trayAt x t = none) : trayData x t = [0] := by
  simp [trayData, h, beItem]

theorem trayData_used {x : Shelf} {t : Nat} (h : (trayAt x t).isSome) :
    let r := vget x.bay.trays t
    trayData x t =
      be8 1 ++ be8 (trayStateNumber r.state) ++ beOpt8 (r.fault.map trayFaultNumber) ++
        be8 (seenNumber r.seen) ++ be8 (awaitedNumber r.awaited) ++ beTimer r.startTimer ++
        beTime r.enableTime ++ beTime r.duration ++ beOpt8 (r.queuedBy.map queuedByNumber) ++
        beTime r.stateTime ++ beOpt8 (trayPlace x t) := by
  unfold trayData
  dsimp only
  rw [if_pos h]
  rfl

theorem outcomeData_eq (o : RunOutcome) :
    outcomeData o = match o with
      | .ended step => be8 0 ++ be8 step
      | .halted cause step => be8 1 ++ be8 (haltCauseNumber cause) ++ be8 step := by
  cases o <;> rfl

theorem pointerData_none {x : Shelf} (h : x.seq.pointer.bind (stepAt x) = none) : pointerData x = [] := by
  simp [pointerData, h]

/-- The trays that a step's set holds and that are in use and QUEUED or STARTING. -/
def awaitedTrays (x : Shelf) (set : Nat) : List Nat :=
  (traysOfSet set).filter fun t =>
    (trayAt x t).isSome && (trayState x t = .queued || trayState x t = .starting)

theorem mem_awaitedTrays {x : Shelf} {set t : Nat} :
    t ∈ awaitedTrays x set ↔ t < 24 ∧ set.testBit t = true ∧ (trayAt x t).isSome = true ∧
      (trayState x t = .queued ∨ trayState x t = .starting) := by
  simp only [awaitedTrays, traysOfSet, Config.trayCount, List.mem_filter, List.mem_range, and_assoc,
    Bool.and_eq_true, Bool.or_eq_true, decide_eq_true_eq]

theorem pointerData_some {x : Shelf} {e : StepEntry} (h : x.seq.pointer.bind (stepAt x) = some e) :
    pointerData x = be8 (stepKinds.idxOf e.kind) ++
      if e.kind = .awaitTrays then be24 (bitSet (awaitedTrays x e.traySet)) else [] := by
  unfold pointerData
  rw [h]
  rfl

theorem pointData_eq (entry : ZoneEntry) (r : Zone) :
    pointData entry r =
      be8 (min entry.points.length r.points.length) ++
        (entry.points.zip r.points).flatMap fun p =>
          (match p.1 with
            | .signal n => be8 0 ++ be8 n
            | .line l => be8 1 ++ be8 l) ++ be8 (pointStateNumber p.2) := by
  have zipped : List.zipWith (fun p st => bePoint p ++ be8 (pointStateNumber st)) entry.points r.points =
      (entry.points.zip r.points).map fun p => bePoint p.1 ++ be8 (pointStateNumber p.2) :=
    by rw [List.zip, List.map_zipWith]
  rw [pointData, zipped, beList_map, List.length_zip]
  congr 2

/-- A queue's head: its address and code, or none (R155). -/
def headData : Option (Byte × Byte) → List Byte
  | some h => [1, h.1, h.2]
  | none => [0]

theorem beItem_head {α : Type} (address code : α → Byte) (o : Option α) :
    beItem (o.map fun a => [address a, code a]) = headData (o.map fun a => (address a, code a)) := by
  cases o <;> rfl

theorem pollBase_eq (p : Port) : pollBase p = if p = .tp then 32 else 0 := by cases p <;> rfl

theorem rideData_eq (x : Shelf) :
    let r := x.ride
    rideData x =
      be8 (rideStateNumber r.state) ++ be32 r.eRem ++ be8 r.r ++ be32 r.eCap ++ be32 r.eAnchor ++
        be32 r.eUse ++ be32 r.dProj ++ be32 r.bMax ++ be16 r.t ++
        (match r.qualify with
          | some start => be8 1 ++ beTime start
          | none => [0, 0, 0, 0, 0]) ++ beFlag r.tick.isSome ++
        be8 x.bay.stack.length ++ x.bay.stack.flatMap be8 ++ beItem (r.closedSummary.map summaryData) ++
        beItem (r.openSummary.map summaryData) := by
  simp only [rideData, be8_flag, beList_map, qualifyData_eq, List.append_assoc]

/-- A program record without the step at its pointer (R121). -/
def programRecord (q : Sequencer) : List Byte :=
  be8 (seqStateNumber q.state) ++ beOpt8 q.pointer ++ beOpt8 q.entry ++
    beOpt8 (q.origin.map originNumber) ++ be8 q.runCount ++ be16 q.stepsTaken ++ beTimer q.stepTimer ++
    beTimer q.delayTimer ++ beItem (q.outcome.map outcomeData) ++ beFlag q.autostart.isSome

theorem programData_eq (x : Shelf) : programData x = programRecord x.seq ++ pointerData x := rfl

theorem zoneData_eq (x : Shelf) (z : Nat) (entry : ZoneEntry) :
    let r := vget x.zones z
    zoneData x z entry =
      (encodeZone entry).drop 1 ++ be8 (zoneStateNumber r.state) ++ be8 r.wet ++ be8 r.unknown ++
        be8 r.epoch.toNat ++ be8 (min entry.points.length r.points.length) ++
        ((entry.points.zip r.points).flatMap fun p =>
          (match p.1 with
            | .signal n => be8 0 ++ be8 n
            | .line l => be8 1 ++ be8 l) ++ be8 (pointStateNumber p.2)) ++
        beTimer r.timer ++ beTime r.firstWet ++ beTime r.latch ++ be8 (zoneTrays x z).length ++
        (zoneTrays x z).flatMap fun t => be8 t ++ be8 (trayStateNumber (trayState x t)) := by
  simp only [zoneData, pointData_eq, beList_map, List.append_assoc]

/-- The latched record of an entry, where the window is open on its table (R173, R174). -/
def heldAt (x : Shelf) (t i : Nat) : Option Record :=
  match x.window with
  | some w => if w.table = t then latchedAt w i else none
  | none => none

/-- The latched mask of a range (R173). -/
def heldMask (x : Shelf) (t first count : Nat) : Nat :=
  bitSet ((List.range count).filter fun j => (heldAt x t (first + j)).isSome)

theorem testBit_heldMask (x : Shelf) (t first count j : Nat) :
    (heldMask x t first count).testBit j = true ↔ j < count ∧ (heldAt x t (first + j)).isSome = true := by
  rw [heldMask, testBit_bitSet, List.mem_filter, List.mem_range]

theorem readRange_eq (x : Shelf) (t first count : Nat) :
    readRange x t first count =
      be8 t ++ be8 first ++ be8 count ++ be8 (heldMask x t first count) ++
        ((List.range count).flatMap fun j =>
          (heldAt x t (first + j)).getD (recordAt x t (first + j))) := by
  have records : ∀ f : Nat → Record,
      (((List.range count).map fun j => first + j).map f).flatten =
        (List.range count).flatMap fun j => f (first + j) := fun f => by rw [List.map_map]; rfl
  exact congrArg (be8 t ++ be8 first ++ be8 count ++ be8 (heldMask x t first count) ++ ·)
    (records fun i => (heldAt x t i).getD (recordAt x t i))

/-! ### In and out of range -/

theorem rangeOk_iff {first count most size : Nat} :
    rangeOk first count most size = true ↔ 1 ≤ count ∧ count ≤ most ∧ first + count ≤ size := by
  simp [rangeOk, and_assoc]

theorem rangeIn_iff {table first count most : Nat} :
    rangeIn table first count most = true ↔
      table ≤ 12 ∧ 1 ≤ count ∧ count ≤ most ∧ first + count ≤ tableSize table := by
  simp [rangeIn, and_assoc]

theorem named_portNumber (p : Port) : named ports (portNumber p) = some p := by cases p <;> rfl

theorem named_ports_isNone {n : Nat} (h : 2 < n) : named ports n = none :=
  List.getElem?_eq_none (Nat.succ_le_of_lt h)

theorem readModule_psm {i : Nat} {x : Shelf} (low : i ≤ 5) (entry : (psmAt x i).isSome) :
    readModule 0 i x = (stDone, psmData x i) := by
  simp [readModule, Nat.not_lt.mpr low, entry]

theorem readModule_bbm {i : Nat} {x : Shelf} (low : i ≤ 5) (entry : (bbmAt x i).isSome) :
    readModule 1 i x = (stDone, bbmData x i) := by
  simp [readModule, Nat.not_lt.mpr low, entry]

theorem readZone_inUse {z : Nat} {x : Shelf} {entry : ZoneEntry} (low : z ≤ 7)
    (found : zoneAt x z = some entry) : readZone z x = (stDone, zoneData x z entry) := by
  simp [readZone, Nat.not_lt.mpr low, found]

theorem readPoll_inRange {p : Port} {first count : Nat} {x : Shelf} (down : p ≠ .up)
    (range : 1 ≤ count ∧ count ≤ 8 ∧ first + count ≤ 32) :
    readPoll (portNumber p) first count x = (stDone, pollData x p first count) := by
  simp only [readPoll, named_portNumber]
  exact if_pos ⟨down, rangeOk_iff.mpr range⟩

theorem storeRead_idle {row page : Nat} {s : State} (low : row ≤ 63) (high : page ≤ 7)
    (op : s.store.op = none) :
    storeRead row page s =
      (stDone, readPage s.store.cells row page ++
        [BitVec.ofNat 8 (pageStateNumber (pageState s.store row page)),
          BitVec.ofNat 8 (vget s.store.counts row)]) := by
  simp [storeRead, Nat.not_lt.mpr low, Nat.not_lt.mpr high, op, be8]

theorem toNat_portNumber (p : Port) : (BitVec.ofNat 8 (portNumber p)).toNat = portNumber p := by
  cases p <;> rfl

end Sys2Proof.Machine
end

section
/-! PROOF. The read requests in their range are answered with their items. -/

namespace Sys2Proof.Machine

/-- READ-PROGRAM (R121): the step at the pointer, and the trays an AWAIT-TRAYS step still waits for. -/
theorem programData_pointer {x : Shelf} {n : Nat} {step : StepEntry} (pointer : x.seq.pointer = some n)
    (entry : stepAt x n = some step) :
    (step.kind ≠ .awaitTrays →
      programData x = programRecord x.seq ++ be8 (stepKinds.idxOf step.kind)) ∧
    (step.kind = .awaitTrays → ∃ waits : Nat,
      programData x = programRecord x.seq ++ be8 1 ++ be24 waits ∧
      ∀ t, waits.testBit t = true ↔ t < 24 ∧ step.traySet.testBit t = true ∧
        (trayAt x t).isSome = true ∧ (trayState x t = .queued ∨ trayState x t = .starting)) := by
  have found : x.seq.pointer.bind (stepAt x) = some step := by rw [pointer]; exact entry
  constructor
  · intro kind
    rw [programData_eq, pointerData_some found, if_neg kind, List.append_nil]
  · intro kind
    refine ⟨bitSet (awaitedTrays x step.traySet), ?_, fun t => by rw [testBit_bitSet, mem_awaitedTrays]⟩
    rw [programData_eq, pointerData_some found, if_pos kind, kind, List.append_assoc]
    rfl

theorem pollData_eq (x : Shelf) (p : Port) (first count : Nat) :
    let g := engine x p
    let e := pollEngine x p
    pollData x p first count =
      beFlag g.enabled ++ be8 g.settings.replyTimeout ++ be8 e.position ++ be8 e.pass ++
        be8 e.nonPollRun ++ beTimer e.emptyTimer ++ beItem (e.inFlight.map flightData) ++
        beItem (e.inProgress.map progressData) ++
        be8 e.control.length ++ headData (e.control.head?.map fun o => (o.address, o.code)) ++
        be8 e.command.length ++ headData (e.command.head?.map fun o => (o.address, o.code)) ++
        be16 g.stray ++ (List.range count).flatMap fun j => positionData x p (first + j) := by
  rw [pollData, beItem_head ControlOrder.address ControlOrder.code,
    beItem_head RelayedOrder.address RelayedOrder.code, be8_portState]
  rfl

/-- A poll list's position lies in its port's half of the table (R140). -/
theorem positionData_eq (x : Shelf) (p : Port) (i : Nat) :
    let r := field8 (recordAt x 3 ((if p = .tp then 32 else 0) + i)) 1
    let module := (rosterAt x r).map fun _ => vget x.modules r
    positionData x p i =
      beFlag (pollAt x p i).isSome ++ be8 r ++
        beOpt8 (module.map fun m => presenceNumber m.presence) ++ beOpt8 (module.map (·.misses)) := by
  rw [← pollBase_eq]
  rfl

/-- What a request that only reads is answered, once its decision is known. -/
theorem readReply_given {code : Byte} {a : Shelf → Answer} {e : Ambient} {s : State} {status : Byte}
    {data : List Byte} (given : a (heard e s).toShelf = (status, data)) :
    readReply code a e s = .next (answered code status data (heard e s)) := by
  simp only [readReply, given]

/-- Settles O21: the items of each record as its layout lists them, and each request by its row (`exec_readSignal` and
the others) and its range. -/
theorem readsAnswer : Obligations.ReadsAnswer := by
  refine ⟨fun x i => ⟨rfl, rfl, rfl⟩, beTimer_eq, rideData_eq,
    fun x t => ⟨trayData_unused, fun used => ⟨trayPlace x t, trayData_used used, ?_⟩⟩, queueData_eq,
    fun x => ⟨fun none => ?_, fun n step pointer entry => programData_pointer pointer entry⟩, zoneData_eq,
    fun x p first count => ?_, fun x t first count _ =>
      ⟨_, readRange_eq x t first count, testBit_heldMask x t first count⟩, fun e s calm => ?_⟩
  · exact ⟨fun q => if_pos q, fun q k => by simp [trayPlace, q, k], fun q k => by simp [trayPlace, q, k]⟩
  · exact (programData_eq x).trans (by rw [pointerData_none none, List.append_nil]; rfl)
  · have positions : positionData x p = _ := funext (positionData_eq x p)
    refine (pollData_eq x p first count).trans ?_
    rw [positions]
    rfl
  · refine ⟨exec_readBalance e calm, exec_readRide e calm, exec_readQueue e calm,
      exec_readProgram e calm, fun i low entry => ?_, fun i low entry => ?_, fun z entry low found => ?_,
      fun f n one most fits => ?_, fun f n one most fits => ?_, fun p f n down one most fits => ?_,
      fun t f n table one most fits => ?_, fun row page low high op => ?_⟩
    · exact (exec_readModule e calm 0 i).trans (readReply_given (readModule_psm low entry))
    · exact (exec_readModule e calm 1 i).trans (readReply_given (readModule_bbm low entry))
    · exact (exec_readZone e calm z).trans (readReply_given (readZone_inUse low found))
    · exact (exec_readSignal e calm f n).trans
        (readReply_given (if_pos (rangeOk_iff.mpr ⟨one, most, fits⟩)))
    · exact (exec_readTray e calm f n).trans
        (readReply_given (if_pos (rangeOk_iff.mpr ⟨one, most, fits⟩)))
    · refine (exec_readPoll e calm _ f n).trans (readReply_given ?_)
      rw [toNat_portNumber]
      exact readPoll_inRange down ⟨one, most, fits⟩
    · exact (exec_readTable e calm t f n).trans
        (readReply_given (if_pos (rangeIn_iff.mpr ⟨table, one, most, fits⟩)))
    · exact (exec_storeRead e calm row page).trans (readReply_given (storeRead_idle low high op))

end Sys2Proof.Machine
end

section
/-! PROOF. The requests that are refused, and the two reads that clear their marks. -/

namespace Sys2Proof.Machine

/-! ### Argument lengths (R166) -/

/-- The request codes with their argument lengths; EDIT-WRITE takes at least its entry (log entry 29). -/
theorem lengthFits_iff (code : Byte) (n : Nat) :
    lengthFits code n = true ↔ (code.toNat = 0x03 ∧ 1 ≤ n) ∨
      (code.toNat, n) ∈ [(0x01, 3), (0x02, 3), (0x04, 0), (0x05, 0), (0x10, 2), (0x11, 34), (0x12, 2),
        (0x13, 2), (0x18, 0), (0x20, 1), (0x21, 2), (0x28, 0), (0x30, 2), (0x38, 0), (0x40, 2),
        (0x41, 0), (0x42, 1), (0x48, 1), (0x49, 0), (0x4A, 0), (0x50, 1), (0x51, 2), (0x58, 3),
        (0x59, 1), (0x5A, 1), (0x5B, 1)] := by
  unfold lengthFits
  simp only [← BitVec.toNat_inj, rqReadTable, rqEditOpen, rqReadPoll, rqEditWrite, rqEditApply,
    rqEditDiscard, rqRestart, rqReadBalance, rqReadRide, rqReadQueue, rqAbortProgram, rqReadProgram,
    rqStoreWrite, rqStoreErase, rqStoreVerify, rqStoreRead, rqReadSignal, rqReadModule, rqReadTray,
    rqClearZone, rqReadLine, rqClearTray, rqRunProgram, rqReadZone, rqPortEnable, rqPortDisable,
    rqReadPort, BitVec.reduceToNat, List.mem_cons, List.not_mem_nil, Prod.mk.injEq, or_false]
  generalize code.toNat = c
  split_ifs with three edit none write two one
  · rcases three with rfl | rfl | rfl <;> simp
  · subst edit
    simp
  · rcases none with rfl | rfl | rfl | rfl | rfl | rfl | rfl | rfl <;> simp
  · subst write
    simp
  · rcases two with rfl | rfl | rfl | rfl | rfl | rfl | rfl <;> simp
  · rcases one with rfl | rfl | rfl | rfl | rfl | rfl | rfl <;> simp
  · simp only [not_or] at three none two one
    simp [three, edit, none, write, two, one]

theorem invalidRequest_iff (payload : List Byte) : invalidRequest payload = true ↔
    payload ≠ [] ∧ payload.length ≤ 60 ∧ lengthFits (payload.headD 0) (payload.length - 1) = false := by
  simp only [invalidRequest, Bool.and_eq_true, Bool.not_eq_true', decide_eq_true_eq, List.length_tail,
    and_assoc]
  rfl

/-- A REQUEST with an unknown code or a wrong argument length is INVALID, undispatched (R166). -/
theorem exec_requestInvalidCode (e : Ambient) {s : State} (h : Calm s) {payload : List Byte}
    (invalid : invalidRequest payload = true) :
    exec (.requestInvalidCode e payload) s =
      .next (answered (payload.headD 0) stInvalid [] (heard e s)) := by
  obtain ⟨nonempty, short, misfit⟩ := (invalidRequest_iff payload).mp invalid
  have undispatched : handleRequest payload (heard e s) =
      told (payload.headD 0) stInvalid [] (heard e s) :=
    if_neg (by rw [List.length_tail, misfit]; nofun)
  refine congrArg Host.Outcome.next ((requestInvalid_handled e h.1 nonempty short).trans ?_)
  rw [undispatched, closing_told _ _ _ (still_heard e h)]

/-! ### Reads out of range and of entries not in use -/

theorem rangeOk_outside {first count size : Nat} (h : count = 0 ∨ 8 < count ∨ size < first + count) :
    ¬rangeOk first count 8 size = true := by
  rw [rangeOk_iff]
  omega

theorem readModule_outside {k i : Nat} (h : 1 < k ∨ 5 < i) (x : Shelf) :
    readModule k i x = (stInvalid, []) := if_pos h

theorem readModule_noPsm {i : Nat} {x : Shelf} (low : i ≤ 5) (entry : psmAt x i = none) :
    readModule 0 i x = (stNoEntry, []) := by
  simp [readModule, Nat.not_lt.mpr low, entry]

theorem readModule_noBbm {i : Nat} {x : Shelf} (low : i ≤ 5) (entry : bbmAt x i = none) :
    readModule 1 i x = (stNoEntry, []) := by
  simp [readModule, Nat.not_lt.mpr low, entry]

theorem readZone_unused {z : Nat} {x : Shelf} (low : z ≤ 7) (found : zoneAt x z = none) :
    readZone z x = (stNoEntry, []) := by
  simp [readZone, Nat.not_lt.mpr low, found]

/-- READ-POLL takes SP and TP alone (R155). -/
theorem readPoll_outside {port first count : Nat}
    (h : port = 0 ∨ 2 < port ∨ count = 0 ∨ 8 < count ∨ 32 < first + count) (x : Shelf) :
    readPoll port first count x = (stInvalid, []) := by
  unfold readPoll
  split
  case h_1 p found =>
    refine if_neg fun ⟨down, range⟩ => ?_
    have known : port ≤ 2 := by
      by_contra beyond
      rw [named_ports_isNone (Nat.lt_of_not_le beyond)] at found
      nomatch found
    have notUp : port ≠ 0 := by
      rintro rfl
      exact down (Option.some.inj found).symm
    rw [rangeOk_iff] at range
    omega
  case h_2 => rfl

theorem storeRead_outside {row page : Nat} (h : 63 < row ∨ 7 < page) (s : State) :
    storeRead row page s = (stInvalid, []) := if_pos h

theorem storeRead_busy {row page : Nat} {s : State} (low : row ≤ 63) (high : page ≤ 7)
    (op : s.store.op.isSome) : storeRead row page s = (stBusy, []) := by
  simp [storeRead, Nat.not_lt.mpr low, Nat.not_lt.mpr high, op]

/-! ### READ-LINE and READ-PORT (R8, R169) -/

/-- A request that may change the blocks, and leaves them without a reaction. -/
theorem request_acted (e : Ambient) {s : State} (h : Calm s) {code status : Byte} {args data : List Byte}
    {f : Shelf → Answer × Shelf} {y : Shelf} (short : args.length ≤ 59)
    (fits : lengthFits code args.length = true)
    (decided : ∀ x, dispatch code args x = actAndTell code f x)
    (given : f (heard e s).toShelf = ((status, data), y)) (quiet : Quiet y) (rx : y.engUp.rx = []) :
    request e code args s = answered code status data (onShelf (fun _ => y) (heard e s)) := by
  refine request_answered e h.1 short fits ((decided _).trans ?_) ⟨quiet, rx⟩
  simp only [actAndTell, told, onShelf, given]

/-- Clearing a port's OVERRUN mark leaves its receive queue and the reactions. -/
theorem still_editOverrun (p : Port) {s : State} (h : Still s) :
    Still (onShelf (editEngine p fun g => { g with overrun := false }) s) := by
  cases p <;> exact h

section Rows

variable (e : Ambient) {s : State} (h : Calm s)

include h

theorem exec_readLine_sense (l : Byte) (low : l.toNat < 16) :
    exec (.readLine e l) s =
      .next (answered rqReadLine stDone (senseData (heard e s).toShelf l.toNat)
        (onShelf (clearCapture l.toNat) (heard e s))) :=
  congrArg Host.Outcome.next
    (request_acted e h (f := readLine l.toNat) (by simp) rfl (fun _ => rfl) (if_pos low)
      (still_heard e h).1 (still_heard e h).2)

/-- A drive line's entry, level and index are answered and nothing is cleared (R8). -/
theorem exec_readLine_drive (l : Byte) (low : 16 ≤ l.toNat) (high : l.toNat < 24) :
    exec (.readLine e l) s =
      .next (answered rqReadLine stDone (driveData (heard e s).toShelf (l.toNat - 16)) (heard e s)) :=
  congrArg Host.Outcome.next
    (request_acted e h (f := readLine l.toNat) (by simp) rfl (fun _ => rfl)
      ((if_neg (Nat.not_lt.mpr low)).trans (if_pos high)) (still_heard e h).1 (still_heard e h).2)

theorem exec_readLine_outside (l : Byte) (high : 23 < l.toNat) :
    exec (.readLine e l) s = .next (answered rqReadLine stInvalid [] (heard e s)) :=
  congrArg Host.Outcome.next
    (request_acted e h (f := readLine l.toNat) (by simp) rfl (fun _ => rfl)
      ((if_neg (show ¬l.toNat < 16 by omega)).trans (if_neg (show ¬l.toNat < 24 by omega)))
      (still_heard e h).1 (still_heard e h).2)

theorem exec_readPort (p : Port) :
    exec (.readPort e (BitVec.ofNat 8 (portNumber p))) s =
      .next (answered rqReadPort stDone (portData (heard e s).toShelf p)
        (onShelf (editEngine p fun g => { g with overrun := false }) (heard e s))) := by
  have read : readPort (BitVec.ofNat 8 (portNumber p)).toNat (heard e s).toShelf =
      ((stDone, portData (heard e s).toShelf p),
        editEngine p (fun g => { g with overrun := false }) (heard e s).toShelf) := by
    rw [toNat_portNumber, readPort, named_portNumber]
  have still := still_editOverrun p (still_heard e h)
  exact congrArg Host.Outcome.next
    (request_acted e h (f := readPort (BitVec.ofNat 8 (portNumber p)).toNat) (by simp) rfl
      (fun _ => rfl) read still.1 still.2)

theorem exec_readPort_outside (p : Byte) (high : 2 < p.toNat) :
    exec (.readPort e p) s = .next (answered rqReadPort stInvalid [] (heard e s)) := by
  have read : readPort p.toNat (heard e s).toShelf = ((stInvalid, []), (heard e s).toShelf) := by
    rw [readPort, named_ports_isNone high]
  exact congrArg Host.Outcome.next
    (request_acted e h (f := readPort p.toNat) (by simp) rfl (fun _ => rfl) read (still_heard e h).1
      (still_heard e h).2)

end Rows

/-- Settles O22: each request by its row and the first test of its decision that fails. -/
theorem requestsRefused : Obligations.RequestsRefused := by
  refine ⟨fun payload => ?_, fun e s calm => ?_⟩
  · rw [invalidRequest_iff, ← Bool.not_eq_true, lengthFits_iff, not_or]
  · refine ⟨fun payload => exec_requestInvalidCode e calm, fun f n outside => ?_, fun f n outside => ?_,
      fun p f n outside => ?_, fun t f n outside => ?_, fun k i outside => ?_, fun i low entry => ?_,
      fun i low entry => ?_, fun z high => ?_, fun z low entry => ?_, exec_readLine_outside e calm,
      exec_readPort_outside e calm, fun row page outside => ?_, fun row page low high op => ?_⟩
    · exact (exec_readSignal e calm f n).trans (readReply_given (if_neg (rangeOk_outside outside)))
    · exact (exec_readTray e calm f n).trans (readReply_given (if_neg (rangeOk_outside outside)))
    · exact (exec_readPoll e calm p f n).trans (readReply_given (readPoll_outside outside _))
    · refine (exec_readTable e calm t f n).trans (readReply_given (if_neg ?_))
      rw [rangeIn_iff]
      omega
    · exact (exec_readModule e calm k i).trans (readReply_given (readModule_outside outside _))
    · exact (exec_readModule e calm 0 i).trans (readReply_given (readModule_noPsm low entry))
    · exact (exec_readModule e calm 1 i).trans (readReply_given (readModule_noBbm low entry))
    · exact (exec_readZone e calm z).trans (readReply_given (if_pos high))
    · exact (exec_readZone e calm z).trans (readReply_given (readZone_unused low entry))
    · exact (exec_storeRead e calm row page).trans (readReply_given (storeRead_outside outside _))
    · exact (exec_storeRead e calm row page).trans (readReply_given (storeRead_busy low high op))

theorem senseData_eq (x : Shelf) (l : Nat) :
    let r := vget x.lines l
    let active : Nat := if r.accepted = some (senseAt x l).active then 0 else 1
    senseData x l =
      encodeSense (senseAt x l) ++ be8 (levelNumber r.accepted) ++ be8 active ++
        be8 (edgeNumber r.capture.edge) ++ beTime r.capture.latest ++ beTime r.capture.previous ++
        beFlag r.capture.captured ++ beFlag r.capture.missed := by
  simp only [senseData, activeNumber, lineActive, decide_eq_true_eq]

/-- UP's answer alone carries the lengths of the upstream classes (R169). -/
theorem portData_eq (x : Shelf) (p : Port) :
    let g := engine x p
    portData x p =
      encodePort g.settings ++ recordAt x 1 (portNumber p) ++ beFlag g.enabled ++ be16 g.damaged ++
        be16 g.overruns ++ beFlag g.overrun ++ be8 g.rx.length ++ be16 g.stray ++
        if p = .up then upData x else [] := by
  simp only [portData, be8_portState]
  rfl

/-- Settles O23: the items as their layouts list them, and the two requests by their rows. -/
theorem readsThatClear : Obligations.ReadsThatClear := by
  refine ⟨senseData_eq, fun x d => rfl, fun x p => ⟨fun down => ?_, fun up => ?_⟩, fun e s calm =>
    ⟨exec_readLine_sense e calm, exec_readLine_drive e calm, exec_readPort e calm⟩⟩
  · refine (portData_eq x p).trans ?_
    rw [if_neg down, List.append_nil]
  · refine (portData_eq x p).trans ?_
    rw [if_pos up]
    simp only [upData, List.append_assoc]

end Sys2Proof.Machine
end

section
/-! PROOF. The bands of a signal: the raw band (R17), the candidate band with its hysteresis (R18), and agreement
(R19). -/

namespace Sys2Proof.Machine

/-! ### The raw band (R17) -/

theorem rawBand_critLow {l : LimitSet} {v : Nat} (h : v < l.cl) : rawBand l v = .critLow := if_pos h

theorem rawBand_not_critLow {l : LimitSet} {v : Nat} (h : ¬v < l.cl) :
    rawBand l v =
      if v < l.lw then .low else if l.ch < v then .critHigh else if l.hw < v then .high else .normal :=
  if_neg h

/-- Settles O43: the tests of R17 one after another; a threshold itself passes none that names it. -/
theorem rawBands : Obligations.RawBands := by
  refine ⟨fun l v => ⟨rawBand_critLow, fun c w => ?_, fun c w d => ?_, fun c w d e => ?_, fun c w d e => ?_,
    fun order low high => ⟨?_, ?_, fun apart => ?_, fun apart => ?_⟩⟩, rfl, fun b => ?_, fun b => ?_,
    fun a b => rfl⟩
  · rw [rawBand_not_critLow c, if_pos w]
  · rw [rawBand_not_critLow c, if_neg w, if_pos d]
  · rw [rawBand_not_critLow c, if_neg w, if_neg d, if_pos e]
  · rw [rawBand_not_critLow c, if_neg w, if_neg d, if_neg e]
  · rw [rawBand_not_critLow (by omega), if_neg (by omega), if_neg (by omega), if_neg (by omega)]
  · rw [rawBand_not_critLow (by omega), if_neg (by omega), if_neg (by omega), if_neg (by omega)]
  · rw [rawBand_not_critLow (by omega), if_pos apart]
  · rw [rawBand_not_critLow (by omega), if_neg (by omega), if_neg (by omega), if_pos apart]
  · cases b <;> decide
  · cases b <;> decide

/-! ### Hysteresis (R18) -/

/-- With its thresholds in order a value above the low side is in a band by the high thresholds. -/
theorem rawBand_of_ge {l : LimitSet} (legal : LimitsLegal l) {v : Nat} (h : l.lw ≤ v) :
    rawBand l v = if l.ch < v then .critHigh else if l.hw < v then .high else .normal := by
  obtain ⟨order, -⟩ := legal
  rw [rawBand_not_critLow (by omega), if_neg (by omega)]

/-- With its thresholds in order a value below the high side is in a band by the low thresholds. -/
theorem rawBand_of_le {l : LimitSet} (legal : LimitsLegal l) {v : Nat} (h : v ≤ l.hw) :
    rawBand l v = if v < l.cl then .critLow else if v < l.lw then .low else .normal := by
  obtain ⟨-, -, high, -⟩ := legal
  unfold rawBand
  rw [if_neg (show ¬l.ch < v by omega), if_neg (show ¬l.hw < v by omega)]

theorem lowSide_rawBand {l : LimitSet} (legal : LimitsLegal l) {v : Nat} :
    lowSide (rawBand l v) = false ↔ l.lw ≤ v := by
  obtain ⟨order, -⟩ := legal
  unfold rawBand
  split_ifs <;> simp [lowSide] <;> omega

theorem highSide_rawBand {l : LimitSet} (legal : LimitsLegal l) {v : Nat} :
    highSide (rawBand l v) = false ↔ v ≤ l.hw := by
  obtain ⟨order, middle, high, -⟩ := legal
  unfold rawBand
  split_ifs <;> simp [highSide] <;> omega

/-- A band at least as far from NORMAL as the current one is the candidate. -/
theorem candidateBand_outward {l : LimitSet} {current : Band} {v : Nat}
    (h : bandDistance current ≤ bandDistance (rawBand l v)) : candidateBand l current v = rawBand l v := by
  simp [candidateBand, Nat.not_lt.mpr h]

/-- A band on the other side is the candidate. -/
theorem candidateBand_across {l : LimitSet} {current : Band} {v : Nat}
    (h : highSide current = true ∧ lowSide (rawBand l v) = true ∨
      lowSide current = true ∧ highSide (rawBand l v) = true) :
    candidateBand l current v = rawBand l v := by
  have sides : ∀ b, highSide b = true → lowSide b = false := by intro b; cases b <;> decide
  have other : ∀ b, lowSide b = true → highSide b = false := by intro b; cases b <;> decide
  rcases h with ⟨c, r⟩ | ⟨c, r⟩ <;> simp [candidateBand, c, r, sides, other]

/-- The band of a value plus h, saturated, by the high thresholds (R18). -/
def bandAbove (l : LimitSet) (v : Nat) : Band :=
  let above := min (v + l.h) 65535
  if l.ch < above then .critHigh else if l.hw < above then .high else .normal

/-- The band of a value less h, saturated, by the low thresholds (R18). -/
def bandBelow (l : LimitSet) (v : Nat) : Band :=
  let below := v - l.h
  if below < l.cl then .critLow else if below < l.lw then .low else .normal

/-- On the way back from the high side the value plus h decides how far. -/
theorem candidateBand_high {l : LimitSet} (legal : LimitsLegal l) {current raw : Band} {v : Nat}
    (small : v < 65536) (given : rawBand l v = raw) (side : highSide current = true)
    (notLow : lowSide raw = false) (nearer : bandDistance raw < bandDistance current) :
    candidateBand l current v = noFarther current (farther raw (bandAbove l v)) := by
  have low : l.lw ≤ v := (lowSide_rawBand legal).mp (given ▸ notLow)
  have adjusted : rawBand l (min (v + l.h) 65535) = bandAbove l v := rawBand_of_ge legal (by omega)
  simp only [candidateBand, given, side, nearer, notLow, adjusted, decide_true, Bool.not_false,
    Bool.and_self, if_true]

/-- On the way back from the low side the value less h decides how far. -/
theorem candidateBand_low {l : LimitSet} (legal : LimitsLegal l) {current raw : Band} {v : Nat}
    (given : rawBand l v = raw) (side : lowSide current = true)
    (notHigh : highSide raw = false) (nearer : bandDistance raw < bandDistance current) :
    candidateBand l current v = noFarther current (farther raw (bandBelow l v)) := by
  have high : v ≤ l.hw := (highSide_rawBand legal).mp (given ▸ notHigh)
  have other : highSide current = false := by revert side; cases current <;> decide
  have adjusted : rawBand l (v - l.h) = bandBelow l v := rawBand_of_le legal (by omega)
  simp only [candidateBand, given, side, other, nearer, notHigh, adjusted, decide_true, Bool.not_false,
    Bool.and_self, if_true, Bool.false_and, Bool.false_eq_true, if_false]

/-- A candidate of this form lies between the raw band and the current one. -/
theorem noFarther_farther {current raw : Band} (b : Band)
    (nearer : bandDistance raw < bandDistance current) :
    bandDistance raw ≤ bandDistance (noFarther current (farther raw b)) ∧
      bandDistance (noFarther current (farther raw b)) ≤ bandDistance current := by
  unfold noFarther farther
  split_ifs <;> omega

/-- What is left of a high band on its way back. -/
theorem noFarther_bandAbove {l : LimitSet} (order : l.hw ≤ l.ch) (v : Nat) :
    let above := min (v + l.h) 65535
    noFarther .high (farther .normal (bandAbove l v)) = (if l.hw < above then .high else .normal) ∧
      noFarther .critHigh (farther .high (bandAbove l v)) = (if l.ch < above then .critHigh else .high) ∧
      noFarther .critHigh (farther .normal (bandAbove l v)) = bandAbove l v := by
  unfold bandAbove
  by_cases c : l.ch < min (v + l.h) 65535
  · have w : l.hw < min (v + l.h) 65535 := by omega
    simp only [c, w, if_true]
    decide
  · by_cases w : l.hw < min (v + l.h) 65535
    · simp only [c, w, if_true, if_false]
      decide
    · simp only [c, w, if_false]
      decide

/-- What is left of a low band on its way back. -/
theorem noFarther_bandBelow {l : LimitSet} (order : l.cl ≤ l.lw) (v : Nat) :
    let below := v - l.h
    noFarther .low (farther .normal (bandBelow l v)) = (if below < l.lw then .low else .normal) ∧
      noFarther .critLow (farther .low (bandBelow l v)) = (if below < l.cl then .critLow else .low) ∧
      noFarther .critLow (farther .normal (bandBelow l v)) = bandBelow l v := by
  unfold bandBelow
  by_cases c : v - l.h < l.cl
  · have w : v - l.h < l.lw := by omega
    simp only [c, w, if_true]
    decide
  · by_cases w : v - l.h < l.lw
    · simp only [c, w, if_true, if_false]
      decide
    · simp only [c, w, if_false]
      decide

/-- The candidate keeps to the side of the current band, or is the raw band. -/
theorem noFarther_side {side : Band → Bool} {current raw b : Band} (here : side current = true)
    (same : side b = true ∨ bandDistance b = 0) :
    noFarther current (farther raw b) = raw ∨ side (noFarther current (farther raw b)) = true := by
  unfold noFarther farther
  split_ifs with nearer outside
  · exact .inr here
  · exact .inr (same.resolve_right (by omega))
  · exact .inr here
  · exact .inl rfl

theorem highSide_bandAbove (l : LimitSet) (v : Nat) :
    highSide (bandAbove l v) = true ∨ bandDistance (bandAbove l v) = 0 := by
  unfold bandAbove
  dsimp only
  split_ifs <;> decide

theorem lowSide_bandBelow (l : LimitSet) (v : Nat) :
    lowSide (bandBelow l v) = true ∨ bandDistance (bandBelow l v) = 0 := by
  unfold bandBelow
  dsimp only
  split_ifs <;> decide

/-- Without hysteresis the raw band is the candidate. -/
theorem noFarther_raw {current raw : Band} (nearer : bandDistance raw < bandDistance current) :
    noFarther current (farther raw raw) = raw := by
  simp [noFarther, farther, Nat.le_of_lt nearer]

/-- Settles O45: each clause is a case of the candidate on its side (`candidateBand_high`, `candidateBand_low`). -/
theorem hysteresisHolds : Obligations.HysteresisHolds := by
  intro l v current legal small known raw c above below
  have highs := noFarther_bandAbove legal.2.2.1 v
  have lows := noFarther_bandBelow legal.1 v
  have high := fun {raw} => candidateBand_high legal (current := current) (raw := raw) (v := v) small
  have low := fun {raw} => candidateBand_low legal (current := current) (raw := raw) (v := v)
  refine ⟨candidateBand_outward, fun s r => candidateBand_across (.inl ⟨s, r⟩),
    fun s r => candidateBand_across (.inr ⟨s, r⟩), ?_, ?_, ?_, ?_, ?_, ?_, fun s r n => ?_, fun s r n => ?_⟩
  · rintro rfl r
    exact (high r rfl rfl (by decide)).trans highs.1
  · rintro rfl r
    exact (high r rfl rfl (by decide)).trans highs.2.1
  · rintro rfl r
    exact (high r rfl rfl (by decide)).trans highs.2.2
  · rintro rfl r
    exact (low r rfl rfl (by decide)).trans lows.1
  · rintro rfl r
    exact (low r rfl rfl (by decide)).trans lows.2.1
  · rintro rfl r
    exact (low r rfl rfl (by decide)).trans lows.2.2
  · have given : c = noFarther current (farther raw (bandAbove l v)) := high rfl s r n
    obtain ⟨near, far⟩ := noFarther_farther (bandAbove l v) n
    rw [given]
    refine ⟨near, far, noFarther_side s (highSide_bandAbove l v), fun zero => ?_⟩
    have same : bandAbove l v = raw := by
      rw [bandAbove, zero, Nat.add_zero, Nat.min_eq_left (by omega)]
      exact (rawBand_of_ge legal ((lowSide_rawBand legal).mp r)).symm
    rw [same, noFarther_raw n]
  · have given : c = noFarther current (farther raw (bandBelow l v)) := low rfl s r n
    obtain ⟨near, far⟩ := noFarther_farther (bandBelow l v) n
    rw [given]
    refine ⟨near, far, noFarther_side s (lowSide_bandBelow l v), fun zero => ?_⟩
    have same : bandBelow l v = raw := by
      rw [bandBelow, zero, Nat.sub_zero]
      exact (rawBand_of_le legal ((highSide_rawBand legal).mp r)).symm
    rw [same, noFarther_raw n]

/-! ### Agreement (R19) -/

/-- A candidate equal to the band clears what was pending. -/
theorem agree_same (n : Nat) (g : Signal) : agree n g.band g = { g with pending := none, count := 0 } :=
  if_pos rfl

/-- Another candidate counts, on from the pending band's count where it is that band. -/
theorem agree_other {c : Band} {g : Signal} (n : Nat) (other : c ≠ g.band) :
    let count := if g.pending = some c then g.count + 1 else 1
    agree n c g =
      if n ≤ count then { g with band := c, pending := none, count := 0 }
      else { g with pending := some c, count } :=
  if_neg other

/-- A sample of a signal without a band gives it the raw band at once. -/
theorem sampleSignal_unknown {l : LimitSet} {v : Nat} {time : Time} {g : Signal} (h : g.band = .unknown) :
    sampleSignal l v time g =
      { g with value := v, last := time, stale := false, band := rawBand l v, pending := none, count := 0 } :=
  if_pos h

theorem sampleSignal_known {l : LimitSet} {v : Nat} {time : Time} {g : Signal} (h : g.band ≠ .unknown) :
    sampleSignal l v time g =
      agree l.n (candidateBand l g.band v) { g with value := v, last := time, stale := false } :=
  if_neg h

theorem agree_value (n : Nat) (c : Band) (g : Signal) : (agree n c g).value = g.value := by
  unfold agree
  dsimp only
  split_ifs <;> rfl

/-- Settles O44: the cases of R19. -/
theorem bandsAgree : Obligations.BandsAgree := by
  intro l v time g one h c
  by_cases unknown : g.band = .unknown
  · have given : h = _ := sampleSignal_unknown unknown
    rw [given]
    exact ⟨rfl, fun _ => ⟨rfl, rfl, rfl⟩, fun known => absurd unknown known⟩
  · have given : h = agree l.n c { g with value := v, last := time, stale := false } :=
      sampleSignal_known unknown
    refine ⟨given ▸ agree_value _ _ _, fun no => absurd no unknown, fun _ =>
      ⟨fun same => ?_, fun other pending => ?_, fun other fresh => ?_⟩⟩
    · rw [given, same]
      have kept := agree_same l.n { g with value := v, last := time, stale := false }
      rw [kept]
      exact ⟨rfl, rfl, rfl⟩
    · have moved := given.trans (agree_other l.n other)
      dsimp only at moved
      rw [if_pos pending] at moved
      refine ⟨fun short => ?_, fun enough => ?_⟩
      · rw [moved, if_neg (by omega)]
        exact ⟨rfl, rfl, rfl⟩
      · rw [moved, if_pos enough]
        exact ⟨rfl, rfl, rfl⟩
    · have moved := given.trans (agree_other l.n other)
      dsimp only at moved
      rw [if_neg fresh] at moved
      refine ⟨fun several => ?_, fun single => ?_⟩
      · rw [moved, if_neg (by omega)]
        exact ⟨rfl, rfl, rfl⟩
      · rw [moved, if_pos (by omega)]
        exact ⟨rfl, rfl, rfl⟩

end Sys2Proof.Machine
end

section
/-! PROOF. The layout of records (R163, R171): the fields of a string of bytes, what a layout's fields read back as, and
that a record is the layout of its fields. -/

namespace Sys2Proof.Machine

/-! ### Fields read from a layout -/

@[simp] theorem field8_cons_zero (b : Byte) (r : List Byte) : field8 (b :: r) 0 = b.toNat := rfl

@[simp] theorem field8_cons_succ (b : Byte) (r : List Byte) (i : Nat) :
    field8 (b :: r) (i + 1) = field8 r i := rfl

theorem field8_lt (r : List Byte) (i : Nat) : field8 r i < 256 := (r.getD i 0).isLt

theorem field16_lt (r : List Byte) (i : Nat) : field16 r i < 65536 := by
  have hi := field8_lt r i
  have lo := field8_lt r (i + 1)
  unfold field16
  omega

theorem field8_be8 {n : Nat} (h : n < 256) (r : List Byte) : field8 (BitVec.ofNat 8 n :: r) 0 = n := by
  simp [Nat.mod_eq_of_lt h]

theorem field8_beFlag (b : Bool) (r : List Byte) : field8 ((if b = true then 1 else 0) :: r) 0 = b.toNat := by
  cases b <;> rfl

theorem field16_be16 {n : Nat} (h : n < 65536) (r : List Byte) :
    field16 (BitVec.ofNat 8 (n / 256) :: BitVec.ofNat 8 n :: r) 0 = n := by
  simp only [field16, field8_cons_succ, field8_cons_zero, BitVec.toNat_ofNat, Nat.zero_add]
  omega

theorem field24_be24 {n : Nat} (h : n < 16777216) (r : List Byte) :
    field24 (BitVec.ofNat 8 (n / 65536) :: BitVec.ofNat 8 (n / 256) :: BitVec.ofNat 8 n :: r) 0 = n := by
  simp only [field24, field16, field8_cons_succ, field8_cons_zero, BitVec.toNat_ofNat, Nat.zero_add]
  omega

theorem field32_be32 {n : Nat} (h : n < 4294967296) (r : List Byte) :
    field32 (BitVec.ofNat 8 (n / 65536 / 256) :: BitVec.ofNat 8 (n / 65536) :: BitVec.ofNat 8 (n / 256) ::
      BitVec.ofNat 8 n :: r) 0 = n := by
  simp only [field32, field16, field8_cons_succ, field8_cons_zero, BitVec.toNat_ofNat, Nat.zero_add]
  omega

/-- A field skips the bytes before it. -/
theorem field_skips :
    (∀ (b : Byte) r i, field8 (b :: r) (i + 1) = field8 r i) ∧
    (∀ (b : Byte) r i, field16 (b :: r) (i + 1) = field16 r i) ∧
    (∀ (b : Byte) r i, field24 (b :: r) (i + 1) = field24 r i) ∧
    (∀ (b : Byte) r i, field32 (b :: r) (i + 1) = field32 r i) ∧
    ∀ (b : Byte) r i, fieldInt16 (b :: r) (i + 1) = fieldInt16 r i :=
  ⟨fun _ _ _ => rfl, fun _ _ _ => rfl, fun _ _ _ => rfl, fun _ _ _ => rfl, fun _ _ _ => rfl⟩

/-- A field reads what was laid out where it starts. -/
theorem field_reads :
    (∀ b r, field8 ((if b = true then 1 else 0) :: r) 0 = b.toNat) ∧
    (∀ r n, n < 256 → field8 (BitVec.ofNat 8 n :: r) 0 = n) ∧
    (∀ r n, n < 65536 → field16 (BitVec.ofNat 8 (n / 256) :: BitVec.ofNat 8 n :: r) 0 = n) ∧
    (∀ r n, n < 16777216 →
      field24 (BitVec.ofNat 8 (n / 65536) :: BitVec.ofNat 8 (n / 256) :: BitVec.ofNat 8 n :: r) 0 = n) ∧
    ∀ r n, n < 4294967296 →
      field32 (BitVec.ofNat 8 (n / 65536 / 256) :: BitVec.ofNat 8 (n / 65536) ::
        BitVec.ofNat 8 (n / 256) :: BitVec.ofNat 8 n :: r) 0 = n :=
  ⟨field8_beFlag, fun r _ h => field8_be8 h r, fun r _ h => field16_be16 h r,
    fun r _ h => field24_be24 h r, fun r _ h => field32_be32 h r⟩

/-- A field that may be none is laid out as a byte. -/
theorem beOpt8_eq (o : Option Nat) : beOpt8 o = be8 (o.getD 255) := by cases o <;> rfl

/-- A layout is the string of its fields' bytes. -/
theorem laid_out :
    (∀ b, beFlag b = [if b = true then 1 else 0]) ∧ (∀ n, be8 n = [BitVec.ofNat 8 n]) ∧
      (∀ o, beOpt8 o = [BitVec.ofNat 8 (o.getD 255)]) ∧
      (∀ n, be16 n = [BitVec.ofNat 8 (n / 256), BitVec.ofNat 8 n]) ∧
      (∀ n, be24 n = [BitVec.ofNat 8 (n / 65536), BitVec.ofNat 8 (n / 256), BitVec.ofNat 8 n]) ∧
      (∀ n, be32 n = [BitVec.ofNat 8 (n / 65536 / 256), BitVec.ofNat 8 (n / 65536),
        BitVec.ofNat 8 (n / 256), BitVec.ofNat 8 n]) ∧
      (∀ r : List Byte, [] ++ r = r) ∧ ∀ (c : Byte) t r, c :: t ++ r = c :: (t ++ r) :=
  ⟨fun _ => rfl, fun _ => rfl, beOpt8_eq, fun _ => rfl, fun _ => rfl, fun _ => rfl, fun _ => rfl,
    fun _ _ _ => rfl⟩

/-- A one-byte field that may be none gives its item back. -/
theorem optional_getD {o : Option Nat} (h : ∀ n ∈ o, n < 255) :
    (if o.getD 255 = 255 then none else some (o.getD 255)) = o := by
  cases o with
  | none => rfl
  | some n => exact if_neg (Nat.ne_of_lt (h n rfl))

theorem getD_le_or {o : Option Nat} {k : Nat} (h : ∀ n ∈ o, n ≤ k) : o.getD 255 ≤ k ∨ o.getD 255 = 255 := by
  cases o with
  | none => exact .inr rfl
  | some n => exact .inl (h n rfl)

theorem named_idxOf {α : Type} [DecidableEq α] {l : List α} {a : α} (h : a ∈ l) :
    named l (l.idxOf a) = some a := List.getElem?_idxOf h

theorem idxOf_of_named {α : Type} [DecidableEq α] {l : List α} (nodup : l.Nodup) {n : Nat} {a : α}
    (h : named l n = some a) : l.idxOf a = n := by
  obtain ⟨low, rfl⟩ := List.getElem?_eq_some_iff.mp h
  exact nodup.idxOf_getElem n low

theorem idxOf_lt_of_length {α : Type} [DecidableEq α] {l : List α} (short : l.length ≤ 255) (a : α) :
    l.idxOf a < 256 := by
  have := List.idxOf_le_length (l := l) (a := a)
  omega

/-! ### Records read back from their layouts -/

theorem decodePolicy_encodePolicy {p : Policy} (h : PolicyLegal p) :
    decodePolicy (encodePolicy p) = some p := by
  obtain ⟨w1, w2, d, m, q1, q2, e, f, c, a⟩ := h
  have entry : p.autostart.getD 255 ≤ 31 ∨ p.autostart.getD 255 = 255 := getD_le_or a
  have some_entry : ∀ n ∈ p.autostart, n < 255 := fun n hn => by have := a n hn; omega
  simp (disch := omega) only [encodePolicy, decodePolicy, laid_out, field_skips, field_reads]
  rw [if_pos ⟨p.redundant.toNat_le, w1, w2, q1, q2, e, c, entry⟩, optional_getD some_entry]
  simp

theorem mem_parities (p : Parity) : p ∈ parities := by cases p <;> decide

theorem decodePort_encodePort {p : PortSettings} (h : PortLegal p) :
    decodePort (encodePort p) = some p := by
  obtain ⟨d, f, s1, s2, g1, g2, t1, t2⟩ := h
  have parity := idxOf_lt_of_length (l := parities) (by decide) p.parity
  simp (disch := omega) only [encodePort, decodePort, laid_out, field_skips, field_reads,
    named_idxOf (mem_parities _)]
  rw [if_pos ⟨f, s1, s2, g1, g2, p.pulse.toNat_le, p.enable.toNat_le, t1, t2⟩]
  simp

theorem mem_ports (p : Port) : p ∈ ports := by cases p <;> decide

theorem mem_moduleKinds (k : ModuleKind) : k ∈ moduleKinds := by cases k <;> decide

theorem kindBound_le (k : ModuleKind) : kindBound k ≤ 24 := by cases k <;> decide

theorem decodeRoster_encodeRoster {e : RosterEntry} (h : RosterLegal e) :
    decodeRoster (encodeRoster e) = some e := by
  obtain ⟨a1, a2, up, i, v⟩ := h
  have port := idxOf_lt_of_length (l := ports) (by decide) e.port
  have kind := idxOf_lt_of_length (l := moduleKinds) (by decide) e.kind
  have bound := kindBound_le e.kind
  simp (disch := omega) only [encodeRoster, decodeRoster, laid_out, field_skips, field_reads,
    named_idxOf (mem_ports _), named_idxOf (mem_moduleKinds _)]
  rw [if_pos ⟨trivial, a1, a2, up, i, e.forward.toNat_le⟩]
  simp

theorem decodePoll_encodePoll {r : Nat} (h : r < 48) : decodePoll (encodePoll r) = some r := by
  simp (disch := omega) only [encodePoll, decodePoll, laid_out, field_skips, field_reads]
  exact if_pos ⟨trivial, h⟩

theorem mem_signalKinds (k : SignalKind) : k ∈ signalKinds := by cases k <;> decide

theorem fieldInt16_be16 {i : Int} (low : -32768 ≤ i) (high : i ≤ 32767) (r : List Byte) :
    fieldInt16 (BitVec.ofNat 8 ((BitVec.ofInt 16 i).toNat / 256) ::
      BitVec.ofNat 8 (BitVec.ofInt 16 i).toNat :: r) 0 = i := by
  rw [fieldInt16, field16_be16 (BitVec.isLt _), BitVec.ofNat_toNat, BitVec.setWidth_eq, BitVec.toInt_ofInt,
    Int.bmod_eq_of_le (by omega) (by omega)]

theorem decodeSample_encodeSample {e : SampleEntry} (h : SampleLegal e) :
    decodeSample (encodeSample e) = some e := by
  obtain ⟨r, f1, f2, s, g, o1, o2, l⟩ := h
  have kind := idxOf_lt_of_length (l := signalKinds) (by decide) e.kind
  simp (disch := omega) only [encodeSample, decodeSample, laid_out, field_skips, field_reads,
    named_idxOf (mem_signalKinds _), fieldInt16_be16]
  rw [if_pos ⟨trivial, r, f1, s, l, e.notify.toNat_le⟩]
  simp

theorem decodeLimits_encodeLimits {l : LimitSet} (h : LimitsLegal l) :
    decodeLimits (encodeLimits l) = some l := by
  obtain ⟨a, b, c, d, e, n1, n2, s⟩ := h
  simp (disch := omega) only [encodeLimits, decodeLimits, laid_out, field_skips, field_reads]
  exact if_pos ⟨a, b, c, n1, n2, s⟩

theorem mem_senseRoles (r : SenseRole) : r ∈ senseRoles := by cases r <;> decide

theorem mem_levels (l : Level) : l ∈ levels := by cases l <;> decide

theorem mem_edgeSelects (e : EdgeSelect) : e ∈ edgeSelects := by cases e <;> decide

theorem senseRoleBound_le (r : SenseRole) : senseRoleBound r ≤ 256 := by cases r <;> decide

theorem decodeSense_encodeSense {e : SenseEntry} (h : SenseLegal e) :
    decodeSense (encodeSense e) = some e := by
  obtain ⟨i, p⟩ := h
  have role := idxOf_lt_of_length (l := senseRoles) (by decide) e.role
  have active := idxOf_lt_of_length (l := levels) (by decide) e.active
  have period := idxOf_lt_of_length (l := filterPeriods) (by decide) e.period
  have edge := idxOf_lt_of_length (l := edgeSelects) (by decide) e.edge
  have bound := senseRoleBound_le e.role
  simp (disch := omega) only [encodeSense, decodeSense, laid_out, field_skips, field_reads,
    named_idxOf (mem_senseRoles _), named_idxOf (mem_levels _), named_idxOf p,
    named_idxOf (mem_edgeSelects _)]
  exact if_pos i

theorem mem_driveRoles (r : DriveRole) : r ∈ driveRoles := by cases r <;> decide

theorem decodeDrive_encodeDrive {e : DriveEntry} (h : DriveLegal e) :
    decodeDrive (encodeDrive e) = some e := by
  obtain ⟨i, valve⟩ := h
  have role := idxOf_lt_of_length (l := driveRoles) (by decide) e.role
  have active := idxOf_lt_of_length (l := levels) (by decide) e.active
  simp (disch := omega) only [encodeDrive, decodeDrive, laid_out, field_skips, field_reads,
    named_idxOf (mem_driveRoles _), named_idxOf (mem_levels _)]
  exact if_neg fun ⟨isValve, high⟩ => absurd (valve isValve) (Nat.not_lt.mpr high)

theorem decodePsm_encodePsm {e : PsmEntry} (h : PsmLegal e) : decodePsm (encodePsm e) = some e := by
  obtain ⟨r, w, d, v, c, t⟩ := h
  simp (disch := omega) only [encodePsm, decodePsm, laid_out, field_skips, field_reads]
  exact if_pos ⟨trivial, r, w, d, v, c, t⟩

theorem decodeBbm_encodeBbm {e : BbmEntry} (h : BbmLegal e) : decodeBbm (encodeBbm e) = some e := by
  obtain ⟨r, c, d, m, n, s⟩ := h
  simp (disch := omega) only [encodeBbm, decodeBbm, laid_out, field_skips, field_reads]
  exact if_pos ⟨trivial, r, c, m, n, s⟩

theorem decodeTray_encodeTray {e : TrayEntry} (h : TrayLegal e) : decodeTray (encodeTray e) = some e := by
  obtain ⟨r, a, i, t1, t2, k, s, z, l⟩ := h
  have zone := getD_le_or z
  have line := getD_le_or l
  have some_zone : ∀ n ∈ e.zone, n < 255 := fun n hn => by have := z n hn; omega
  have some_line : ∀ n ∈ e.goodLine, n < 255 := fun n hn => by have := l n hn; omega
  simp (disch := omega) only [encodeTray, decodeTray, laid_out, field_skips, field_reads]
  rw [if_pos ⟨trivial, r, a, i, t1, t2, s, zone, line⟩, optional_getD some_zone, optional_getD some_line]

theorem mem_stepKinds (k : StepKind) : k ∈ stepKinds := by cases k <;> decide

theorem argumentBound_le (k : StepKind) : argumentBound k ≤ 65535 := by cases k <;> decide

theorem decodeStep_encodeStep {e : StepEntry} (h : StepLegal e) : decodeStep (encodeStep e) = some e := by
  obtain ⟨t, a, w, n, l⟩ := h
  have kind := idxOf_lt_of_length (l := stepKinds) (by decide) e.kind
  have bound := argumentBound_le e.kind
  simp (disch := omega) only [encodeStep, decodeStep, laid_out, field_skips, field_reads,
    named_idxOf (mem_stepKinds _)]
  exact if_pos ⟨trivial, a, w, n, l⟩

theorem mem_guardActions (a : GuardAction) : a ∈ guardActions := by cases a <;> decide

theorem decodeGuard_encodeGuard (e : GuardEntry) : decodeGuard (encodeGuard e) = some e := by
  have kind := idxOf_lt_of_length (l := moduleKinds) (by decide) e.kind
  have action := idxOf_lt_of_length (l := guardActions) (by decide) e.action
  simp (disch := omega) only [encodeGuard, decodeGuard, laid_out, field_skips, field_reads,
    named_idxOf (mem_moduleKinds _), named_idxOf (mem_guardActions _)]
  exact if_pos trivial

theorem pointAt_bePoint {p : PointRef} (h : PointLegal p) (r : Record) : pointAt (bePoint p ++ r) 0 = some p := by
  cases p with
  | signal n =>
    have low : n < 128 := h
    simp (disch := omega) only [bePoint, pointAt, laid_out, field_skips, field_reads]
    exact if_pos ⟨trivial, low⟩
  | line l =>
    have low : l < 16 := h
    simp (disch := omega) only [bePoint, pointAt, laid_out, field_skips, field_reads]
    exact (if_neg fun ⟨zero, _⟩ => absurd zero (by decide)).trans (if_pos ⟨trivial, low⟩)

theorem pointAt_skip (p : PointRef) (r : Record) (i : Nat) :
    pointAt (bePoint p ++ r) (i + 2) = pointAt r i := by
  cases p <;> rfl

/-- The points laid out one after another are read back at their places. -/
theorem pointAt_points {points : List PointRef} (legal : ∀ p ∈ points, PointLegal p) (r : Record) :
    ((List.range points.length).map fun i => pointAt ((points.map bePoint).flatten ++ r) (2 * i)) =
      points.map some := by
  induction points with
  | nil => rfl
  | cons p rest ih =>
    have skips : ((fun i => pointAt (bePoint p ++ ((rest.map bePoint).flatten ++ r)) (2 * i)) ∘ Nat.succ) =
        fun i => pointAt ((rest.map bePoint).flatten ++ r) (2 * i) :=
      funext fun i => pointAt_skip p _ (2 * i)
    simp only [List.length_cons, List.range_succ_eq_map, List.map_cons, List.map_map, List.flatten_cons,
      List.append_assoc, Nat.mul_zero, pointAt_bePoint (legal p List.mem_cons_self), skips,
      ih fun q hq => legal q (List.mem_cons_of_mem p hq)]

theorem length_points (points : List PointRef) : (points.map bePoint).flatten.length = 2 * points.length := by
  induction points with
  | nil => rfl
  | cons p rest ih =>
    have two : (bePoint p).length = 2 := by cases p <;> rfl
    simp only [List.map_cons, List.flatten_cons, List.length_append, List.length_cons, two, ih]
    omega

/-- The places of a Zones record up to the confirm count. -/
def zonePlaces (e : ZoneEntry) : Record :=
  (e.points.map bePoint).flatten ++ List.replicate (16 - 2 * e.points.length) 255

theorem length_zonePlaces {e : ZoneEntry} (h : e.points.length ≤ 8) : (zonePlaces e).length = 16 := by
  simp only [zonePlaces, List.length_append, length_points, List.length_replicate]
  omega

theorem encodeZone_eq (e : ZoneEntry) :
    encodeZone e =
      1 :: BitVec.ofNat 8 e.points.length :: (zonePlaces e ++ (be8 e.confirmCount ++ be16 e.confirmTime)) := by
  simp only [encodeZone, layZone, zonePlaces, List.append_assoc]
  rfl

theorem mapM_eq_some_iff {α β : Type} {f : α → Option β} {l : List α} {l' : List β} :
    l.mapM f = some l' ↔ l.map f = l'.map some := by
  induction l generalizing l' with
  | nil => cases l' <;> simp
  | cons a l ih =>
    cases l' with
    | nil => simp [Option.bind_eq_some_iff]
    | cons b l' => simp [Option.bind_eq_some_iff, ← ih]

/-- A field behind a string of 16 bytes and the two before it. -/
theorem fields_behind_places (a b : Byte) {places : List Byte} (length : places.length = 16) (r : List Byte) :
    (∀ i, field8 (a :: b :: (places ++ r)) (18 + i) = field8 r i) ∧
      field16 (a :: b :: (places ++ r)) 19 = field16 r 1 := by
  have behind : ∀ i, field8 (a :: b :: (places ++ r)) (18 + i) = field8 r i := fun i => by
    have place : 18 + i = (places.length + i) + 1 + 1 := by omega
    rw [place, field8_cons_succ, field8_cons_succ, field8, List.getD_append_right _ _ _ _ (by omega),
      Nat.add_sub_cancel_left, field8]
  exact ⟨behind, congrArg₂ (· * 256 + ·) (behind 1) (behind 2)⟩

theorem pointAt_behind (a b : Byte) (r : Record) (i : Nat) : pointAt (a :: b :: r) (2 + i) = pointAt r i := by
  rw [Nat.add_comm]
  rfl

theorem decodeZone_encodeZone {e : ZoneEntry} (h : ZoneLegal e) : decodeZone (encodeZone e) = some e := by
  obtain ⟨few, legal, c1, c2, t⟩ := h
  obtain ⟨behind, time⟩ := fields_behind_places 1 (BitVec.ofNat 8 e.points.length) (length_zonePlaces few)
    (be8 e.confirmCount ++ be16 e.confirmTime)
  rw [← encodeZone_eq] at behind time
  have used : field8 (encodeZone e) 0 = 1 := rfl
  have number : field8 (encodeZone e) 1 = e.points.length := by
    rw [encodeZone_eq]
    exact field8_be8 (by omega) (zonePlaces e ++ (be8 e.confirmCount ++ be16 e.confirmTime))
  have count : field8 (encodeZone e) 18 = e.confirmCount := (behind 0).trans (field8_be8 (by omega) _)
  have time : field16 (encodeZone e) 19 = e.confirmTime := time.trans (field16_be16 (by omega) [])
  have points : ((List.range e.points.length).mapM fun i => pointAt (encodeZone e) (2 + 2 * i)) =
      some e.points := by
    simp only [mapM_eq_some_iff, encodeZone_eq, pointAt_behind, zonePlaces, List.append_assoc,
      pointAt_points legal]
  rw [decodeZone, used, number, count, time, if_pos ⟨rfl, few, c1, c2, t⟩, points]

theorem length_encodeZone {e : ZoneEntry} (h : e.points.length ≤ 8) : (encodeZone e).length = 21 := by
  simp [encodeZone_eq, length_zonePlaces h, be8, be16]

/-! ### Records are the layout of what is read from them -/

/-- The bytes `i` to `i + n - 1` of a record. -/
def slice (r : List Byte) (i n : Nat) : List Byte := (r.drop i).take n

theorem slice_append {r : List Byte} {i j n m : Nat} (h : j = i + n) :
    slice r i n ++ slice r j m = slice r i (n + m) := by
  rw [slice, slice, slice, List.take_add, List.drop_drop, h]

theorem slice_all (r : List Byte) {n : Nat} (h : r.length ≤ n) : slice r 0 n = r := List.take_of_length_le h

theorem be8_field8 {r : List Byte} {i : Nat} (h : i < r.length) : be8 (field8 r i) = slice r i 1 := by
  rw [slice, List.drop_eq_getElem_cons h, field8, List.getD_eq_getElem r 0 h, be8, BitVec.ofNat_toNat,
    BitVec.setWidth_eq]
  rfl

theorem be8_at_256 (h l : Nat) (low : l < 256) :
    BitVec.ofNat 8 ((h * 256 + l) / 256) = BitVec.ofNat 8 h ∧ BitVec.ofNat 8 (h * 256 + l) = BitVec.ofNat 8 l := by
  constructor <;> apply BitVec.eq_of_toNat_eq <;> simp only [BitVec.toNat_ofNat] <;> omega

theorem be16_field16 {r : List Byte} {i : Nat} (h : i + 1 < r.length) : be16 (field16 r i) = slice r i 2 := by
  obtain ⟨high, low⟩ := be8_at_256 (field8 r i) (field8 r (i + 1)) (field8_lt r (i + 1))
  calc be16 (field16 r i) = be8 (field8 r i) ++ be8 (field8 r (i + 1)) := by rw [be16, field16, high, low]; rfl
    _ = slice r i 2 := by rw [be8_field8 (by omega), be8_field8 h, slice_append rfl]

theorem be24_field24 {r : List Byte} {i : Nat} (h : i + 2 < r.length) : be24 (field24 r i) = slice r i 3 := by
  have low := field16_lt r (i + 1)
  have high : BitVec.ofNat 8 (field24 r i / 65536) = BitVec.ofNat 8 (field8 r i) := by
    apply BitVec.eq_of_toNat_eq; simp only [BitVec.toNat_ofNat, field24]; omega
  have middle : BitVec.ofNat 8 (field24 r i / 256) = BitVec.ofNat 8 (field16 r (i + 1) / 256) := by
    apply BitVec.eq_of_toNat_eq; simp only [BitVec.toNat_ofNat, field24]; omega
  have last : BitVec.ofNat 8 (field24 r i) = BitVec.ofNat 8 (field16 r (i + 1)) := by
    apply BitVec.eq_of_toNat_eq; simp only [BitVec.toNat_ofNat, field24]; omega
  calc be24 (field24 r i) = be8 (field8 r i) ++ be16 (field16 r (i + 1)) := by
        rw [be24, be16, high, middle, last]; rfl
    _ = slice r i 3 := by rw [be8_field8 (by omega), be16_field16 h, slice_append rfl]

theorem be32_field32 {r : List Byte} {i : Nat} (h : i + 3 < r.length) : be32 (field32 r i) = slice r i 4 := by
  have low := field16_lt r (i + 2)
  have high : field32 r i / 65536 = field16 r i := by unfold field32; omega
  have rest : be16 (field32 r i) = be16 (field16 r (i + 2)) := by
    refine congrArg₂ (fun a b => [a, b]) ?_ ?_ <;> apply BitVec.eq_of_toNat_eq <;>
      simp only [BitVec.toNat_ofNat, field32] <;> omega
  rw [be32, high, rest, be16_field16 (by omega), be16_field16 h, slice_append rfl]

theorem be16_fieldInt16 {r : List Byte} {i : Nat} (h : i + 1 < r.length) :
    be16 (BitVec.ofInt 16 (fieldInt16 r i)).toNat = slice r i 2 := by
  rw [fieldInt16, BitVec.ofInt_toInt, BitVec.toNat_ofNat, Nat.mod_eq_of_lt (field16_lt r i), be16_field16 h]

theorem beFlag_field8 {r : List Byte} {i : Nat} (flag : field8 r i ≤ 1) (h : i < r.length) :
    beFlag (decide (field8 r i = 1)) = slice r i 1 := by
  rw [← be8_field8 h]
  obtain zero | one : field8 r i = 0 ∨ field8 r i = 1 := by omega
  · rw [zero]; rfl
  · rw [one]; rfl

theorem beOpt8_field8 {r : List Byte} {i : Nat} (h : i < r.length) :
    beOpt8 (if field8 r i = 255 then none else some (field8 r i)) = slice r i 1 := by
  rw [← be8_field8 h]
  split
  · next all => rw [all]; rfl
  · rfl

theorem be8_one {r : List Byte} (used : field8 r 0 = 1) (h : 0 < r.length) : be8 1 = slice r 0 1 :=
  used ▸ be8_field8 h

theorem legal_of_decodePolicy {r : Record} {p : Policy} (len : r.length = 19) (h : decodePolicy r = some p) :
    PolicyLegal p ∧ encodePolicy p = r := by
  simp only [decodePolicy, Option.ite_none_right_eq_some, Option.some.injEq] at h
  obtain ⟨⟨flag, w1, w2, q1, q2, e, c, a⟩, rfl⟩ := h
  refine ⟨⟨w1, w2, field16_lt r 2, field16_lt r 4, q1, q2, e, field16_lt r 14, c, ?_⟩, ?_⟩
  · simp only [Option.mem_def, Option.ite_none_left_eq_some, Option.some.injEq]
    omega
  · simp (disch := omega) only [encodePolicy, be8_field8, be16_field16, be32_field32, beFlag_field8,
      beOpt8_field8, slice_append, slice_all]

theorem legal_of_decodePort {r : Record} {p : PortSettings} (len : r.length = 8) (h : decodePort r = some p) :
    PortLegal p ∧ encodePort p = r := by
  unfold decodePort at h
  split at h
  · cases h
  · next parity named =>
    simp only [Option.ite_none_right_eq_some, Option.some.injEq] at h
    obtain ⟨⟨f, s1, s2, g1, g2, pulse, enable, t1, t2⟩, rfl⟩ := h
    refine ⟨⟨field8_lt r 0, f, s1, s2, g1, g2, t1, t2⟩, ?_⟩
    simp (disch := omega) only [encodePort, idxOf_of_named (by decide) named, be8_field8, beFlag_field8,
      slice_append, slice_all]

theorem legal_of_decodeRoster {r : Record} {e : RosterEntry} (len : r.length = 8) (h : decodeRoster r = some e) :
    RosterLegal e ∧ encodeRoster e = r := by
  unfold decodeRoster at h
  split at h
  · next port kind atPort atKind =>
    simp only [Option.ite_none_right_eq_some, Option.some.injEq] at h
    obtain ⟨⟨used, a1, a2, down, index, forward⟩, rfl⟩ := h
    refine ⟨⟨a1, a2, down, index, field16_lt r 6⟩, ?_⟩
    simp (disch := omega) only [encodeRoster, be8_one used, idxOf_of_named (by decide) atPort,
      idxOf_of_named (by decide) atKind, be8_field8, be16_field16, beFlag_field8, slice_append, slice_all]
  · cases h

theorem legal_of_decodePoll {r : Record} {n : Nat} (len : r.length = 2) (h : decodePoll r = some n) :
    n < 48 ∧ encodePoll n = r := by
  simp only [decodePoll, Option.ite_none_right_eq_some, Option.some.injEq] at h
  obtain ⟨⟨used, low⟩, rfl⟩ := h
  refine ⟨low, ?_⟩
  simp (disch := omega) only [encodePoll, be8_one used, be8_field8, slice_append, slice_all]

theorem fieldInt16_range (r : Record) (i : Nat) : -32768 ≤ fieldInt16 r i ∧ fieldInt16 r i ≤ 32767 := by
  have low := BitVec.le_toInt (BitVec.ofNat 16 (field16 r i))
  have high := BitVec.toInt_lt (x := BitVec.ofNat 16 (field16 r i))
  unfold fieldInt16
  omega

theorem legal_of_decodeSample {r : Record} {e : SampleEntry} (len : r.length = 11) (h : decodeSample r = some e) :
    SampleLegal e ∧ encodeSample e = r := by
  unfold decodeSample at h
  split at h
  · cases h
  · next kind named =>
    simp only [Option.ite_none_right_eq_some, Option.some.injEq] at h
    obtain ⟨⟨used, roster, field, signal, limits, notify⟩, rfl⟩ := h
    obtain ⟨low, high⟩ := fieldInt16_range r 6
    refine ⟨⟨roster, field, field8_lt r 2, signal, field16_lt r 4, low, high, limits⟩, ?_⟩
    simp (disch := omega) only [encodeSample, be8_one used, idxOf_of_named (by decide) named, be8_field8,
      be16_field16, be16_fieldInt16, beFlag_field8, slice_append, slice_all]

theorem legal_of_decodeLimits {r : Record} {l : LimitSet} (len : r.length = 13) (h : decodeLimits r = some l) :
    LimitsLegal l ∧ encodeLimits l = r := by
  simp only [decodeLimits, Option.ite_none_right_eq_some, Option.some.injEq] at h
  obtain ⟨⟨a, b, c, n1, n2, s⟩, rfl⟩ := h
  refine ⟨⟨a, b, c, field16_lt r 6, field16_lt r 8, n1, n2, s⟩, ?_⟩
  simp (disch := omega) only [encodeLimits, be8_field8, be16_field16, slice_append, slice_all]

theorem legal_of_decodeSense {r : Record} {e : SenseEntry} (len : r.length = 5) (h : decodeSense r = some e) :
    SenseLegal e ∧ encodeSense e = r := by
  unfold decodeSense at h
  split at h
  · next role active period edge atRole atActive atPeriod atEdge =>
    simp only [Option.ite_none_right_eq_some, Option.some.injEq] at h
    obtain ⟨index, rfl⟩ := h
    refine ⟨⟨index, List.mem_of_getElem? atPeriod⟩, ?_⟩
    simp (disch := omega) only [encodeSense, idxOf_of_named (by decide) atRole,
      idxOf_of_named (by decide) atActive, idxOf_of_named (by decide) atPeriod,
      idxOf_of_named (by decide) atEdge, be8_field8, slice_append, slice_all]
  · cases h

theorem legal_of_decodeDrive {r : Record} {e : DriveEntry} (len : r.length = 5) (h : decodeDrive r = some e) :
    DriveLegal e ∧ (encodeDrive e).take 3 = r.take 3 := by
  unfold decodeDrive at h
  split at h
  · next role active atRole atActive =>
    simp only [Option.ite_none_left_eq_some, Option.some.injEq] at h
    obtain ⟨valve, rfl⟩ := h
    refine ⟨⟨field8_lt r 1, fun isValve => ?_⟩, ?_⟩
    · exact Nat.lt_of_not_le fun high => valve ⟨isValve, high⟩
    · have first : slice r 0 3 = r.take 3 := rfl
      simp (disch := omega) only [encodeDrive, idxOf_of_named (by decide) atRole,
        idxOf_of_named (by decide) atActive, be8_field8, slice_append, ← first]
      exact List.take_left' (by simp [slice, len])
  · cases h

theorem legal_of_decodePsm {r : Record} {e : PsmEntry} (len : r.length = 8) (h : decodePsm r = some e) :
    PsmLegal e ∧ encodePsm e = r := by
  simp only [decodePsm, Option.ite_none_right_eq_some, Option.some.injEq] at h
  obtain ⟨⟨used, legal⟩, rfl⟩ := h
  refine ⟨legal, ?_⟩
  simp (disch := omega) only [encodePsm, be8_one used, be8_field8, be16_field16, slice_append, slice_all]

theorem legal_of_decodeBbm {r : Record} {e : BbmEntry} (len : r.length = 12) (h : decodeBbm r = some e) :
    BbmLegal e ∧ encodeBbm e = r := by
  simp only [decodeBbm, Option.ite_none_right_eq_some, Option.some.injEq] at h
  obtain ⟨⟨used, roster, capacity, charge, signals⟩, rfl⟩ := h
  refine ⟨⟨roster, capacity, field16_lt r 6, charge, signals⟩, ?_⟩
  simp (disch := omega) only [encodeBbm, be8_one used, be8_field8, be16_field16, be32_field32, slice_append,
    slice_all]

theorem legal_of_decodeTray {r : Record} {e : TrayEntry} (len : r.length = 13) (h : decodeTray r = some e) :
    TrayLegal e ∧ encodeTray e = r := by
  simp only [decodeTray, Option.ite_none_right_eq_some, Option.some.injEq] at h
  obtain ⟨⟨used, roster, allocation, inrush, t1, t2, rank, zone, line⟩, rfl⟩ := h
  refine ⟨⟨roster, allocation, inrush, t1, t2, field16_lt r 8, rank, ?_, ?_⟩, ?_⟩
  · simp only [Option.mem_def, Option.ite_none_left_eq_some, Option.some.injEq]
    omega
  · simp only [Option.mem_def, Option.ite_none_left_eq_some, Option.some.injEq]
    omega
  · simp (disch := omega) only [encodeTray, be8_one used, be8_field8, be16_field16, beOpt8_field8, slice_append,
      slice_all]

theorem legal_of_decodeStep {r : Record} {e : StepEntry} (len : r.length = 13) (h : decodeStep r = some e) :
    StepLegal e ∧ encodeStep e = r := by
  unfold decodeStep at h
  split at h
  · cases h
  · next kind named =>
    simp only [Option.ite_none_right_eq_some, Option.some.injEq] at h
    obtain ⟨⟨used, argument, timeout, next, alternate⟩, rfl⟩ := h
    have high := field8_lt r 2
    have low := field16_lt r (2 + 1)
    refine ⟨⟨?_, argument, timeout, next, alternate⟩, ?_⟩
    · simp only [field24]
      omega
    · simp (disch := omega) only [encodeStep, be8_one used, idxOf_of_named (by decide) named, be8_field8,
        be16_field16, be24_field24, be32_field32, slice_append, slice_all]

theorem byte_at {r : Record} {i : Nat} (h : i < r.length) : [r.getD i 0] = slice r i 1 := by
  rw [slice, List.drop_eq_getElem_cons h, List.getD_eq_getElem r 0 h]
  rfl

theorem layout_of_decodeGuard {r : Record} {e : GuardEntry} (len : r.length = 4) (h : decodeGuard r = some e) :
    encodeGuard e = r := by
  unfold decodeGuard at h
  split at h
  · next kind action atKind atAction =>
    simp only [Option.ite_none_right_eq_some, Option.some.injEq] at h
    obtain ⟨used, rfl⟩ := h
    simp (disch := omega) only [encodeGuard, be8_one used, byte_at, idxOf_of_named (by decide) atKind,
      idxOf_of_named (by decide) atAction, be8_field8, slice_append, slice_all]
  · cases h

theorem legal_of_pointAt {r : Record} {i : Nat} {p : PointRef} (room : i + 1 < r.length)
    (h : pointAt r i = some p) : PointLegal p ∧ bePoint p = slice r i 2 := by
  have number := be8_field8 room
  have first : ∀ {n}, field8 r i = n → be8 n = slice r i 1 := fun kind => kind ▸ be8_field8 (by omega)
  unfold pointAt at h
  split at h
  · next signal =>
    obtain ⟨kind, low⟩ := signal
    cases h
    refine ⟨low, ?_⟩
    rw [bePoint, number, first kind, slice_append rfl]
  · split at h
    · next line =>
      obtain ⟨kind, low⟩ := line
      cases h
      refine ⟨low, ?_⟩
      rw [bePoint, number, first kind, slice_append rfl]
    · cases h

/-- Points that are read one after another are legal, and the record lays them out so. -/
theorem legal_of_points {r : Record} {points : List PointRef} {n i : Nat} (room : i + 2 * n ≤ r.length)
    (h : ((List.range n).map fun j => pointAt r (i + 2 * j)) = points.map some) :
    points.length = n ∧ (∀ p ∈ points, PointLegal p) ∧ (points.map bePoint).flatten = slice r i (2 * n) := by
  induction n generalizing points i with
  | zero =>
    cases points with
    | nil => exact ⟨rfl, fun _ none => absurd none List.not_mem_nil, by simp [slice]⟩
    | cons p rest => cases h
  | succ n ih =>
    cases points with
    | nil => simp [List.range_succ_eq_map] at h
    | cons p rest =>
      simp only [List.range_succ_eq_map, List.map_cons, List.map_map, List.cons.injEq] at h
      obtain ⟨first, others⟩ := h
      obtain ⟨legal, layout⟩ := legal_of_pointAt (by omega) first
      have moved : ((List.range n).map fun j => pointAt r (i + 2 + 2 * j)) = rest.map some := by
        rw [← others]
        exact List.map_congr_left fun j _ => congrArg (pointAt r) (by simp only [Nat.succ_eq_add_one]; omega)
      obtain ⟨length, legals, layouts⟩ := ih (by omega) moved
      refine ⟨congrArg (· + 1) length, List.forall_mem_cons.mpr ⟨legal, legals⟩, ?_⟩
      rw [List.map_cons, List.flatten_cons, layout, layouts, Nat.mul_zero, Nat.add_zero, slice_append rfl]
      congr 1
      omega

theorem legal_of_decodeZone {r : Record} {e : ZoneEntry} (len : r.length = 21) (h : decodeZone r = some e) :
    ZoneLegal e ∧ (encodeZone e).take (2 + 2 * e.points.length) = r.take (2 + 2 * e.points.length) ∧
      (encodeZone e).drop 18 = r.drop 18 := by
  unfold decodeZone at h
  split at h
  · next ranges =>
    obtain ⟨used, few, c1, c2, time⟩ := ranges
    split at h
    · next points read =>
      cases h
      obtain ⟨number, legal, layout⟩ := legal_of_points (by omega) (mapM_eq_some_iff.mp read)
      have few' : points.length ≤ 8 := by omega
      refine ⟨⟨few', legal, c1, c2, time⟩, ?_, ?_⟩
      · have first : slice r 0 (2 + 2 * points.length) = r.take (2 + 2 * points.length) := rfl
        have front : beFlag true ++ be8 points.length ++ (points.map bePoint).flatten =
            r.take (2 + 2 * points.length) := by
          rw [layout, number, show beFlag true = be8 1 from rfl, be8_one used (by omega),
            be8_field8 (by omega), slice_append rfl, slice_append rfl, ← number, first]
        simp only [encodeZone, layZone, front, List.append_assoc]
        exact List.take_left' (by simp [len]; omega)
      · have last : slice r 18 3 = r.drop 18 := List.take_of_length_le (by simp [len])
        simp only [encodeZone_eq, be8_field8 (r := r) (i := 18) (by omega),
          be16_field16 (r := r) (i := 19) (by omega), slice_append (r := r) (i := 18) rfl, last]
        exact List.drop_left' (l₁ := _ :: _ :: zonePlaces _)
          (congrArg (· + 2) (length_zonePlaces few'))
    · cases h
  · cases h

/-! ### Which entries fail -/

theorem sharesKey_iff {records : List Record} {i : Nat} {key : Record → Nat} :
    sharesKey records i key = true ↔ ∃ j < records.length, j ≠ i ∧ field8 (recordOf records j) 0 = 1 ∧
      key (recordOf records j) = key (recordOf records i) := by
  simp [sharesKey, flagged, and_assoc]

/-- Two bytes are the same number where each byte is the same. -/
theorem two_bytes_eq_iff (u v : Record) (k : Nat) :
    field8 u k * 256 + field8 u (k + 1) = field8 v k * 256 + field8 v (k + 1) ↔
      field8 u k = field8 v k ∧ field8 u (k + 1) = field8 v (k + 1) := by
  have := field8_lt u (k + 1)
  have := field8_lt v (k + 1)
  omega

theorem usedEntryFails_iff {r : Record} {fails : Bool} {bad : Prop} (h : fails = true ↔ bad) :
    usedEntryFails r fails = true ↔ field8 r 0 ≠ 0 ∧ (field8 r 0 = 1 → bad) := by
  unfold usedEntryFails
  split
  · next zero => simp [zero]
  · next used =>
    split
    · next one =>
      have one : field8 r 0 = 1 := of_decide_eq_true one
      simp [one, h]
    · next other =>
      have other : field8 r 0 ≠ 1 := fun h => other (decide_eq_true h)
      simp [used, other]

theorem rosterIs_iff {x : Shelf} {roster i : Nat} {kind : ModuleKind} :
    rosterIs x roster kind i = true ↔ ∃ m, rosterAt x roster = some m ∧ m.kind = kind ∧ m.index = i := by
  simp [rosterIs, Option.any_eq_true]

theorem portFails_iff (records : List Record) (i : Nat) :
    portFails records i = true ↔ ∀ e, decodePort (recordOf records i) = some e → e.pulse = true ∧ i ≠ 2 := by
  unfold portFails
  cases decodePort (recordOf records i) <;> simp

theorem kindPort_eq (k : ModuleKind) : kindPort k = if k = .psm ∨ k = .bbm then .sp else .tp := by
  cases k <;> rfl

theorem rosterFails_iff (records : List Record) (i : Nat) :
    rosterFails records i = true ↔
      (∀ e, decodeRoster (recordOf records i) = some e →
        e.port ≠ if e.kind = .psm ∨ e.kind = .bbm then .sp else .tp) ∨
      sharesKey records i (fun x => field8 x 1) = true ∨
      sharesKey records i (fun x => field8 x 3 * 256 + field8 x 4) = true := by
  simp only [rosterFails]
  cases decodeRoster (recordOf records i) <;> simp [kindPort_eq, or_assoc]

theorem pollFails_iff (records : List Record) (i : Nat) :
    pollFails records i = true ↔ decodePoll (recordOf records i) = none ∨
      ∃ j < records.length, j ≠ i ∧ j / 32 = i / 32 ∧ field8 (recordOf records j) 0 = 1 ∧
        field8 (recordOf records j) 1 = field8 (recordOf records i) 1 := by
  simp [pollFails, flagged, and_assoc]

theorem sampleFails_iff (records : List Record) (i : Nat) :
    sampleFails records i = true ↔ decodeSample (recordOf records i) = none ∨
      sharesKey records i (fun x => field8 x 3) = true ∨
      sharesKey records i (fun x => field8 x 1 * 256 + field8 x 2) = true := by
  simp [sampleFails, or_assoc]

theorem lineFails_iff (records : List Record) (i : Nat) :
    lineFails records i = true ↔
      if i < 16 then
        ∀ e, decodeSense (recordOf records i) = some e → (e.role = .inputLoss ∨ e.role = .trayGood) ∧
          ∃ j < 16, j ≠ i ∧ (recordOf records j).take 2 = (recordOf records i).take 2
      else decodeDrive (recordOf records i) = none := by
  have sense : Config.senseCount = 16 := rfl
  simp only [lineFails, sense]
  split
  · cases decodeSense (recordOf records i) <;> simp [sharesLine, sense]
  · exact Option.isNone_iff_eq_none

theorem psmFails_iff (x : Shelf) (records : List Record) (i : Nat) :
    psmFails x records i = true ↔ ∀ e, decodePsm (recordOf records i) = some e →
      ¬(∃ m, rosterAt x e.roster = some m ∧ m.kind = .psm ∧ m.index = i) ∨ e.voltage = e.current ∨
        sharesKey records i (fun x => field8 x 1) = true := by
  simp only [psmFails, ← rosterIs_iff]
  cases decodePsm (recordOf records i) <;> simp [or_assoc]

theorem bbmFails_iff (x : Shelf) (records : List Record) (i : Nat) :
    bbmFails x records i = true ↔ ∀ e, decodeBbm (recordOf records i) = some e →
      ¬(∃ m, rosterAt x e.roster = some m ∧ m.kind = .bbm ∧ m.index = i) ∨ e.energy = e.discharge ∨
        sharesKey records i (fun x => field8 x 1) = true := by
  simp only [bbmFails, ← rosterIs_iff]
  cases decodeBbm (recordOf records i) <;> simp [or_assoc]

theorem trayFails_iff (x : Shelf) (records : List Record) (i : Nat) :
    trayFails x records i = true ↔ ∀ e, decodeTray (recordOf records i) = some e →
      ¬(∃ m, rosterAt x e.roster = some m ∧ m.kind = .tray ∧ m.index = i) ∨
        sharesKey records i (fun x => field8 x 1) = true ∨
        sharesKey records i (fun x => field8 x 10) = true := by
  simp only [trayFails, ← rosterIs_iff]
  cases decodeTray (recordOf records i) <;> simp [or_assoc]

theorem zoneFails_iff (records : List Record) (i : Nat) :
    zoneFails records i = true ↔ ∀ e, decodeZone (recordOf records i) = some e →
      ¬e.points.Nodup ∨ (e.confirmTime = 0 ∧ e.points.length < e.confirmCount) := by
  simp only [zoneFails]
  cases decodeZone (recordOf records i) <;> simp

theorem guardFails_iff (records : List Record) (i : Nat) :
    guardFails records i = true ↔ ∀ e, decodeGuard (recordOf records i) = some e →
      (e.kind = .tray ∧ (e.code = 0x01 ∨ e.code = 0x02)) ∨
      (e.kind = .bbm ∧ (e.code = 0x10 ∨ e.code = 0x11 ∨ e.code = 0x12)) ∨
      (e.action = .supplyCheck ∧ e.kind ≠ .psm) ∨
      sharesKey records i (fun x => field8 x 1 * 256 + field8 x 2) = true := by
  simp only [guardFails, builtIn]
  cases decodeGuard (recordOf records i) with
  | none => simp
  | some e =>
    simp only [Option.some.injEq, forall_eq', Bool.or_eq_true, Bool.and_eq_true, decide_eq_true_eq, or_assoc]
    exact Iff.rfl

/-- Which entries fail, table by table. -/
theorem entryFails_iff (x : Shelf) (t : Nat) (records : List Record) (i : Nat) (ht : t ≤ 12) :
    entryFails x t records i = true ↔ EntryFails x t records i := by
  match t, ht with
  | 0, _ => exact Option.isNone_iff_eq_none
  | 1, _ => exact portFails_iff records i
  | 2, _ =>
    refine usedEntryFails_iff ?_
    simp only [rosterFails_iff, sharesKey_iff, two_bytes_eq_iff _ _ 3]
  | 3, _ => exact usedEntryFails_iff (pollFails_iff records i)
  | 4, _ =>
    refine usedEntryFails_iff ?_
    simp only [sampleFails_iff, sharesKey_iff, two_bytes_eq_iff _ _ 1]
  | 5, _ => exact Option.isNone_iff_eq_none
  | 6, _ => exact lineFails_iff records i
  | 7, _ =>
    refine usedEntryFails_iff ?_
    simp only [psmFails_iff, sharesKey_iff]
  | 8, _ =>
    refine usedEntryFails_iff ?_
    simp only [bbmFails_iff, sharesKey_iff]
  | 9, _ =>
    refine usedEntryFails_iff ?_
    simp only [trayFails_iff, sharesKey_iff]
  | 10, _ => exact usedEntryFails_iff (zoneFails_iff records i)
  | 11, _ => exact usedEntryFails_iff Option.isNone_iff_eq_none
  | 12, _ =>
    refine usedEntryFails_iff ?_
    simp only [guardFails_iff, sharesKey_iff, two_bytes_eq_iff _ _ 1]

/-! ### Tables and their defaults -/

theorem recordOf_defaultTable {t i : Nat} (h : i < tableSize t) :
    recordOf (defaultTable t) i = defaultRecord t i := by
  simp [recordOf, defaultTable, List.getD_eq_getElem?_getD, List.getElem?_range h]

theorem recordOf_default : ∀ t < 13, ∀ i < tableSize t,
    recordOf (defaultTable t) i =
      match t with
      | 0 => encodePolicy defaultPolicy
      | 1 => encodePort (defaultPort i)
      | 5 => encodeLimits defaultLimits
      | 6 => if i < 16 then encodeSense defaultSense else encodeDrive defaultDrive
      | 10 => [0, 0] ++ List.replicate 16 255 ++ [0, 0, 0]
      | _ => List.replicate (recordLength t) 0 := by
  intro t ht i h
  rw [recordOf_defaultTable h]
  match t, ht with
  | 0, _ | 1, _ | 2, _ | 3, _ | 4, _ | 5, _ | 6, _ | 7, _ | 8, _ | 9, _ | 10, _ | 11, _ | 12, _ => rfl

theorem defaultPort_module {i : Nat} (h : i = 1 ∨ i = 2) : defaultPort i = ⟨1, 4, .even, 1, 4, false, true, 20⟩ := by
  obtain rfl | rfl := h <;> rfl

/-- Settles O17, record by record and table by table. -/
theorem recordsKeepEveryField : Obligations.RecordsKeepEveryField :=
  ⟨fun _ h => ⟨decodePolicy_encodePolicy h, by simp [encodePolicy, laid_out]⟩,
    fun _ h => ⟨decodePort_encodePort h, rfl⟩,
    fun _ h => ⟨decodeRoster_encodeRoster h, rfl⟩, fun _ h => ⟨decodePoll_encodePoll h, rfl⟩,
    fun _ h => ⟨decodeSample_encodeSample h, rfl⟩, fun _ h => ⟨decodeLimits_encodeLimits h, rfl⟩,
    fun _ h => ⟨decodeSense_encodeSense h, rfl⟩, fun _ h => ⟨decodeDrive_encodeDrive h, rfl⟩,
    fun _ h => ⟨decodePsm_encodePsm h, rfl⟩, fun _ h => ⟨decodeBbm_encodeBbm h, rfl⟩,
    fun _ h => ⟨decodeTray_encodeTray h, by simp [encodeTray, laid_out]⟩,
    fun _ h => ⟨decodeZone_encodeZone h, length_encodeZone h.1⟩,
    fun _ h => ⟨decodeStep_encodeStep h, rfl⟩, fun e => ⟨decodeGuard_encodeGuard e, rfl⟩,
    fun _ _ => legal_of_decodePolicy, fun _ _ => legal_of_decodePort, fun _ _ => legal_of_decodeRoster,
    fun _ _ => legal_of_decodePoll, fun _ _ => legal_of_decodeSample, fun _ _ => legal_of_decodeLimits,
    fun _ _ => legal_of_decodeSense, fun _ _ => legal_of_decodeDrive, fun _ _ => legal_of_decodePsm,
    fun _ _ => legal_of_decodeBbm, fun _ _ => legal_of_decodeTray, fun _ _ => legal_of_decodeZone,
    fun _ _ => legal_of_decodeStep, fun _ _ => layout_of_decodeGuard, entryFails_iff,
    fun x i => ⟨fun _ => rfl, rfl, rfl, rfl, rfl, rfl, rfl, rfl, rfl, rfl, rfl, rfl, rfl,
      congrArg (fun k => decodePoll (recordAt x 3 k)) (Nat.zero_add i), rfl, fun _ => rfl⟩,
    rfl, rfl, rfl, rfl, fun _ => defaultPort_module, rfl, rfl, rfl,
    fun t ht => ⟨by simp [defaultTable], recordOf_default t ht⟩⟩

end Sys2Proof.Machine
end

section
/-! PROOF. The Signal Screen (R13 to R23): conversion, samples, reports, staleness and the applies of the Sample Map and
the Limit Sets. -/

namespace Sys2Proof.Machine

/-! ### Conversion and one signal -/

theorem convert_spec (raw gain : Nat) (offset : Int) :
    let sum : Int := ((raw * gain + 128) / 256 : Nat) + offset
    (sum < 0 → convert raw gain offset = 0) ∧ (65535 < sum → convert raw gain offset = 65535) ∧
      (0 ≤ sum → sum ≤ 65535 → (convert raw gain offset : Int) = sum) := by
  intro sum
  change (sum < 0 → min sum.toNat 65535 = 0) ∧ (65535 < sum → min sum.toNat 65535 = 65535) ∧
    (0 ≤ sum → sum ≤ 65535 → ((min sum.toNat 65535 : Nat) : Int) = sum)
  omega

/-- Agreement moves a signal's band and count alone. -/
theorem agree_keeps (n : Nat) (c : Band) (g : Signal) :
    (agree n c g).value = g.value ∧ (agree n c g).last = g.last ∧ (agree n c g).stale = g.stale := by
  simp only [agree]
  generalize (if g.pending = some c then g.count + 1 else 1) = count
  split
  · exact ⟨rfl, rfl, rfl⟩
  · split
    · exact ⟨rfl, rfl, rfl⟩
    · exact ⟨rfl, rfl, rfl⟩

theorem sampleSignal_marks (l : LimitSet) (v : Nat) (time : Time) (g : Signal) :
    (sampleSignal l v time g).value = v ∧ (sampleSignal l v time g).last = time ∧
      (sampleSignal l v time g).stale = false := by
  unfold sampleSignal
  split
  · exact ⟨rfl, rfl, rfl⟩
  · exact agree_keeps _ _ _

/-- SIGNAL-BAND, where the band changes and the entry notifies (R22). -/
def afterBand (n : Nat) (old new : Signal) (notify : Bool) (x : Shelf) : List Notice :=
  if notify = true ∧ old.band ≠ new.band then
    offerNotice
      { time := x.shelfTime, source := 1, index := n, code := 13, more := false
        word1 := twoItems (bandNumber old.band) (bandNumber new.band), word2 := new.value } x.notices
  else x.notices

/-- A signal's record is replaced, with the notice of R22. -/
theorem putSignal_eq {n : Nat} (hn : n < 128) (notify : Bool) (f : Signal → Signal) (x : Shelf) :
    putSignal n notify f x =
      { x with
        signals := vset x.signals n (f (vget x.signals n))
        notices := afterBand n (vget x.signals n) (f (vget x.signals n)) notify x } := by
  have read : vget (vmod x.signals n f) n = f (vget x.signals n) := by rw [vget_vmod, if_pos ⟨rfl, hn⟩]
  simp only [putSignal, bandNotice, afterBand, read, Bool.and_eq_true, decide_eq_true_eq]
  split
  · rfl
  · rfl

/-- The Signal Screen's own records change, and the notices that wait; nothing else does. -/
abbrev SignalsOnly (x y : Shelf) : Prop := y = { x with signals := y.signals, notices := y.notices }

theorem SignalsOnly.refl (x : Shelf) : SignalsOnly x x := rfl

theorem SignalsOnly.trans {x y z : Shelf} (first : SignalsOnly x y) (second : SignalsOnly y z) :
    SignalsOnly x z := by
  unfold SignalsOnly at *
  rw [second, first]

theorem signalsOnly_foldl {α : Type} {f : Shelf → α → Shelf} (hf : ∀ x a, SignalsOnly x (f x a)) (l : List α)
    (x : Shelf) : SignalsOnly x (l.foldl f x) := by
  induction l generalizing x with
  | nil => exact .refl x
  | cons a l ih => exact (hf x a).trans (ih (f x a))

theorem signalsOnly_putSignal (n : Nat) (notify : Bool) (f : Signal → Signal) (x : Shelf) :
    SignalsOnly x (putSignal n notify f x) := by
  simp only [putSignal, bandNotice]
  split
  · rfl
  · rfl

theorem signalsOnly_applySample (e : SampleEntry) (raw : Nat) (time : Time) (x : Shelf) :
    SignalsOnly x (applySample e raw time x) := signalsOnly_putSignal _ _ _ _

theorem signalsOnly_staleSignal (n : Nat) (notify : Bool) (x : Shelf) :
    SignalsOnly x (staleSignal n notify x) := by
  unfold staleSignal
  split
  · exact .refl x
  · exact signalsOnly_putSignal _ _ _ _

theorem SignalsOnly.tables {x y : Shelf} (h : SignalsOnly x y) : y.tables = x.tables := by
  have same := congrArg Shelf.tables h
  exact same

theorem SignalsOnly.psms {x y : Shelf} (h : SignalsOnly x y) : y.psms = x.psms := by
  have same := congrArg Shelf.psms h
  exact same

theorem applySample_spec (entry : SampleEntry) (raw : Nat) (time : Time) (x : Shelf) (h : entry.signal < 128) :
    let y := applySample entry raw time x
    let old := vget x.signals entry.signal
    let new := sampleSignal (limitsAt x entry.limitSet) (convert raw entry.gain entry.offset) time old
    y.signals = vset x.signals entry.signal new ∧
      (new.value = convert raw entry.gain entry.offset ∧ new.last = time ∧ new.stale = false) ∧
      y = { x with signals := y.signals, notices := y.notices } ∧
      y.notices =
        if entry.notify = true ∧ old.band ≠ new.band then
          offerNotice
            { time := x.shelfTime, source := 1, index := entry.signal, code := 13, more := false
              word1 := twoItems (bandNumber old.band) (bandNumber new.band), word2 := new.value }
            x.notices
        else x.notices := by
  have put := putSignal_eq h entry.notify
    (sampleSignal (limitsAt x entry.limitSet) (convert raw entry.gain entry.offset) time) x
  exact ⟨congrArg Shelf.signals put, sampleSignal_marks _ _ _ _, signalsOnly_applySample _ _ _ _,
    congrArg Shelf.notices put⟩

/-! ### The status words of a report -/

theorem psmStatusWord_eq (w : Nat) (r : Psm) :
    psmStatusWord w r = { r with
      status := some ⟨w.testBit 0, w.testBit 1, w.testBit 2⟩
      inputHold := if w.testBit 0 = false then true
        else if r.lineActive = false then false else r.inputHold } := by
  have hold : (if bitInputOk w then r.inputHold && r.lineActive else true) =
      if w.testBit 0 = false then true else if r.lineActive = false then false else r.inputHold := by
    unfold bitInputOk
    cases w.testBit 0 <;> cases r.lineActive <;> simp
  rw [psmStatusWord, hold]
  rfl

/-- An entry names a Roster entry. -/
theorem any_names_iff {α : Type} {o : Option α} {f : α → Nat} {r : Nat} :
    (o.any fun e => decide (f e = r)) = true ↔ o.map f = some r := by
  cases o <;> simp

theorem deliverStatus_spec (x : Shelf) (entry : RosterEntry) (r : Nat) (words : List Nat) (time : Time) :
    let i := entry.index
    let y := deliverStatus entry r words time x
    (entry.kind = .leakNode → y = x) ∧
    (entry.kind = .psm →
      y = if (psmAt x i).map (·.roster) = some r then
          words.foldl (fun z w => { z with psms := vmod z.psms i (psmStatusWord w) }) x
        else x) ∧
    (entry.kind = .bbm →
      y = if (bbmAt x i).map (·.roster) = some r then bbmReport i words x else x) ∧
    (entry.kind = .tray →
      y = if (trayAt x i).map (·.roster) = some r then
          words.foldl (fun z w => trayStatus i w time z) x
        else x) := by
  refine ⟨?_, ?_, ?_, ?_⟩ <;> intro kind <;> simp only [deliverStatus, kind, any_names_iff]
  rfl

/-! ### What feeds a signal -/

theorem mem_mapped {x : Shelf} {e : SampleEntry} :
    e ∈ (List.range Config.signalCount).filterMap (sampleAt x) ↔ ∃ i < 128, sampleAt x i = some e := by
  simp [Config.signalCount]

theorem signal_lt {x : Shelf} {i : Nat} {e : SampleEntry} (h : sampleAt x i = some e) : e.signal < 128 := by
  have read : decodeSample (recordAt x 4 i) = some e := h
  unfold decodeSample at read
  split at read
  · cases read
  · split at read
    · next ranges =>
      cases read
      obtain ⟨_, _, _, low, _⟩ := ranges
      exact low
    · cases read

theorem feedingIn_spec (records : List Record) (n : Nat) :
    (∀ e, feedingIn records n = some e → e.signal = n ∧ ∃ r ∈ records, decodeSample r = some e) ∧
      (feedingIn records n = none → ∀ r ∈ records, ∀ e, decodeSample r = some e → e.signal ≠ n) := by
  constructor
  · intro e h
    obtain ⟨r, hr, h⟩ := List.exists_of_findSome?_eq_some h
    split at h
    · next e' read =>
      split at h
      · next names =>
        cases h
        exact ⟨names, r, hr, read⟩
      · cases h
    · cases h
  · intro h r hr e read names
    have := List.findSome?_eq_none_iff.mp h r hr
    simp [read, names] at this

theorem feeding_spec (x : Shelf) (n : Nat) :
    (∀ e, feeding x n = some e → e.signal = n ∧ ∃ i < 128, sampleAt x i = some e) ∧
      (feeding x n = none → ∀ i < 128, ∀ e, sampleAt x i = some e → e.signal ≠ n) := by
  constructor
  · intro e h
    obtain ⟨i, hi, h⟩ := List.exists_of_findSome?_eq_some h
    split at h
    · next e' read =>
      split at h
      · next names =>
        cases h
        exact ⟨names, i, List.mem_range.mp hi, read⟩
      · cases h
    · cases h
  · intro h i hi e read names
    have := List.findSome?_eq_none_iff.mp h i (List.mem_range.mpr hi)
    simp [read, names] at this

theorem msTime_eq (ms : Nat) : msTime ms = BitVec.ofNat 32 (1000 * ms) := congrArg _ (Nat.mul_comm ms 1000)

theorem staleDue_iff (x : Shelf) (n : Nat) :
    staleDue x n = true ↔ ∃ e, feeding x n = some e ∧
      let ms := (limitsAt x e.limitSet).stale
      ms ≠ 0 ∧ (vget x.signals n).stale = false ∧ (vget x.signals n).band ≠ .unknown ∧
        reached x.shelfTime ((vget x.signals n).last + BitVec.ofNat 32 (1000 * ms)) = true := by
  simp only [staleDue, msTime_eq]
  cases feeding x n <;> simp [and_assoc]

theorem mem_fedFrom (x : Shelf) (r : Nat) (e : SampleEntry) :
    e ∈ fedFrom x r ↔ e.roster = r ∧ ∃ i < 128, sampleAt x i = some e := by
  rw [fedFrom, List.mem_filter, mem_mapped, decide_eq_true_eq, and_comm]

/-! ### The hand-on of value updates and band changes -/

/-- The Module Monitor's records change, the notices that wait, and what it tells the Balance Unit. -/
abbrev MonitorOnly (x y : Shelf) : Prop :=
  y = { x with psms := y.psms, notices := y.notices, causes := y.causes, raised := y.raised }

theorem MonitorOnly.refl (x : Shelf) : MonitorOnly x x := rfl

theorem MonitorOnly.trans {x y z : Shelf} (first : MonitorOnly x y) (second : MonitorOnly y z) :
    MonitorOnly x z := by
  unfold MonitorOnly at *
  rw [second, first]

theorem psmTo_eq (i : Nat) (new : PsmState) (reason : PsmReason) (cause : Cause) (x : Shelf) :
    MonitorOnly x (psmTo i new reason cause x) ∧
      (psmTo i new reason cause x).psms =
        vmod x.psms i fun r => { r with state := new, reason, stateTime := x.shelfTime } := by
  constructor
  · unfold psmTo
    rw [changed_eq]
    rfl
  · simp only [psmTo, changed_psms, post_psms, editPsm]

theorem checkPsm_cases (i : Nat) (trigger : PsmTrigger) (x : Shelf) :
    checkPsm i trigger x = x ∨ ∃ new reason cause, checkPsm i trigger x = psmTo i new reason cause x := by
  simp only [checkPsm]
  split
  · exact .inl rfl
  · generalize (if trigger = .line then Cause.psmLine else .psmState) = cause
    split
    · exact .inl rfl
    · exact .inr ⟨_, _, cause, rfl⟩

theorem monitorOnly_checkPsm (i : Nat) (trigger : PsmTrigger) (x : Shelf) :
    MonitorOnly x (checkPsm i trigger x) := by
  obtain same | ⟨new, reason, cause, moved⟩ := checkPsm_cases i trigger x
  · rw [same]
  · rw [moved]
    exact (psmTo_eq i new reason cause x).1

theorem vget_psms_checkPsm_ne {i j : Nat} (trigger : PsmTrigger) (x : Shelf) (h : i ≠ j) :
    vget (checkPsm i trigger x).psms j = vget x.psms j := by
  obtain same | ⟨new, reason, cause, moved⟩ := checkPsm_cases i trigger x
  · rw [same]
  · rw [moved, (psmTo_eq i new reason cause x).2, vget_vmod, if_neg fun ⟨same, _⟩ => h same]

/-- The state of a PSM after its evaluation is the one R45 finds. -/
theorem state_checkPsm {i : Nat} {x : Shelf} {g : PsmEntry} (hi : i < 6) (entry : psmAt x i = some g)
    (trigger : PsmTrigger) :
    (vget (checkPsm i trigger x).psms i).state =
      (evaluatePsm (ownedPresence x g.roster .psm i) (vget x.psms i) (vget x.signals g.temperature).band
        (vget x.signals g.voltage).band trigger).1 := by
  simp only [checkPsm, entry]
  split
  · next same => exact same.symm
  · rw [(psmTo_eq _ _ _ _ _).2, vget_vmod, if_pos ⟨rfl, hi⟩]

theorem monitorOnly_checkPsms (trigger : PsmTrigger) (is : List Nat) (x : Shelf) :
    MonitorOnly x (checkPsms trigger is x) := by
  induction is generalizing x with
  | nil => exact .refl x
  | cons i is ih => exact (monitorOnly_checkPsm i trigger x).trans (ih _)

theorem vget_psms_checkPsms (trigger : PsmTrigger) {is : List Nat} {i : Nat} (h : i ∉ is) (x : Shelf) :
    vget (checkPsms trigger is x).psms i = vget x.psms i := by
  induction is generalizing x with
  | nil => rfl
  | cons j is ih =>
    obtain ⟨other, rest⟩ := List.ne_and_not_mem_of_not_mem_cons h
    exact (ih rest _).trans (vget_psms_checkPsm_ne trigger x (Ne.symm other))

theorem psmAt_congr {x y : Shelf} (h : y.tables = x.tables) (i : Nat) : psmAt y i = psmAt x i := by
  simp only [psmAt, recordAt, h]

theorem state_checkPsms {trigger : PsmTrigger} {is : List Nat} (once : is.Nodup) {i : Nat} (hi : i < 6)
    (member : i ∈ is) {x : Shelf} {g : PsmEntry} (entry : psmAt x i = some g) :
    (vget (checkPsms trigger is x).psms i).state =
      (evaluatePsm (ownedPresence x g.roster .psm i) (vget x.psms i) (vget x.signals g.temperature).band
        (vget x.signals g.voltage).band trigger).1 := by
  induction is generalizing x with
  | nil => exact absurd member List.not_mem_nil
  | cons j is ih =>
    obtain ⟨fresh, once⟩ := List.nodup_cons.mp once
    by_cases same : i = j
    · subst same
      exact (congrArg Psm.state (vget_psms_checkPsms trigger fresh _)).trans (state_checkPsm hi entry trigger)
    · have only := monitorOnly_checkPsm j trigger x
      have rest := ih once (List.mem_of_ne_of_mem same member)
        (entry ▸ psmAt_congr (congrArg Shelf.tables only) i : psmAt (checkPsm j trigger x) i = some g)
      rw [vget_psms_checkPsm_ne trigger x (Ne.symm same)] at rest
      rw [only] at rest
      rw [show checkPsms trigger (j :: is) x = checkPsms trigger is (checkPsm j trigger x) from rfl, only]
      exact rest

theorem energyUpdate_eq (x : Shelf) :
    energyUpdate x = { x with ride := (energyUpdate x).ride, deferred := (energyUpdate x).deferred } := by
  unfold energyUpdate
  split
  · unfold reanchor
    rw [setRide_eq]
  · rfl

theorem energyUpdate_ride (x : Shelf) :
    (energyUpdate x).ride =
      if rideNormal x then { x.ride with eRem := min x.ride.eCap (storedEnergy x), r := 0 } else x.ride := by
  unfold energyUpdate
  split
  · exact congrArg Shelf.ride (setRide_eq _ x)
  · rfl

/-- What the energy update makes of the ride record hangs on no PSM's record, notice or cause. -/
theorem energyUpdate_ride_congr {x y : Shelf} (h : MonitorOnly x y) :
    (energyUpdate y).ride = (energyUpdate x).ride := by
  have ride : y.ride = x.ride := by
    have same := congrArg Shelf.ride h
    exact same
  have stored : storedEnergy y = storedEnergy x := by
    rw [h]
    rfl
  rw [energyUpdate_ride, energyUpdate_ride, rideNormal, rideNormal, ride, stored]

theorem changed_none (x : Shelf) : changed [] x = x := rfl

theorem mem_causes_foldl_addCause {c : Cause} (cs : List Cause) (x : Shelf) :
    c ∈ (cs.foldl addCause x).causes ↔ c ∈ x.causes ∨ c ∈ cs := by
  induction cs generalizing x with
  | nil => simp
  | cons d cs ih =>
    have one : c ∈ (addCause x d).causes ↔ c ∈ x.causes ∨ c = d := by
      unfold addCause
      split
      · next known =>
        exact ⟨.inl, fun h => h.elim id fun same => same ▸ known⟩
      · simp
    rw [List.foldl_cons, ih, one, List.mem_cons, or_assoc]

/-- A cause told to the Balance Unit waits with its recomputation. -/
theorem told_changed {c : Cause} {cs : List Cause} (h : c ∈ cs) (x : Shelf) :
    c ∈ (changed cs x).causes ∧ Task.balance ∈ (changed cs x).raised := by
  rw [changed, if_neg (List.ne_nil_of_mem h)]
  exact ⟨(mem_causes_foldl_addCause cs x).mpr (.inr h), List.mem_append_right _ (List.mem_singleton_self _)⟩

/-- The Module Monitor's part of a hand-on: at once for a report and within an apply (R27, R177). -/
def checkedNow (h : HandOn) (trigger : PsmTrigger) (x : Shelf) : Shelf :=
  if trigger = .report ∨ x.applying ≠ none then checkPsms trigger (psmsWithBand x h) x else x

/-- The ride record's part of a hand-on (R67). -/
def energyTaken (h : HandOn) (x y : Shelf) : Shelf := if energyTouched x h then energyUpdate y else y

/-- What a hand-on tells the Balance Unit, with the PSMs and zones that are still to be evaluated. -/
def handedRest (h : HandOn) (trigger : PsmTrigger) (x y : Shelf) : Shelf :=
  let z := changed (signalCauses x h) y
  let z := if ¬(trigger = .report ∨ x.applying ≠ none) ∧ psmsWithBand x h ≠ [] then
    emit (.psmBands (psmsWithBand x h)) z else z
  if leakTouched h then emit .zones z else z

theorem bbmAt_congr {x y : Shelf} (h : y.tables = x.tables) (k : Nat) : bbmAt y k = bbmAt x k := by
  simp only [bbmAt, recordAt, h]

theorem signalCauses_congr {x y : Shelf} (tables : y.tables = x.tables) (h : HandOn) :
    signalCauses y h = signalCauses x h := by
  simp only [signalCauses, funext (psmAt_congr tables), funext (bbmAt_congr tables)]

theorem energyTouched_congr {x y : Shelf} (tables : y.tables = x.tables) (h : HandOn) :
    energyTouched y h = energyTouched x h := by
  simp only [energyTouched, funext (bbmAt_congr tables)]

theorem monitorOnly_checkedNow (h : HandOn) (trigger : PsmTrigger) (x : Shelf) :
    MonitorOnly x (checkedNow h trigger x) := by
  unfold checkedNow
  split
  · exact monitorOnly_checkPsms _ _ _
  · exact .refl x

theorem tables_checkedNow (h : HandOn) (trigger : PsmTrigger) (x : Shelf) :
    (checkedNow h trigger x).tables = x.tables := by
  have same := congrArg Shelf.tables (monitorOnly_checkedNow h trigger x)
  exact same

theorem tables_energyTaken (h : HandOn) (x y : Shelf) : (energyTaken h x y).tables = y.tables := by
  unfold energyTaken
  split
  · rw [energyUpdate_eq]
  · rfl

/-- A hand-on in its three parts: the Module Monitor, the Ride-Through Controller, and what is told. -/
theorem handOnSignals_eq (h : HandOn) (trigger : PsmTrigger) (x : Shelf) :
    handOnSignals h trigger x = handedRest h trigger x (energyTaken h x (checkedNow h trigger x)) := by
  have atOnce : (decide (trigger = .report) || x.applying.isSome) = true ↔
      trigger = .report ∨ x.applying ≠ none := by
    rw [Bool.or_eq_true, decide_eq_true_eq, Option.isSome_iff_ne_none]
  have later : (!(decide (trigger = .report) || x.applying.isSome) && decide (psmsWithBand x h ≠ [])) = true ↔
      ¬(trigger = .report ∨ x.applying ≠ none) ∧ psmsWithBand x h ≠ [] := by
    rw [Bool.and_eq_true, Bool.not_eq_true', ← Bool.not_eq_true, atOnce, decide_eq_true_eq]
  have first : (if (decide (trigger = .report) || x.applying.isSome) = true
      then checkPsms trigger (psmsWithBand x h) x else x) = checkedNow h trigger x := by
    simp only [atOnce, checkedNow]
  have second : (if energyTouched (checkedNow h trigger x) h = true then energyUpdate (checkedNow h trigger x)
      else checkedNow h trigger x) = energyTaken h x (checkedNow h trigger x) := by
    rw [energyTouched_congr (tables_checkedNow h trigger x)]
    rfl
  have causes : signalCauses (energyTaken h x (checkedNow h trigger x)) h = signalCauses x h :=
    signalCauses_congr ((tables_energyTaken _ _ _).trans (tables_checkedNow _ _ _)) h
  simp only [handOnSignals, first, second, causes, later]
  rfl

/-- What is told leaves every record as it was. -/
theorem handedRest_eq (h : HandOn) (trigger : PsmTrigger) (x y : Shelf) :
    handedRest h trigger x y =
      { y with causes := (handedRest h trigger x y).causes, raised := (handedRest h trigger x y).raised } := by
  simp only [handedRest]
  rw [changed_eq]
  split <;> split <;> rfl

/-- A reaction that may be raised leaves the causes as they were. -/
theorem causes_emit_if (c : Prop) [Decidable c] (t : Task) (x : Shelf) :
    (if c then emit t x else x).causes = x.causes := by
  split
  · exact emit_causes t x
  · rfl

theorem causes_handedRest (h : HandOn) (trigger : PsmTrigger) (x y : Shelf) :
    (handedRest h trigger x y).causes = (changed (signalCauses x h) y).causes :=
  (causes_emit_if _ _ _).trans (causes_emit_if _ _ _)

/-- A reaction that may be raised leaves those raised before it. -/
theorem mem_raised_emit_if {u : Task} {x : Shelf} (raised : u ∈ x.raised) (c : Prop) [Decidable c] (t : Task) :
    u ∈ (if c then emit t x else x).raised := by
  split
  · exact List.mem_append_left _ raised
  · exact raised

theorem raised_handedRest {t : Task} {h : HandOn} {trigger : PsmTrigger} {x y : Shelf}
    (raised : t ∈ (changed (signalCauses x h) y).raised) : t ∈ (handedRest h trigger x y).raised := by
  exact mem_raised_emit_if (mem_raised_emit_if raised _ _) _ _

theorem told_handedRest {c : Cause} {h : HandOn} {x : Shelf} (cause : c ∈ signalCauses x h)
    (trigger : PsmTrigger) (y : Shelf) :
    c ∈ (handedRest h trigger x y).causes ∧ Task.balance ∈ (handedRest h trigger x y).raised := by
  obtain ⟨told, raised⟩ := told_changed cause y
  exact ⟨(causes_handedRest h trigger x y).symm ▸ told, raised_handedRest raised⟩

/-- A hand-on list names a signal under a kind of a list. -/
abbrev Named (kinds : List SignalKind) (l : List (Nat × SignalKind)) (n : Nat) : Prop := ∃ k ∈ kinds, (n, k) ∈ l

theorem names_iff {sent : SignalKind → Bool} {kinds : List SignalKind} (h : ∀ k, sent k = true ↔ k ∈ kinds)
    (l : List (Nat × SignalKind)) (n : Nat) : names sent l n = true ↔ Named kinds l n := by
  simp only [names, List.any_eq_true, Bool.and_eq_true, decide_eq_true_eq, h]
  constructor
  · rintro ⟨⟨m, k⟩, member, rfl, kind⟩
    exact ⟨k, kind, member⟩
  · rintro ⟨k, kind, member⟩
    exact ⟨(n, k), member, rfl, kind⟩

theorem updateToBalance_iff (k : SignalKind) : updateToBalance k = true ↔ k ∈ [.electrical, .power] := by
  cases k <;> decide

theorem changeToBalance_iff (k : SignalKind) :
    changeToBalance k = true ↔ k ∈ [.electrical, .temperature, .power] := by cases k <;> decide

theorem changeToMonitor_iff (k : SignalKind) : changeToMonitor k = true ↔ k ∈ [.electrical, .temperature] := by
  cases k <;> decide

theorem energyKind_iff (k : SignalKind) : decide (k = .energy) = true ↔ k ∈ [SignalKind.energy] := by
  cases k <;> decide

theorem readingChanged_iff (h : HandOn) (n : Nat) :
    readingChanged h n = true ↔
      Named [.electrical, .power] h.updates n ∨ Named [.electrical, .temperature, .power] h.changes n := by
  rw [readingChanged, Bool.or_eq_true, names_iff updateToBalance_iff, names_iff changeToBalance_iff]

theorem mem_psmsWithBand {x : Shelf} {h : HandOn} {i : Nat} {g : PsmEntry} (hi : i < 6)
    (entry : psmAt x i = some g) :
    i ∈ psmsWithBand x h ↔ Named [.electrical, .temperature] h.changes g.temperature ∨
      Named [.electrical, .temperature] h.changes g.voltage := by
  simp only [psmsWithBand, List.mem_filter, List.mem_range, entry, Option.any_some, Bool.or_eq_true,
    names_iff changeToMonitor_iff]
  exact and_iff_right hi

theorem mem_psmsInUse {x : Shelf} {g : PsmEntry} {i : Nat} (hi : i < 6) (entry : psmAt x i = some g) :
    g ∈ (List.range Config.psmCount).filterMap (psmAt x) :=
  List.mem_filterMap.mpr ⟨i, List.mem_range.mpr hi, entry⟩

theorem mem_bbmsInUse {x : Shelf} {g : BbmEntry} {k : Nat} (hk : k < 6) (entry : bbmAt x k = some g) :
    g ∈ (List.range Config.bbmCount).filterMap (bbmAt x) :=
  List.mem_filterMap.mpr ⟨k, List.mem_range.mpr hk, entry⟩

theorem mem_if_singleton {c : Cause} {b : Bool} (h : b = true) : c ∈ (if b = true then [c] else []) := by
  rw [if_pos h]
  exact List.mem_singleton_self c

theorem temperature_mem_signalCauses {x : Shelf} {h : HandOn} {i : Nat} {g : PsmEntry} (hi : i < 6)
    (entry : psmAt x i = some g) (moved : Named [.electrical, .temperature, .power] h.changes g.temperature) :
    Cause.psmTemperature ∈ signalCauses x h :=
  List.mem_append_left _ (List.mem_append_left _ (mem_if_singleton (List.any_eq_true.mpr
    ⟨g, mem_psmsInUse hi entry, (names_iff changeToBalance_iff _ _).mpr moved⟩)))

theorem reading_mem_signalCauses {x : Shelf} {h : HandOn} {i : Nat} {g : PsmEntry} (hi : i < 6)
    (entry : psmAt x i = some g) (moved : readingChanged h g.voltage = true ∨ readingChanged h g.current = true) :
    Cause.psmReading ∈ signalCauses x h :=
  List.mem_append_left _ (List.mem_append_right _ (mem_if_singleton (List.any_eq_true.mpr
    ⟨g, mem_psmsInUse hi entry, (Bool.or_eq_true _ _).mpr moved⟩)))

theorem discharge_mem_signalCauses {x : Shelf} {h : HandOn} {k : Nat} {g : BbmEntry} (hk : k < 6)
    (entry : bbmAt x k = some g) (moved : readingChanged h g.discharge = true) :
    Cause.bbmReading ∈ signalCauses x h :=
  List.mem_append_right _ (mem_if_singleton (List.any_eq_true.mpr ⟨g, mem_bbmsInUse hk entry, moved⟩))

theorem energyTouched_iff (x : Shelf) (h : HandOn) :
    energyTouched x h = true ↔ ∃ k < 6, ∃ g, bbmAt x k = some g ∧ Named [.energy] h.updates g.energy := by
  simp [energyTouched, Option.any_eq_true, names_iff energyKind_iff, Config.bbmCount]

theorem psms_handOnSignals (h : HandOn) (trigger : PsmTrigger) (x : Shelf) :
    (handOnSignals h trigger x).psms = (checkedNow h trigger x).psms := by
  rw [handOnSignals_eq, handedRest_eq, energyTaken]
  split
  · rw [energyUpdate_eq]
  · rfl

theorem ride_handOnSignals (h : HandOn) (trigger : PsmTrigger) (x : Shelf) :
    (handOnSignals h trigger x).ride = if energyTouched x h then (energyUpdate x).ride else x.ride := by
  have only := monitorOnly_checkedNow h trigger x
  rw [handOnSignals_eq, handedRest_eq, energyTaken]
  split
  · exact energyUpdate_ride_congr only
  · have same := congrArg Shelf.ride only
    exact same

theorem handOnSignals_nothing (trigger : PsmTrigger) (x : Shelf) : handOnSignals ⟨[], []⟩ trigger x = x := by
  have psms : psmsWithBand x ⟨[], []⟩ = [] := by simp [psmsWithBand, names]
  have energy : energyTouched x ⟨[], []⟩ = false := by simp [energyTouched, names]
  have causes : signalCauses x ⟨[], []⟩ = [] := by
    simp only [signalCauses, readingChanged, names, List.any_nil, Bool.or_false, List.any_eq_true,
      Bool.false_eq_true, and_false, exists_false, if_false, List.append_nil]
  have checked : checkedNow ⟨[], []⟩ trigger x = x := by
    rw [checkedNow, psms]
    exact ite_self x
  rw [handOnSignals_eq, checked, energyTaken, energy, handedRest, causes, psms]
  simp [leakTouched, changed_none]

/-- What the signals of a PSM hand on to the Module Monitor and the Balance Unit (R20, R26, R45). -/
theorem handOnSignals_psm {h : HandOn} {trigger : PsmTrigger} {x : Shelf} {i : Nat} (hi : i < 6) {g : PsmEntry}
    (entry : psmAt x i = some g) :
    let y := handOnSignals h trigger x
    let atOnce := trigger = .report ∨ x.applying ≠ none
    let bands := Named [.electrical, .temperature] h.changes g.temperature ∨
      Named [.electrical, .temperature] h.changes g.voltage
    (bands → atOnce → (vget y.psms i).state =
      (evaluatePsm (ownedPresence x g.roster .psm i) (vget x.psms i)
        (vget x.signals g.temperature).band (vget x.signals g.voltage).band trigger).1) ∧
    (bands → ¬atOnce → ∃ is, i ∈ is ∧ Task.psmBands is ∈ y.raised) ∧
    (¬bands ∨ ¬atOnce → vget y.psms i = vget x.psms i) := by
  intro y atOnce bands
  have member : i ∈ psmsWithBand x h ↔ bands := mem_psmsWithBand hi entry
  have once : (psmsWithBand x h).Nodup := List.nodup_range.filter _
  have psms : y.psms = (checkedNow h trigger x).psms := psms_handOnSignals h trigger x
  refine ⟨fun moved now => ?_, fun moved later => ?_, fun still => ?_⟩
  · rw [psms, checkedNow, if_pos now]
    exact state_checkPsms once hi (member.mpr moved) entry
  · refine ⟨psmsWithBand x h, member.mpr moved, ?_⟩
    have some_psm : psmsWithBand x h ≠ [] := List.ne_nil_of_mem (member.mpr moved)
    have eq : y = _ := handOnSignals_eq h trigger x
    rw [eq]
    refine mem_raised_emit_if ?_ _ _
    rw [if_pos ⟨later, some_psm⟩]
    exact List.mem_append_right _ (List.mem_singleton_self _)
  · rw [psms, checkedNow]
    split
    · next now =>
      have out : ¬bands := still.resolve_right fun no => no now
      exact vget_psms_checkPsms trigger (fun inside => out (member.mp inside)) x
    · rfl

theorem zones_raised {h : HandOn} {n : Nat} (moved : Named [.leak] h.changes n) (trigger : PsmTrigger) (x : Shelf) :
    Task.zones ∈ (handOnSignals h trigger x).raised := by
  obtain ⟨k, leak, member⟩ := moved
  have touched : leakTouched h = true :=
    List.any_eq_true.mpr ⟨(n, k), member, decide_eq_true (List.mem_singleton.mp leak)⟩
  rw [handOnSignals_eq, handedRest, if_pos touched]
  exact List.mem_append_right _ (List.mem_singleton_self _)

theorem handOnSignals_spec (h : HandOn) (trigger : PsmTrigger) (x : Shelf) :
    let y := handOnSignals h trigger x
    let atOnce := trigger = .report ∨ x.applying ≠ none
    let moved := fun (kinds : List SignalKind) (n : Nat) => ∃ k ∈ kinds, (n, k) ∈ h.changes
    let updated := fun (kinds : List SignalKind) (n : Nat) => ∃ k ∈ kinds, (n, k) ∈ h.updates
    let reading := fun n => updated [.electrical, .power] n ∨ moved [.electrical, .temperature, .power] n
    let told := fun c => c ∈ y.causes ∧ Task.balance ∈ y.raised
    (h = ⟨[], []⟩ → y = x) ∧
    ((∃ n, moved [.leak] n) → Task.zones ∈ y.raised) ∧
    (∀ i < 6, ∀ g, psmAt x i = some g →
      let bands := moved [.electrical, .temperature] g.temperature ∨
        moved [.electrical, .temperature] g.voltage
      (bands → atOnce → (vget y.psms i).state =
        (evaluatePsm (ownedPresence x g.roster .psm i) (vget x.psms i)
          (vget x.signals g.temperature).band (vget x.signals g.voltage).band trigger).1) ∧
      (bands → ¬atOnce → ∃ is, i ∈ is ∧ Task.psmBands is ∈ y.raised) ∧
      (¬bands ∨ ¬atOnce → vget y.psms i = vget x.psms i) ∧
      (moved [.electrical, .temperature, .power] g.temperature → told .psmTemperature) ∧
      (reading g.voltage ∨ reading g.current → told .psmReading)) ∧
    (∀ k < 6, ∀ g, bbmAt x k = some g → reading g.discharge → told .bbmReading) ∧
    let energy := ∃ k < 6, ∃ g, bbmAt x k = some g ∧ updated [.energy] g.energy
    (energy → y.ride = (energyUpdate x).ride) ∧ (¬energy → y.ride = x.ride) := by
  intro y atOnce moved updated reading told
  have tells : ∀ {c}, c ∈ signalCauses x h → told c := fun cause => by
    have rest := told_handedRest cause trigger (energyTaken h x (checkedNow h trigger x))
    rwa [← handOnSignals_eq] at rest
  have read : ∀ n, readingChanged h n = true ↔ reading n := readingChanged_iff h
  have ride := ride_handOnSignals h trigger x
  refine ⟨fun nothing => ?_, fun ⟨n, leak⟩ => zones_raised leak trigger x, fun i hi g entry => ?_,
    fun k hk g entry changes => tells (discharge_mem_signalCauses hk entry ((read _).mpr changes)),
    fun energy => ?_, fun energy => ?_⟩
  · subst nothing
    exact handOnSignals_nothing trigger x
  · obtain ⟨now, later, still⟩ := handOnSignals_psm (h := h) (trigger := trigger) hi entry
    exact ⟨now, later, still, fun changes => tells (temperature_mem_signalCauses hi entry changes),
      fun changes => tells (reading_mem_signalCauses hi entry (changes.imp (read _).mpr (read _).mpr))⟩
  · exact ride.trans (if_pos ((energyTouched_iff x h).mpr energy))
  · exact ride.trans (if_neg fun touched => energy ((energyTouched_iff x h).mp touched))

/-! ### Reports -/

/-- The state after some samples, in order. -/
abbrev afterSamples (time : Time) (samples : List (SampleEntry × Nat)) (x : Shelf) : Shelf :=
  samples.foldl (fun y g => applySample g.1 g.2 time y) x

theorem applySamples_state (time : Time) (samples : List (SampleEntry × Nat))
    (x : Shelf × List (Nat × SignalKind)) :
    (applySamples time samples x).1 = afterSamples time samples x.1 := by
  induction samples generalizing x with
  | nil => rfl
  | cons g samples ih => exact ih _

/-- A sample changes its signal's band. -/
abbrev MovesBand (time : Time) (x : Shelf) (g : SampleEntry × Nat) : Prop :=
  (vget x.signals g.1.signal).band ≠ (vget (applySample g.1 g.2 time x).signals g.1.signal).band

/-- The band changes gathered over a report are those of its samples, each in the state that the ones before it
leave. -/
theorem mem_applySamples (time : Time) (samples : List (SampleEntry × Nat)) (x : Shelf)
    (changes : List (Nat × SignalKind)) (c : Nat × SignalKind) :
    c ∈ (applySamples time samples (x, changes)).2 ↔ c ∈ changes ∨
      ∃ front g back, samples = front ++ g :: back ∧ c = (g.1.signal, g.1.kind) ∧
        MovesBand time (afterSamples time front x) g := by
  induction samples generalizing x changes with
  | nil => simp [applySamples]
  | cons g samples ih =>
    have here : c ∈ (if (vget x.signals g.1.signal).band =
        (vget (applySample g.1 g.2 time x).signals g.1.signal).band then []
        else [(g.1.signal, g.1.kind)]) ↔ c = (g.1.signal, g.1.kind) ∧ MovesBand time x g := by
      split
      · next same => simp [MovesBand, same]
      · next moves => simp [MovesBand, moves]
    refine (ih (applySample g.1 g.2 time x) _).trans ?_
    rw [List.mem_append, here, or_assoc]
    refine or_congr_right ⟨?_, ?_⟩
    · rintro (⟨same, moves⟩ | ⟨front, g', back, rfl, same, moves⟩)
      · exact ⟨[], g, samples, rfl, same, moves⟩
      · exact ⟨g :: front, g', back, rfl, same, moves⟩
    · rintro ⟨front, g', back, split, same, moves⟩
      cases front with
      | nil =>
        obtain ⟨rfl, rfl⟩ := List.cons.inj split
        exact .inl ⟨same, moves⟩
      | cons g'' front =>
        obtain ⟨rfl, rfl⟩ := List.cons.inj split
        exact .inr ⟨front, g', back, rfl, same, moves⟩

theorem signalsOnly_afterSamples (time : Time) (samples : List (SampleEntry × Nat)) (x : Shelf) :
    SignalsOnly x (afterSamples time samples x) :=
  signalsOnly_foldl (fun x g => signalsOnly_applySample g.1 g.2 time x) samples x

theorem state_psmStatusWord (w : Nat) (r : Psm) : (psmStatusWord w r).state = r.state := rfl

/-- The status words of a PSM's report leave its state, and the tables. -/
theorem psmWords_keep (i : Nat) (words : List Nat) (x : Shelf) :
    let y := words.foldl (fun z w => editPsm i (psmStatusWord w) z) x
    y.tables = x.tables ∧ (vget y.psms i).state = (vget x.psms i).state := by
  induction words generalizing x with
  | nil => exact ⟨rfl, rfl⟩
  | cons w words ih =>
    obtain ⟨tables, state⟩ := ih (editPsm i (psmStatusWord w) x)
    refine ⟨tables, state.trans ?_⟩
    rw [editPsm, vget_vmod]
    split
    · rfl
    · rfl

theorem deliverStatus_psm {entry : RosterEntry} (kind : entry.kind = .psm) (r : Nat) (words : List Nat)
    (time : Time) (x : Shelf) :
    (deliverStatus entry r words time x).tables = x.tables ∧
      (vget (deliverStatus entry r words time x).psms entry.index).state =
        (vget x.psms entry.index).state := by
  simp only [deliverStatus, kind]
  split
  · exact psmWords_keep _ _ _
  · exact ⟨rfl, rfl⟩

/-- The sender is evaluated for a status word or the end of its absence alone (R47). -/
theorem evaluateReporter_eq (entry : RosterEntry) (r : Nat) (words : List Nat) (time : Time) {x y : Shelf}
    (sampled : SignalsOnly x y) :
    evaluateReporter entry r words (deliverStatus entry r words time y) =
      if entry.kind = .psm ∧ (psmAt x entry.index).map (·.roster) = some r ∧
          (words ≠ [] ∨ (vget x.psms entry.index).state = .absent) then
        checkPsm entry.index .report (deliverStatus entry r words time y)
      else deliverStatus entry r words time y := by
  by_cases kind : entry.kind = .psm
  · obtain ⟨tables, state⟩ := deliverStatus_psm kind r words time y
    have entries : psmAt (deliverStatus entry r words time y) entry.index = psmAt x entry.index :=
      psmAt_congr (tables.trans sampled.tables) _
    rw [sampled.psms] at state
    simp only [evaluateReporter, kind, entries, state, Bool.and_eq_true, any_names_iff, Bool.or_eq_true,
      decide_eq_true_eq, true_and]
  · rw [if_neg fun ⟨psm, _⟩ => kind psm]
    cases other : entry.kind with
    | psm => exact absurd other kind
    | bbm | tray | leakNode => simp only [evaluateReporter, other]

theorem takeReport_spec (x : Shelf) (r : Nat) (pairs : List (Nat × Nat)) (time : Time) :
    (rosterAt x r = none → takeReport r pairs time x = x) ∧
    ∀ entry, rosterAt x r = some entry →
      let fed := fun id : Nat => ((List.range 128).filterMap (sampleAt x)).find? fun g =>
        g.roster = r && g.fieldId = id
      let samples := pairs.filterMap fun q =>
        if q.1 = 1 then none else (fed q.1).map fun g => (g, q.2)
      let words := pairs.filterMap fun q => if q.1 = 1 then some q.2 else none
      let sampled := samples.foldl (fun y g => applySample g.1 g.2 time y) x
      let owned := deliverStatus entry r words time sampled
      let judged := if entry.kind = .psm ∧ (psmAt x entry.index).map (·.roster) = some r ∧
          (words ≠ [] ∨ (vget x.psms entry.index).state = .absent) then
          checkPsm entry.index .report owned
        else owned
      ∃ changes,
        takeReport r pairs time x =
          handOnSignals ⟨samples.map fun g => (g.1.signal, g.1.kind), changes⟩ .report judged ∧
        (∀ n kind, (n, kind) ∈ changes →
          ∃ front g back, samples = front ++ g :: back ∧ n = g.1.signal ∧ kind = g.1.kind ∧
            let before := front.foldl (fun y g => applySample g.1 g.2 time y) x
            (vget before.signals n).band ≠ (vget (applySample g.1 g.2 time before).signals n).band) ∧
        ∀ front g back, samples = front ++ g :: back →
          let before := front.foldl (fun y g => applySample g.1 g.2 time y) x
          (vget before.signals g.1.signal).band ≠
              (vget (applySample g.1 g.2 time before).signals g.1.signal).band →
            (g.1.signal, g.1.kind) ∈ changes := by
  refine ⟨fun none => by rw [takeReport, none], fun entry sender => ?_⟩
  intro fed samples words sampled owned judged
  have gathered := mem_applySamples time samples x []
  have judges : evaluateReporter entry r words owned = judged :=
    evaluateReporter_eq entry r words time (signalsOnly_afterSamples time samples x)
  refine ⟨(applySamples time samples (x, [])).2, ?_, fun n kind member => ?_,
    fun front g back split moves => (gathered _).mpr (.inr ⟨front, g, back, split, rfl, moves⟩)⟩
  · rw [← judges, show owned = deliverStatus entry r words time (applySamples time samples (x, [])).1 from
      congrArg (deliverStatus entry r words time) (applySamples_state time samples (x, [])).symm]
    simp only [takeReport, sender]
    rfl
  · obtain none | ⟨front, g, back, split, same, moves⟩ := (gathered _).mp member
    · exact absurd none List.not_mem_nil
    · obtain ⟨rfl, rfl⟩ := Prod.mk.inj same
      exact ⟨front, g, back, split, rfl, rfl, moves⟩

/-! ### Staleness -/

/-- A signal takes a new record, with the notice of R22, and nothing else changes. -/
abbrev Becomes (n : Nat) (new : Signal) (notify : Bool) (x y : Shelf) : Prop :=
  y = { x with signals := vset x.signals n new, notices := afterBand n (vget x.signals n) new notify x }

theorem staleAll_spec (es : List SampleEntry) (x : Shelf) :
    let after := es.foldl (fun z e => staleSignal e.signal e.notify z) x
    let moved := es.filter fun e => (vget x.signals e.signal).band ≠ (vget after.signals e.signal).band
    staleAll es x = handOnSignals ⟨[], moved.map fun e => (e.signal, e.kind)⟩ .band after ∧
    ∀ n < 128, ∀ notify,
      let g := vget x.signals n
      (g.stale = true → staleSignal n notify x = x) ∧
      (g.stale = false →
        Becomes n { g with band := .unknown, pending := none, count := 0, stale := true } notify
          x (staleSignal n notify x)) := by
  refine ⟨rfl, fun n hn notify => ⟨fun stale => if_pos stale, fun fresh => ?_⟩⟩
  rw [staleSignal, if_neg (by simp [fresh])]
  exact putSignal_eq hn notify makeStale x

theorem signals_handOnSignals (h : HandOn) (trigger : PsmTrigger) (x : Shelf) :
    (handOnSignals h trigger x).signals = x.signals := by
  have only := congrArg Shelf.signals (monitorOnly_checkedNow h trigger x)
  rw [handOnSignals_eq, handedRest_eq, energyTaken]
  split
  · rw [energyUpdate_eq]
    exact only
  · exact only

theorem exec_staleTimeExpiry (e : Ambient) (n : Fin 128) (s : State) (entry : SampleEntry) :
    let x := (opening e s).toShelf
    feeding x n = some entry → staleDue x n = true →
    exec (.staleTimeExpiry e n) s = .next (closing (onShelf (staleAll [entry]) (opening e s))) ∧
      (staleAll [entry] x).signals =
        vset x.signals n
          { vget x.signals n with band := .unknown, pending := none, count := 0, stale := true } := by
  intro x fed due
  obtain ⟨names, _⟩ := (feeding_spec x n).1 entry fed
  obtain ⟨_, _, _, fresh, _⟩ := (staleDue_iff x n).mp due
  have does : staleExpiry n x = staleAll [entry] x := by
    rw [staleExpiry, if_pos due, fed]
    rfl
  constructor
  · change Host.Outcome.next (closing { staleExpiry n x with store := s.store, pending := s.pending }) = _
    rw [does]
    rfl
  · obtain ⟨hands, becomes⟩ := staleAll_spec [entry] x
    rw [hands, signals_handOnSignals]
    have one := ((becomes n n.isLt entry.notify).2 fresh)
    rw [List.foldl_cons, List.foldl_nil, names]
    exact congrArg Shelf.signals one

/-! ### Applies of the Sample Map and the Limit Sets (R23) -/

theorem sameSource_iff (a b : SampleEntry) :
    sameSource a b = true ↔ a.roster = b.roster ∧ a.fieldId = b.fieldId ∧ a.kind = b.kind := by
  simp [sameSource, and_assoc]

/-- Clearing a pending band changes no band, and tells nobody. -/
theorem putSignal_clearPending {n : Nat} (hn : n < 128) (notify : Bool) (x : Shelf) :
    putSignal n notify clearPending x =
      { x with signals := vset x.signals n { vget x.signals n with pending := none, count := 0 } } := by
  rw [putSignal_eq hn, afterBand, if_neg fun ⟨_, moves⟩ => moves rfl]
  rfl

theorem applySignal_spec (old : List Record) (x : Shelf) (n : Nat) (hn : n < 128) :
    let g := vget x.signals n
    let y := applySignal old n x
    let kept := { g with pending := none, count := 0 }
    let fresh := { kept with band := .unknown, value := 0, stale := false }
    ((∀ e, feedingIn old n = some e → e.signal = n ∧ ∃ r ∈ old, decodeSample r = some e) ∧
      (feedingIn old n = none → ∀ r ∈ old, ∀ e, decodeSample r = some e → e.signal ≠ n)) ∧
    (feedingIn old n = none → feeding x n = none → y = x) ∧
    (∀ e, feedingIn old n = none → feeding x n = some e → Becomes n fresh e.notify x y) ∧
    (∀ a, feedingIn old n = some a → feeding x n = none → Becomes n fresh a.notify x y) ∧
    ∀ a b, feedingIn old n = some a → feeding x n = some b →
      let same := a.roster = b.roster ∧ a.fieldId = b.fieldId ∧ a.kind = b.kind
      (a = b → y = x) ∧ (a ≠ b → same → y = { x with signals := vset x.signals n kept }) ∧
      (¬same → Becomes n fresh b.notify x y) := by
  intro g y kept fresh
  have resets : ∀ notify, Becomes n fresh notify x (putSignal n notify resetBySource x) := fun notify =>
    putSignal_eq hn notify resetBySource x
  have eq : y = applySignal old n x := rfl
  refine ⟨feedingIn_spec old n, fun was now => ?_, fun e was now => ?_, fun a was now => ?_, fun a b was now => ?_⟩
  · rw [eq, applySignal, was, now]
  · rw [eq, applySignal, was, now]
    exact resets e.notify
  · rw [eq, applySignal, was, now]
    exact resets a.notify
  · intro same
    have both : y = if a = b then x else if sameSource a b then putSignal n b.notify clearPending x
        else putSignal n b.notify resetBySource x := by rw [eq, applySignal, was, now]
    refine ⟨fun equal => both.trans (if_pos equal), fun differ source => ?_, fun other => ?_⟩
    · rw [both, if_neg differ, if_pos ((sameSource_iff a b).mpr source)]
      exact putSignal_clearPending hn b.notify x
    · have differ : a ≠ b := fun equal => other (by subst equal; exact ⟨rfl, rfl, rfl⟩)
      rw [both, if_neg differ, if_neg fun source => other ((sameSource_iff a b).mp source)]
      exact resets b.notify

theorem mem_kindsOf {old : List Record} {x : Shelf} {m n : Nat} {kind : SignalKind} :
    (n, kind) ∈ kindsOf old x m ↔ m = n ∧ ∃ e, (feedingIn old m = some e ∨ feeding x m = some e) ∧ e.kind = kind := by
  simp only [kindsOf, List.mem_map, List.mem_append, Option.mem_toList, Prod.mk.injEq]
  constructor
  · rintro ⟨e, fed, same, kind⟩
    exact ⟨same, e, fed, kind⟩
  · rintro ⟨same, e, fed, kind⟩
    exact ⟨e, fed, same, kind⟩

theorem applySampleMap_spec (old : List Record) (x : Shelf) :
    let after := (List.range 128).foldl (fun z n => applySignal old n z) x
    ∃ changes, applySampleMap old x = handOnSignals ⟨[], changes⟩ .band after ∧
      ∀ n kind, (n, kind) ∈ changes ↔
        n < 128 ∧ (vget x.signals n).band ≠ (vget after.signals n).band ∧
          ∃ e, (feedingIn old n = some e ∨ feeding x n = some e) ∧ e.kind = kind := by
  intro after
  refine ⟨((List.range 128).filter fun n => (vget x.signals n).band ≠ (vget after.signals n).band).flatMap
    (kindsOf old x), rfl, fun n kind => ?_⟩
  simp only [List.mem_flatMap, List.mem_filter, List.mem_range, mem_kindsOf, decide_eq_true_eq]
  constructor
  · rintro ⟨m, ⟨low, moves⟩, rfl, fed⟩
    exact ⟨low, moves, fed⟩
  · rintro ⟨low, moves, fed⟩
    exact ⟨n, ⟨low, moves⟩, rfl, fed⟩

/-- The pending band of each signal of some entries is cleared. -/
def clearAll (es : List SampleEntry) (x : Shelf) : Shelf :=
  es.foldl (fun s e => { s with signals := vmod s.signals e.signal clearPending }) x

theorem clearAll_eq (es : List SampleEntry) (x : Shelf) :
    clearAll es x = { x with signals := (clearAll es x).signals } := by
  induction es generalizing x with
  | nil => rfl
  | cons e es ih => exact ih _

theorem vget_clearAll (es : List SampleEntry) (x : Shelf) (n : Nat) (hn : n < 128) :
    ((∃ e ∈ es, e.signal = n) → vget (clearAll es x).signals n = clearPending (vget x.signals n)) ∧
      ((∀ e ∈ es, e.signal ≠ n) → vget (clearAll es x).signals n = vget x.signals n) := by
  induction es generalizing x with
  | nil => exact ⟨fun ⟨_, out, _⟩ => absurd out List.not_mem_nil, fun _ => rfl⟩
  | cons e es ih =>
    obtain ⟨cleared, kept⟩ := ih { x with signals := vmod x.signals e.signal clearPending }
    have one := vget_vmod x.signals e.signal n clearPending
    have rest : vget (clearAll es { x with signals := vmod x.signals e.signal clearPending }).signals n =
        vget (clearAll (e :: es) x).signals n := rfl
    rw [rest, one] at cleared kept
    by_cases here : e.signal = n
    · rw [if_pos ⟨here, hn⟩] at cleared kept
      refine ⟨fun _ => ?_, fun none => absurd here (none e List.mem_cons_self)⟩
      by_cases more : ∃ e ∈ es, e.signal = n
      · exact cleared more
      · exact kept fun e he same => more ⟨e, he, same⟩
    · rw [if_neg fun ⟨same, _⟩ => here same] at cleared kept
      refine ⟨fun ⟨e', member, same⟩ => cleared ⟨e', ?_, same⟩,
        fun none => kept fun e' member => none e' (List.mem_cons_of_mem e member)⟩
      exact (List.mem_cons.mp member).resolve_left fun equal => here (equal ▸ same)

theorem applyLimits_spec (old : List Record) (x : Shelf) :
    let limited := fun e : SampleEntry => (∃ i < 128, sampleAt x i = some e) ∧
      recordOf old e.limitSet ≠ recordAt x 5 e.limitSet
    ∃ cleared stale, applyLimits old x = staleAll stale cleared ∧
      cleared = { x with signals := cleared.signals } ∧
      (∀ n < 128,
        ((∃ e, limited e ∧ e.signal = n) →
          vget cleared.signals n = { vget x.signals n with pending := none, count := 0 }) ∧
        ((∀ e, limited e → e.signal ≠ n) → vget cleared.signals n = vget x.signals n)) ∧
      ∀ e, e ∈ stale ↔ limited e ∧ staleDue cleared e.signal = true := by
  intro limited
  have member : ∀ e, e ∈ limitedBy old x ↔ limited e := fun e => by
    rw [limitedBy, List.mem_filter, mem_mapped, decide_eq_true_eq]
    exact Iff.rfl
  let cleared := clearAll (limitedBy old x) x
  refine ⟨cleared, (limitedBy old x).filter fun e => staleDue cleared e.signal, rfl, clearAll_eq _ _,
    fun n hn => ?_, fun e => by rw [List.mem_filter, member]⟩
  obtain ⟨clears, keeps⟩ := vget_clearAll (limitedBy old x) x n hn
  exact ⟨fun ⟨e, inside, same⟩ => clears ⟨e, (member e).mpr inside, same⟩,
    fun none => keeps fun e inside => none e ((member e).mp inside)⟩

/-- Settles O46: conversion, samples, reports, staleness and the applies of R23, each by its own rule. -/
theorem signalsConvertedAndStale : Obligations.SignalsConvertedAndStale :=
  ⟨convert_spec, applySample_spec, takeReport_spec, deliverStatus_spec, psmStatusWord_eq, handOnSignals_spec,
    fun x n => ⟨(feeding_spec x n).1, (feeding_spec x n).2, staleDue_iff x n⟩,
    fun x r => ⟨mem_fedFrom x r, rfl⟩, exec_staleTimeExpiry, staleAll_spec, applySignal_spec,
    applySampleMap_spec, applyLimits_spec⟩

end Sys2Proof.Machine
end

section
/-! PROOF. The Sense Line Unit (R3 to R12): samples and acceptance, captures, delivery to the owner of a line's role, the
shelf stop, drive levels, and an apply to the Line table. -/

namespace Sys2Proof.Machine

/-! ### Samples and acceptance -/

/-- An event that leaves nothing to react to ends with the arbiters. -/
theorem closing_onShelf_quiet (f : Shelf → Shelf) (s : State) (quiet : Quiet (f s.toShelf))
    (rx : (f s.toShelf).engUp.rx = []) : closing (onShelf f s) = settled f s := by
  have same : react (f s.toShelf) = f s.toShelf := react_quiet quiet
  have empty : (react (onShelf f s).toShelf).engUp.rx = [] := same.symm ▸ rx
  rw [closing_empty empty]
  exact congrArg (fun y => onShelf (fun _ => sendOff y) s) same

theorem watched_iff (x : Shelf) (l : Nat) :
    watched x l = true ↔ x.sampling = true ∧ (senseAt x l).period = 0 := by simp [watched]

theorem sampleDue_iff (x : Shelf) (l : Nat) :
    sampleDue x l = true ↔ x.sampling = true ∧ (senseAt x l).period ≠ 0 ∧
      ∀ t, (vget x.lines l).lastSample = some t →
        reached x.shelfTime (t + BitVec.ofNat 32 (senseAt x l).period) = true := by
  simp only [sampleDue]
  cases (vget x.lines l).lastSample <;> simp [and_assoc]

theorem completes_iff (r : SenseLine) (level : Level) :
    completes r level = true ↔ r.accepted ≠ some level ∧ r.history.candidate = some level ∧
      2 ≤ r.history.count := by simp [completes, and_assoc]

theorem not_watched_of_sampleDue {x : Shelf} {l : Nat} (h : sampleDue x l = true) : watched x l = false := by
  obtain ⟨_, period, _⟩ := (sampleDue_iff x l).mp h
  simp [watched, period]

/-- The third agreeing sample is taken by whichever row of the lines brings it. -/
theorem acceptance_third {x : Shelf} {l : Nat} {level : Level} (due : sampleDue x l = true)
    (third : completes (vget x.lines l) level = true) {first : Bool}
    (row : (vget x.lines l).accepted.isNone = first) : acceptance first l level x = takeSample l level x := by
  simp [acceptance, row, not_watched_of_sampleDue due, due, third]

theorem takeSample_third {x : Shelf} {l : Nat} {level : Level}
    (third : completes (vget x.lines l) level = true) :
    takeSample l level x = acceptLevel l level (vget x.lines l).history.first
      (editLine l (fun r => { r with lastSample := some x.shelfTime }) x) := if_pos third

theorem vset_vset {α : Type} {n : Nat} (v : Vector α n) (i : Nat) (a b : α) :
    vset (vset v i a) i b = vset v i b := Vector.setIfInBounds_setIfInBounds ..

theorem editLine_editLine {l : Nat} (hl : l < 16) (f g : SenseLine → SenseLine) (x : Shelf) :
    editLine l g (editLine l f x) = editLine l (fun r => g (f r)) x := by
  have lines : vmod (vmod x.lines l f) l g = vmod x.lines l fun r => g (f r) := by
    unfold vmod
    rw [vset_vset, vget_vset_self _ _ _ hl]
  exact congrArg (fun lines => { x with lines }) lines

theorem takeSample_other {x : Shelf} {l : Nat} (hl : l < 16) {level : Level}
    (other : completes (vget x.lines l) level = false) :
    takeSample l level x = editLine l (fun r => { r with
      lastSample := some x.shelfTime, history := filterStep level x.shelfTime r }) x := by
  simp only [takeSample, other]
  exact editLine_editLine hl _ _ x

theorem acceptance_watched {x : Shelf} {l : Nat} {level : Level} (watching : watched x l = true) {first : Bool}
    (row : (vget x.lines l).accepted.isNone = first) (new : (vget x.lines l).accepted ≠ some level) :
    acceptance first l level x = acceptLevel l level x.shelfTime x := by
  simp [acceptance, row, watching, new]

/-- What the three rows of the lines do with a sample or a change. -/
theorem exec_lines (e : Ambient) (l : Fin 16) (level : Level) (s : State) :
    let now := s.shelfTime + e.elapsed
    let x := (opening e s).toShelf
    let r := vget s.lines l
    let accepted := fun time => Host.Outcome.next (closing (onShelf (acceptLevel l level time)
      (opening e s)))
    (watched x l = true → r.accepted = none →
      exec (.firstAcceptance e l level) s = accepted now) ∧
    (watched x l = true → r.accepted ≠ none → r.accepted ≠ some level →
      exec (.lineEdge e l level) s = accepted now) ∧
    (sampleDue x l = true → r.history.candidate = some level → 2 ≤ r.history.count →
      r.accepted ≠ some level →
      let third := Host.Outcome.next (closing (onShelf
        (fun x => acceptLevel l level r.history.first
          (editLine l (fun r => { r with lastSample := some now }) x)) (opening e s)))
      exec (.filterSample e l level) s = third ∧
        (r.accepted = none → exec (.firstAcceptance e l level) s = third) ∧
        (r.accepted ≠ none → exec (.lineEdge e l level) s = third)) ∧
    (watched x l = true ↔ s.sampling = true ∧ (senseAt x l).period = 0) ∧
    (sampleDue x l = true ↔ s.sampling = true ∧ (senseAt x l).period ≠ 0 ∧
      ∀ t, r.lastSample = some t →
        reached now (t + BitVec.ofNat 32 (senseAt x l).period) = true) ∧
    (Still s → sampleDue x l = true → completes r level = false →
      exec (.filterSample e l level) s =
        .next (settled
          (editLine l fun r => { r with
            lastSample := some now
            history :=
              if r.accepted = some level then ⟨none, 0, 0⟩
              else if r.history.candidate = some level then
                { r.history with count := r.history.count + 1 }
              else ⟨some level, 1, now⟩ }) (opening e s))) := by
  intro now x r accepted
  have acts : ∀ {f : Shelf → Shelf} {y : Shelf}, f x = y →
      closing (onShelf f (opening e s)) = closing { y with store := s.store, pending := s.pending } :=
    fun same => congrArg (fun y : Shelf => closing { y with store := s.store, pending := s.pending }) same
  have first : r.accepted = none → r.accepted.isNone = true := fun none => by rw [none]; rfl
  have later : r.accepted ≠ none → r.accepted.isNone = false := fun some => by
    rw [Option.isNone_eq_false_iff, Option.isSome_iff_ne_none]
    exact some
  refine ⟨fun watching none => ?_, fun watching some new => ?_, fun due candidate count new => ?_,
    watched_iff x l, sampleDue_iff x l, fun still due other => ?_⟩
  · have new : r.accepted ≠ some level := fun same => by rw [none] at same; cases same
    exact congrArg Host.Outcome.next (acts (acceptance_watched watching (first none) new))
  · exact congrArg Host.Outcome.next (acts (acceptance_watched watching (later some) new))
  · have third : completes r level = true := (completes_iff r level).mpr ⟨new, candidate, count⟩
    have taken := takeSample_third (x := x) third
    refine ⟨congrArg Host.Outcome.next (acts ((if_pos due).trans taken)), fun none => ?_, fun some => ?_⟩
    · exact congrArg Host.Outcome.next (acts ((acceptance_third due third (first none)).trans taken))
    · exact congrArg Host.Outcome.next (acts ((acceptance_third due third (later some)).trans taken))
  · obtain ⟨quiet, rx⟩ := still
    have taken : filterSample l level x = _ := (if_pos due).trans (takeSample_other l.isLt other)
    exact congrArg Host.Outcome.next ((acts taken).trans (closing_onShelf_quiet _ (opening e s) quiet rx))

theorem lineActive_iff (x : Shelf) (l : Nat) :
    lineActive x l = true ↔ (vget x.lines l).accepted = some (senseAt x l).active := decide_eq_true_iff

theorem goodLineOf_iff (x : Shelf) (l t : Nat) :
    goodLineOf x t = some l ↔ ∃ entry, trayAt x t = some entry ∧ entry.goodLine = some l ∧
      (senseAt x l).role = .trayGood ∧ (senseAt x l).index = t := by
  unfold goodLineOf
  cases trayAt x t with
  | none => simp
  | some entry =>
    obtain ⟨roster, allocation, inrush, timeout, keep, rank, zone, line⟩ := entry
    cases line with
    | none => simp
    | some k =>
      simp only [Option.ite_none_right_eq_some, Option.some.injEq, exists_eq_left']
      constructor
      · rintro ⟨good, rfl⟩
        exact ⟨rfl, good⟩
      · rintro ⟨rfl, good⟩
        exact ⟨good, rfl⟩

/-! ### Delivery leaves the lines as they are -/

@[simp] theorem lines_trayTo (t : Nat) (new : TrayState) (f : Tray → Tray) (x : Shelf) :
    (trayTo t new f x).lines = x.lines := by rw [trayTo_eq]

@[simp] theorem lines_placeOff (t : Nat) (x : Shelf) : (placeOff t x).lines = x.lines := by rw [placeOff_eq]

theorem lines_faultTray (t : Nat) (cause : TrayFault) (x : Shelf) : (faultTray t cause x).lines = x.lines := by
  simp only [faultTray]
  split
  · rw [lines_placeOff, lines_trayTo]
  · rw [lines_trayTo]

theorem lines_trayLineEdge (t : Nat) (rising : Bool) (time : Time) (x : Shelf) :
    (trayLineEdge t rising time x).lines = x.lines := by
  simp only [trayLineEdge]
  split
  · split
    · exact lines_trayTo _ _ _ _
    · rfl
  · split
    · rfl
    · exact lines_faultTray _ _ _
  · rfl

theorem monitorOnly_psmLine (i : Nat) (active : Bool) (x : Shelf) : MonitorOnly x (psmLine i active x) := by
  simp only [psmLine]
  split
  · exact .refl x
  · split
    · rfl
    · exact MonitorOnly.trans (y := editPsm i
        (fun r => { r with lineActive := active, inputHold := r.inputHold || active }) x) rfl
        (monitorOnly_checkPsm _ _ _)

theorem lines_psmLine (i : Nat) (active : Bool) (x : Shelf) : (psmLine i active x).lines = x.lines := by
  have same := congrArg Shelf.lines (monitorOnly_psmLine i active x)
  exact same

theorem lines_followShelfStop (x : Shelf) : (followShelfStop x).lines = x.lines := by
  simp only [followShelfStop]
  split
  · rfl
  · split
    · rfl
    · rw [admissionDue_lines, postpone_lines]

theorem lines_deliverLine (entry : SenseEntry) (l : Nat) (active : Bool) (edge : Option Time) (x : Shelf) :
    (deliverLine entry l active edge x).lines = x.lines := by
  unfold deliverLine
  split
  · rfl
  · exact lines_psmLine _ _ _
  · rfl
  · split
    · split
      · exact lines_trayLineEdge _ _ _ _
      · rfl
    · rfl
  · exact lines_followShelfStop x

/-! ### Acceptance of a level -/

theorem qualifies_iff (select : EdgeSelect) (rising : Bool) :
    qualifies select rising = true ↔ select = .both ∨ (select = .rising ↔ rising = true) := by
  cases select <;> cases rising <;> decide

/-- A sense line's record after an acceptance (R4, R7). -/
def acceptedLine (entry : SenseEntry) (level : Level) (time : Time) (r : SenseLine) : SenseLine :=
  { r with
    accepted := some level, history := clearHistory
    capture := if !r.accepted.isNone && qualifies entry.edge (level = entry.active) then
      capture (level = entry.active) time r.capture else r.capture }

theorem acceptLevel_eq (l : Nat) (level : Level) (time : Time) (x : Shelf) :
    acceptLevel l level time x =
      deliverLine (senseAt x l) l (level = (senseAt x l).active)
        (if (vget x.lines l).accepted = none then none else some time)
        { x with lines := vset x.lines l (acceptedLine (senseAt x l) level time (vget x.lines l)) } := by
  simp only [acceptLevel, Option.isNone_iff_eq_none]
  rfl

theorem lines_acceptLevel (l : Nat) (level : Level) (time : Time) (x : Shelf) :
    (acceptLevel l level time x).lines =
      vset x.lines l (acceptedLine (senseAt x l) level time (vget x.lines l)) := by
  rw [acceptLevel_eq, lines_deliverLine]

theorem acceptLevel_spec (l : Nat) (level : Level) (time : Time) (x : Shelf) (hl : l < 16) :
    let old := vget x.lines l
    let rising : Bool := level = (senseAt x l).active
    let new := vget (acceptLevel l level time x).lines l
    new.accepted = some level ∧ new.history = ⟨none, 0, 0⟩ ∧
      (old.accepted = none → new.capture = old.capture) ∧
      (old.accepted ≠ none →
        new.capture =
          if (senseAt x l).edge = .both ∨ ((senseAt x l).edge = .rising ↔ rising = true) then
            { latest := time, previous := old.capture.latest
              edge := some (if rising then .rising else .falling), captured := true
              missed := old.capture.missed || old.capture.captured }
          else old.capture) ∧
      (∀ k ≠ l, vget (acceptLevel l level time x).lines k = vget x.lines k) ∧
      acceptLevel l level time x =
        deliverLine (senseAt x l) l rising (if old.accepted = none then none else some time)
          { x with lines := (acceptLevel l level time x).lines } := by
  intro old rising new
  have lines := lines_acceptLevel l level time x
  have record : new = acceptedLine (senseAt x l) level time old := by
    change vget (acceptLevel l level time x).lines l = _
    rw [lines, vget_vset_self _ _ _ hl]
  refine ⟨by rw [record]; rfl, by rw [record]; rfl, fun first => ?_, fun later => ?_, fun k other => ?_, ?_⟩
  · rw [record, acceptedLine, first]
    rfl
  · have known : old.accepted.isNone = false := by
      rw [Option.isNone_eq_false_iff, Option.isSome_iff_ne_none]
      exact later
    rw [record]
    simp only [acceptedLine, known, Bool.not_false, Bool.true_and, qualifies_iff, capture]
    rfl
  · rw [lines, vget_vset_ne _ _ (Ne.symm other)]
  · rw [lines]
    exact acceptLevel_eq l level time x

/-! ### The owners of the roles -/

theorem stopLineActive_iff (x : Shelf) :
    stopLineActive x = true ↔ ∃ k < 16, (senseAt x k).role = .shelfStop ∧
      (vget x.lines k).accepted = some (senseAt x k).active := by
  simp [stopLineActive, lineActive, Config.senseCount]

theorem mem_deferred_after_postpone (t : Task) (x : Shelf) : t ∈ (postpone t x).deferred := by
  unfold postpone
  split
  · next waits => exact waits
  · exact List.mem_append_right _ (List.mem_singleton_self t)

/-- The shelf stop condition is active exactly while some SHELF-STOP line is (R6). -/
theorem followShelfStop_spec (x : Shelf) :
    let y := followShelfStop x
    let stops := ∃ k < 16, (senseAt x k).role = .shelfStop ∧
      (vget x.lines k).accepted = some (senseAt x k).active
    let trays := ((List.range 24).filter fun t => (trayAt x t).isSome).map Task.shelfStopTray
    (y.shelfStop = true ↔ stops) ∧
      ((x.shelfStop = true ↔ stops) → y = x) ∧
      (x.shelfStop = false → stops →
        y = { x with
          shelfStop := true
          raised := x.raised ++
            if x.ambient.programFirst then .seqShelfStop :: trays else trays ++ [.seqShelfStop] }) ∧
      (x.shelfStop = true → ¬stops →
        y.admitDue = true ∧ Task.autostartTest ∈ y.deferred ∧
          y = { x with shelfStop := false, admitDue := true, deferred := y.deferred }) := by
  intro y stops trays
  have active : stopLineActive x = true ↔ stops := stopLineActive_iff x
  have eq : y = if stopLineActive x = x.shelfStop then x
      else if stopLineActive x = true then emitAll (stopTasks x) { x with shelfStop := true }
      else admissionDue (postpone .autostartTest { x with shelfStop := false }) := rfl
  have begins : x.shelfStop = false → stops → y = emitAll (stopTasks x) { x with shelfStop := true } :=
    fun was now => by rw [eq, active.mpr now, was]; rfl
  have ends : x.shelfStop = true → ¬stops →
      y = admissionDue (postpone .autostartTest { x with shelfStop := false }) := fun was now => by
    have off : stopLineActive x = false := Bool.eq_false_iff.mpr (mt active.mp now)
    rw [eq, off, was]
    rfl
  have stays : (x.shelfStop = true ↔ stops) → y = x := fun same =>
    eq.trans (if_pos (Bool.eq_iff_iff.mpr (active.trans same.symm)))
  refine ⟨?_, stays, begins, fun was now => ?_⟩
  · by_cases now : stops
    · cases was : x.shelfStop with
      | true => rw [stays ⟨fun _ => now, fun _ => was⟩]; exact ⟨fun _ => now, fun _ => was⟩
      | false => rw [begins was now]; exact ⟨fun _ => now, fun _ => rfl⟩
    · cases was : x.shelfStop with
      | true =>
        rw [ends was now, admissionDue_shelfStop, postpone_shelfStop]
        exact ⟨fun h => absurd h Bool.false_ne_true, fun h => absurd h now⟩
      | false =>
        have same : x.shelfStop = true ↔ stops := by simp [was, now]
        rw [stays same]
        exact same
  · rw [ends was now]
    exact ⟨rfl, mem_deferred_after_postpone _ _, by rw [postpone_eq]; rfl⟩

theorem deliverLine_spec (entry : SenseEntry) (l : Nat) (active : Bool) (edge : Option Time) (x : Shelf) :
    let y := deliverLine entry l active edge x
    let stops := ∃ k < 16, (senseAt x k).role = .shelfStop ∧
      (vget x.lines k).accepted = some (senseAt x k).active
    let trays := ((List.range 24).filter fun t => (trayAt x t).isSome).map Task.shelfStopTray
    (entry.role = .unused → y = x) ∧
    (entry.role = .inputLoss → y = psmLine entry.index active x) ∧
    (entry.role = .leak → y = { x with raised := x.raised ++ [.zones] }) ∧
    (entry.role = .trayGood →
      (edge = none → y = x) ∧
      ∀ time, edge = some time →
        (goodLineOf x entry.index = some l → y = trayLineEdge entry.index active time x) ∧
        (goodLineOf x entry.index ≠ some l → y = x)) ∧
    (entry.role = .shelfStop →
      (y.shelfStop = true ↔ stops) ∧
      ((x.shelfStop = true ↔ stops) → y = x) ∧
      (x.shelfStop = false → stops →
        y = { x with
          shelfStop := true
          raised := x.raised ++
            if x.ambient.programFirst then .seqShelfStop :: trays else trays ++ [.seqShelfStop] }) ∧
      (x.shelfStop = true → ¬stops →
        y.admitDue = true ∧ Task.autostartTest ∈ y.deferred ∧
          y = { x with shelfStop := false, admitDue := true, deferred := y.deferred })) := by
  refine ⟨fun role => ?_, fun role => ?_, fun role => ?_, fun role => ⟨fun initial => ?_, fun time edge => ⟨?_, ?_⟩⟩,
    fun role => ?_⟩ <;> simp only [deliverLine, role]
  · rfl
  · simp only [initial]
  · intro line
    simp only [edge, line, if_true]
  · intro line
    simp only [edge, line, if_false]
  · exact followShelfStop_spec x

/-! ### Drive lines -/

theorem zoneWet_iff (x : Shelf) (z : Nat) :
    zoneWet x z = true ↔ (zoneAt x z).isSome = true ∧ (vget x.zones z).state = .wet := by simp [zoneWet]

theorem driveActive_iff (x : Shelf) (e : DriveEntry) :
    driveActive x e = true ↔ (e.role = .valve ∧ zoneWet x e.index = true) ∨
      (e.role = .leakAlarm ∧ ∃ z < 8, zoneWet x z = true) ∨
      (e.role = .rideActive ∧ x.ride.state ≠ .normal) := by
  obtain ⟨role, index, active⟩ := e
  cases role <;> simp [driveActive, anyZoneWet, rideNormal, Config.zoneCount]

theorem otherLevel_ne (level : Level) : otherLevel level ≠ level := by cases level <;> decide

theorem driveLevel_spec (x : Shelf) (d : Nat) (hd : d < 8) :
    let e := driveAt x d
    let wet := fun z => (zoneAt x z).isSome = true ∧ (vget x.zones z).state = .wet
    let drives := (e.role = .valve ∧ wet e.index) ∨ (e.role = .leakAlarm ∧ ∃ z < 8, wet z) ∨
      (e.role = .rideActive ∧ x.ride.state ≠ .normal)
    (drives → driveLevel x d = e.active) ∧ (¬drives → driveLevel x d ≠ e.active) ∧
      vget (setDrives x).drives d = driveLevel x d ∧
      setDrives x = { x with drives := (setDrives x).drives } := by
  intro e wet drives
  have active : driveActive x e = true ↔ drives := by
    simp only [driveActive_iff, zoneWet_iff]
    rfl
  refine ⟨fun on => if_pos (active.mpr on), fun off => ?_, vget_ofFn _ hd, rfl⟩
  rw [driveLevel, if_neg (mt active.mp off)]
  exact otherLevel_ne e.active

/-! ### An apply to the Line table (R5) -/

theorem ownerChanged_iff (old new : SenseEntry) :
    ownerChanged old new = true ↔ old.role ≠ new.role ∨ old.index ≠ new.index := by simp [ownerChanged]

theorem withdrawLine_eq (old : SenseEntry) (l : Nat) (x : Shelf) :
    (old.role = .unused ∨ old.role = .leak ∨ old.role = .trayGood → withdrawLine old x = x) ∧
      (old.role = .inputLoss ∨ old.role = .shelfStop →
        withdrawLine old x = deliverLine old l false none x) := by
  constructor
  · rintro (role | role | role) <;> simp only [withdrawLine, role]
  · rintro (role | role) <;> simp only [withdrawLine, deliverLine, role]

theorem lineChange_spec (l : Nat) (old : SenseEntry) (x : Shelf) :
    let new := senseAt x l
    let moved := old.role ≠ new.role ∨ old.index ≠ new.index
    let active : Bool := (vget x.lines l).accepted = some new.active
    let was : Bool := (vget x.lines l).accepted = some old.active
    let cleared := if old.period = new.period then x else { x with
      lines := vset x.lines l { vget x.lines l with history := ⟨none, 0, 0⟩, lastSample := none } }
    (¬moved ∨ old.role = .unused ∨ old.role = .leak ∨ old.role = .trayGood →
      withdrawSense l old x = cleared) ∧
    (moved → old.role = .inputLoss ∨ old.role = .shelfStop →
      withdrawSense l old x = deliverLine old l false none cleared) ∧
    (moved ∨ was ≠ active → deliverSense l old x = deliverLine new l active none x) ∧
    (¬moved → was = active → deliverSense l old x = x) := by
  intro new moved active was cleared
  have owner : ownerChanged old new = true ↔ moved := ownerChanged_iff old new
  have clears : (if old.period ≠ new.period then
      editLine l (fun r => { r with history := clearHistory, lastSample := none }) x else x) = cleared :=
    ite_not ..
  have withdraws : withdrawSense l old x =
      if ownerChanged old new = true then withdrawLine old cleared else cleared :=
    congrArg (fun y => if ownerChanged old new = true then withdrawLine old y else y) clears
  have delivers : deliverSense l old x =
      if (ownerChanged old new || was ≠ active) = true then deliverLine new l active none x else x := rfl
  have either : (ownerChanged old new || was ≠ active) = true ↔ moved ∨ was ≠ active := by
    rw [Bool.or_eq_true, owner, decide_eq_true_eq]
  obtain ⟨untold, told⟩ := withdrawLine_eq old l cleared
  refine ⟨fun still => ?_, fun moves role => ?_, fun given => ?_, fun same level => ?_⟩
  · rw [withdraws]
    split
    · next changes => exact untold (still.resolve_left fun no => no (owner.mp changes))
    · rfl
  · rw [withdraws, if_pos (owner.mpr moves), told role]
  · rw [delivers, if_pos (either.mpr given)]
  · rw [delivers, if_neg fun given => (either.mp given).elim same fun differ => differ level]

/-- Settles O42: acceptance, captures, delivery by role, the shelf stop, drive levels, and an apply. -/
theorem linesAcceptAndDrive : Obligations.LinesAcceptAndDrive :=
  ⟨exec_lines, fun x l t => ⟨lineActive_iff x l, goodLineOf_iff x l t⟩, completes_iff, acceptLevel_spec,
    deliverLine_spec, driveLevel_spec, fun _ _ _ => rfl, fun l old x _ => lineChange_spec l old x⟩

end Sys2Proof.Machine
end

section
/-! PROOF. EDIT-APPLY (R176, R177): which latched entry fails first, the replaced entries, and each table's side
effects. -/

namespace Sys2Proof.Machine

/-! ### The latched records -/

theorem latchedAt_eq_some (w : Window) (i : Nat) (record : Record) :
    latchedAt w i = some record ↔
      w.first ≤ i ∧ i < w.first + w.count ∧ w.latched[i - w.first]? = some (some record) := by
  unfold latchedAt
  rw [List.getD_eq_getElem?_getD]
  split
  · next range =>
    obtain ⟨low, high⟩ := range
    rw [and_iff_right low, and_iff_right high]
    cases w.latched[i - w.first]? <;> simp
  · next out =>
    constructor
    · intro h
      cases h
    · rintro ⟨low, high, _⟩
      exact absurd ⟨low, high⟩ out

theorem latchedEntries_eq (w : Window) :
    latchedEntries w =
      ((List.range w.count).filter fun j => (w.latched.getD j none).isSome).map (w.first + ·) := by
  rw [latchedEntries, ← List.filterMap_eq_map, List.filterMap_filter]
  rfl

theorem latchedEntries_ascend (w : Window) : (latchedEntries w).Pairwise (· < ·) := by
  rw [latchedEntries_eq, List.pairwise_map]
  exact (List.pairwise_lt_range.filter _).imp fun h => Nat.add_lt_add_left h w.first

theorem mem_latchedEntries (w : Window) (i : Nat) : i ∈ latchedEntries w ↔ (latchedAt w i).isSome := by
  rw [latchedEntries_eq, latchedAt]
  simp only [List.mem_map, List.mem_filter, List.mem_range]
  constructor
  · rintro ⟨j, ⟨low, latched⟩, rfl⟩
    rw [if_pos ⟨Nat.le_add_right _ _, Nat.add_lt_add_left low _⟩, Nat.add_sub_cancel_left]
    exact latched
  · intro latched
    split at latched
    · next range =>
      obtain ⟨low, high⟩ := range
      exact ⟨i - w.first, ⟨by omega, latched⟩, by omega⟩
    · cases latched

theorem length_tableAfter (x : Shelf) (w : Window) : (tableAfter x w).length = tableSize w.table := by
  simp [tableAfter]

theorem recordOf_tableAfter (x : Shelf) (w : Window) {i : Nat} (h : i < tableSize w.table) :
    recordOf (tableAfter x w) i = (latchedAt w i).getD (recordAt x w.table i) := by
  simp [recordOf, tableAfter, List.getD_eq_getElem?_getD, List.getElem?_range h]

/-- The first of an ascending list that meets a test is the lowest that does. -/
theorem find?_eq_some_lowest {l : List Nat} (ascends : l.Pairwise (· < ·)) {p : Nat → Bool} {i : Nat} :
    l.find? p = some i ↔ i ∈ l ∧ p i = true ∧ ∀ j ∈ l, j < i → ¬p j = true := by
  induction l with
  | nil => simp
  | cons a l ih =>
    obtain ⟨above, ascends⟩ := List.pairwise_cons.mp ascends
    by_cases here : p a = true
    · rw [List.find?_cons_of_pos here, Option.some.injEq]
      constructor
      · rintro rfl
        refine ⟨List.mem_cons_self, here, fun j member lower => ?_⟩
        obtain rfl | later := List.mem_cons.mp member
        · exact absurd lower (Nat.lt_irrefl j)
        · exact absurd (above j later) (Nat.lt_asymm lower)
      · rintro ⟨member, _, lowest⟩
        obtain same | later := List.mem_cons.mp member
        · exact same.symm
        · exact absurd here (lowest a List.mem_cons_self (above i later))
    · rw [List.find?_cons_of_neg here, ih ascends]
      constructor
      · rintro ⟨member, passes, lowest⟩
        refine ⟨List.mem_cons_of_mem a member, passes, fun j inside lower => ?_⟩
        obtain rfl | later := List.mem_cons.mp inside
        · exact here
        · exact lowest j later lower
      · rintro ⟨member, passes, lowest⟩
        obtain rfl | later := List.mem_cons.mp member
        · exact absurd passes here
        · exact ⟨later, passes, fun j inside => lowest j (List.mem_cons_of_mem a inside)⟩

theorem latchedRecords_spec (x : Shelf) (w : Window) (ht : w.table ≤ 12) :
    let fails := EntryFails x w.table (tableAfter x w)
    (∀ i record, latchedAt w i = some record ↔
      w.first ≤ i ∧ i < w.first + w.count ∧ w.latched[i - w.first]? = some (some record)) ∧
    (latchedEntries w).Pairwise (· < ·) ∧ (∀ i, i ∈ latchedEntries w ↔ (latchedAt w i).isSome) ∧
    (tableAfter x w).length = tableSize w.table ∧
    (∀ i < tableSize w.table,
      recordOf (tableAfter x w) i = (latchedAt w i).getD (recordAt x w.table i)) ∧
    (firstFailing x w = none ↔ ∀ i ∈ latchedEntries w, ¬fails i) ∧
    ∀ i, firstFailing x w = some i ↔
      i ∈ latchedEntries w ∧ fails i ∧ ∀ j ∈ latchedEntries w, j < i → ¬fails j := by
  intro fails
  have judged : ∀ i, entryFails x w.table (tableAfter x w) i = true ↔ fails i := fun i =>
    entryFails_iff x w.table (tableAfter x w) i ht
  refine ⟨latchedAt_eq_some w, latchedEntries_ascend w, mem_latchedEntries w, length_tableAfter x w,
    fun i hi => recordOf_tableAfter x w hi, ?_, fun i => ?_⟩
  · simp only [firstFailing, List.find?_eq_none, judged]
  · simp only [firstFailing, find?_eq_some_lowest (latchedEntries_ascend w), judged]

/-! ### The request (R176) -/

theorem applyWindow_closed {x : Shelf} (h : x.window = none) : applyWindow x = ((stNoWindow, []), x) := by
  rw [applyWindow, h]

section Open

variable {x : Shelf} {w : Window} (opened : x.window = some w)

include opened

theorem applyWindow_protected (held : rangeProtected x w.table w.first w.count = true) :
    applyWindow x = ((stProtected, []), { x with window := some { w with idle := idleTimer x } }) := by
  simp only [applyWindow, opened, held, if_true]

variable (free : rangeProtected x w.table w.first w.count = false)

include free

theorem applyWindow_unlatched (empty : latchedEntries w = []) :
    applyWindow x = ((stDone, []), { x with window := none }) := by
  simp only [applyWindow, opened, free, empty, if_true, Bool.false_eq_true, if_false]

theorem applyWindow_fails (latched : latchedEntries w ≠ []) {i : Nat} (fails : firstFailing x w = some i) :
    applyWindow x = ((stInvalid, be8 i), { x with window := some { w with idle := idleTimer x } }) := by
  simp only [applyWindow, opened, free, latched, fails, Bool.false_eq_true, if_false]

theorem applyWindow_passes (latched : latchedEntries w ≠ []) (passes : firstFailing x w = none) :
    applyWindow x = ((stDone, []), replaceEntries w x) := by
  simp only [applyWindow, opened, free, latched, passes, Bool.false_eq_true, if_false]

end Open

theorem exec_editApply (e : Ambient) (s : State) (calm : Calm s) :
    let h := heard e s
    let x := h.toShelf
    let fresh := Timer.running (x.shelfTime + 5000000)
    (s.window = none →
      exec (.editApply e) s = .next (answered rqEditApply stNoWindow [] h)) ∧
    ∀ w, s.window = some w →
      let keep := onShelf (fun x => { x with window := some { w with idle := fresh } }) h
      (rangeProtected x w.table w.first w.count = true →
        exec (.editApply e) s = .next (answered rqEditApply stProtected [] keep)) ∧
      (rangeProtected x w.table w.first w.count = false → latchedEntries w = [] →
        exec (.editApply e) s =
          .next (answered rqEditApply stDone [] (onShelf (fun x => { x with window := none }) h))) ∧
      (rangeProtected x w.table w.first w.count = false → latchedEntries w ≠ [] →
        (∀ i, firstFailing x w = some i →
          exec (.editApply e) s =
            .next (answered rqEditApply stInvalid [BitVec.ofNat 8 i] keep)) ∧
        (firstFailing x w = none →
          exec (.editApply e) s =
            .next (closing (told rqEditApply stDone [] (onShelf (replaceEntries w) h))))) := by
  intro h x fresh
  have window : x.window = s.window := rfl
  obtain ⟨quiet, rx⟩ := still_heard e calm
  have acted : ∀ {status data} {y : Shelf}, applyWindow x = ((status, data), y) → Quiet y → y.engUp.rx = [] →
      exec (.editApply e) s = .next (answered rqEditApply status data (onShelf (fun _ => y) h)) :=
    fun given quiet rx => congrArg Host.Outcome.next
      (request_acted e calm (f := applyWindow) (by simp) rfl (fun _ => rfl) given quiet rx)
  refine ⟨fun closed => acted (applyWindow_closed closed) quiet rx, fun w opened => ?_⟩
  intro keep
  have opened : x.window = some w := opened
  refine ⟨fun held => acted (applyWindow_protected opened held) quiet rx,
    fun free empty => acted (applyWindow_unlatched opened free empty) quiet rx,
    fun free latched => ⟨fun i fails => acted (applyWindow_fails opened free latched fails) quiet rx,
      fun passes => ?_⟩⟩
  have given : applyWindow h.toShelf = _ := applyWindow_passes opened free latched passes
  have acts : actAndTell rqEditApply applyWindow h =
      told rqEditApply stDone [] (onShelf (replaceEntries w) h) := by
    simp only [actAndTell, told, onShelf, given]
  exact congrArg Host.Outcome.next ((request_dispatched e calm.1 (by simp) rfl).trans (congrArg closing acts))

/-! ### The entries replaced (R176, step 5) -/

theorem replaceEntries_spec (x : Shelf) (w : Window) (ht : w.table ≤ 12) :
    let y := replaceEntries w x
    y.window = none ∧
      (∀ i < tableSize w.table,
        recordAt y w.table i = (latchedAt w i).getD (recordAt x w.table i)) ∧
      (∀ t ≠ w.table, ∀ i, recordAt y t i = recordAt x t i) ∧
      y = { x with
        tables := y.tables, window := none
        raised := x.raised ++
          [.applied w.table (vget x.tables w.table) (latchedEntries w), .endApply]
        applying := some (if w.table ∈ [0, 7, 8, 9] then [.apply] else []) } := by
  intro y
  have tables : y.tables = vset x.tables w.table (tableAfter x w) := rfl
  have causes : applyCauses w.table = if w.table ∈ [0, 7, 8, 9] then [.apply] else [] := by
    simp only [applyCauses, List.mem_cons, List.not_mem_nil, or_false]
    rfl
  refine ⟨rfl, fun i hi => ?_, fun t other i => ?_, ?_⟩
  · rw [← recordOf_tableAfter x w hi, recordAt, tables, vget_vset_self _ _ _ (by omega)]
    rfl
  · rw [recordAt, tables, vget_vset_ne _ _ (Ne.symm other)]
    rfl
  · rw [← causes]
    rfl

/-! ### The side effects by table (R177) -/

theorem unlisted_iff (x : Shelf) (r : Nat) :
    unlisted x r = true ↔ ∃ e, rosterAt x r = some e ∧ ∀ i < 32, pollAt x e.port i ≠ some r := by
  unfold unlisted
  cases rosterAt x r <;> simp

/-- The modules that a list does not name, and that are not ABSENT, are to become so, in ascending order (R140). -/
def goingAbsent (x : Shelf) : List Nat :=
  ((rostersInUse x).filter (unlisted x)).filter fun r => (vget x.modules r).presence ≠ .absent

theorem absentUnlisted_eq (x : Shelf) :
    absentUnlisted x = { x with raised := x.raised ++ (goingAbsent x).map fun r => Task.moduleAbsent r false } :=
  rfl

theorem goingAbsent_ascends (x : Shelf) : (goingAbsent x).Pairwise (· < ·) :=
  ((List.pairwise_lt_range.filter _).filter _).filter _

theorem mem_goingAbsent (x : Shelf) (r : Nat) :
    r ∈ goingAbsent x ↔ r < 48 ∧ (vget x.modules r).presence ≠ .absent ∧
      ∃ e, rosterAt x r = some e ∧ ∀ i < 32, pollAt x e.port i ≠ some r := by
  rw [← unlisted_iff]
  simp only [goingAbsent, rostersInUse, List.mem_filter, List.mem_range, decide_eq_true_eq]
  constructor
  · rintro ⟨⟨⟨low, _⟩, out⟩, here⟩
    exact ⟨low, here, out⟩
  · rintro ⟨low, here, out⟩
    obtain ⟨e, entry, _⟩ := (unlisted_iff x r).mp out
    exact ⟨⟨⟨low, Option.isSome_of_eq_some entry⟩, out⟩, here⟩

/-- Some in-use tray of a Trays table is UNKNOWN (R89). -/
abbrev Adopting (inUse : Nat → Bool) (x : Shelf) : Prop := ∃ t < 24, inUse t = true ∧ trayState x t = .unknown

theorem adoptionWas_iff (old : List Record) (x : Shelf) :
    adoptionWas old x = false ↔ Adopting (fun t => (decodeTray (recordOf old t)).isSome) x := by
  simp [adoptionWas, Adopting, Config.trayCount, Option.isSome_iff_ne_none]

theorem adoptionComplete_iff (x : Shelf) :
    adoptionComplete x = true ↔ ¬Adopting (fun t => (trayAt x t).isSome) x := by
  simp [adoptionComplete_eq]

theorem applyTrays_spec (old : List Record) (latched : List Nat) (x : Shelf) :
    let z := latched.foldl (fun u t => applyTray old t u) x
    let completes := Adopting (fun t => (decodeTray (recordOf old t)).isSome) x ∧
      ¬Adopting (fun t => (trayAt z t).isSome) z
    (completes → applyTrays old latched x = { z with
      deferred := alsoWaits .autostartTest z.deferred, admitDue := true }) ∧
    (¬completes → applyTrays old latched x = z) := by
  intro z completes
  have ends : (!adoptionWas old x && adoptionComplete z) = true ↔ completes := by
    rw [Bool.and_eq_true, Bool.not_eq_true', adoptionWas_iff, adoptionComplete_iff]
  have eq : applyTrays old latched x =
      if (!adoptionWas old x && adoptionComplete z) = true then admissionDue (postpone .autostartTest z)
      else z := rfl
  refine ⟨fun done => ?_, fun undone => eq.trans (if_neg (mt ends.mp undone))⟩
  rw [eq, if_pos (ends.mpr done), postpone_alsoWaits]
  rfl

theorem applied_spec (x : Shelf) (old : List Record) (latched : List Nat) :
    let y := fun table => perform (.applied table old latched) x
    let each := fun (f : Nat → Shelf → Shelf) (z : Shelf) => latched.foldl (fun u i => f i u) z
    let zonesAfter := fun z : Shelf => { z with raised := z.raised ++ [.zones] }
    let chargeAfter := fun z : Shelf => { z with deferred := alsoWaits .charge z.deferred }
    let unlistedGo := fun z t : Shelf => ∃ rs : List Nat, rs.Pairwise (· < ·) ∧
      t = zonesAfter { z with
        raised := z.raised ++ rs.map fun r => Task.moduleAbsent r false } ∧
      ∀ r, r ∈ rs ↔ r < 48 ∧ (vget z.modules r).presence ≠ .absent ∧
        ∃ e, rosterAt z r = some e ∧ ∀ i < 32, pollAt z e.port i ≠ some r
    y 0 = { chargeAfter x with admitDue := true } ∧ y 1 = x ∧ y 11 = x ∧ y 12 = x ∧
    unlistedGo (each (admitNew old) (each (removeOld old) x)) (y 2) ∧ unlistedGo x (y 3) ∧
    y 4 = zonesAfter (applySampleMap old x) ∧ y 5 = applyLimits old x ∧
    y 6 = zonesAfter (applyLines old latched x) ∧
    y 7 = chargeAfter (recomputeCapacity (each (applyPsm old) x)) ∧
    y 8 = chargeAfter (recomputeCapacity (each (applyBbm old) x)) ∧
    (let z := each (applyTray old) x
    let adopting := fun (inUse : Nat → Bool) (u : Shelf) =>
      ∃ t < 24, inUse t = true ∧ trayState u t = .unknown
    let completes := adopting (fun t => (decodeTray (recordOf old t)).isSome) x ∧
      ¬adopting (fun t => (trayAt z t).isSome) z
    (completes → y 9 = { z with
      deferred := alsoWaits .autostartTest z.deferred, admitDue := true }) ∧
    (¬completes → y 9 = z)) ∧
    y 10 = each (fun z => applyZone z (decodeZone (recordOf old z))) x := by
  intro y each zonesAfter chargeAfter unlistedGo
  have charges : ∀ z, postpone .charge z = chargeAfter z := postpone_alsoWaits .charge
  have policy : y 0 = admissionDue (postpone .charge x) := rfl
  have go : ∀ z, unlistedGo z (emit .zones (absentUnlisted z)) := fun z =>
    ⟨goingAbsent z, goingAbsent_ascends z, rfl, mem_goingAbsent z⟩
  exact ⟨policy.trans (congrArg admissionDue (charges x)), rfl, rfl, rfl, go _, go _, rfl, rfl, rfl,
    charges _, charges _, applyTrays_spec old latched x, rfl⟩

/-! ### Modules removed and admitted (R154) -/

/-- An earlier Roster entry's module is gone from a shelf. -/
abbrev Gone (before : Option RosterEntry) (x : Shelf) (r : Nat) : Prop :=
  ∃ a, before = some a ∧ ∀ b, rosterAt x r = some b →
    a.address ≠ b.address ∨ a.port ≠ b.port ∨ a.kind ≠ b.kind ∨ a.index ≠ b.index

theorem moduleGone_iff (before : Option RosterEntry) (x : Shelf) (r : Nat) :
    moduleGone before (rosterAt x r) = true ↔ Gone before x r := by
  unfold moduleGone
  cases before <;> cases entry : rosterAt x r <;> simp [Gone, entry, or_assoc]

theorem moduleCame_iff (before : Option RosterEntry) (x : Shelf) (r : Nat) :
    moduleCame before (rosterAt x r) = true ↔
      (rosterAt x r).isSome = true ∧ (before = none ∨ Gone before x r) := by
  rw [moduleCame, Bool.and_eq_true, Bool.or_eq_true, Option.isNone_iff_eq_none, moduleGone_iff]

theorem removeOld_eq (old : List Record) (r : Nat) (x : Shelf) :
    (¬Gone (decodeRoster (recordOf old r)) x r → removeOld old r x = x) ∧
      (Gone (decodeRoster (recordOf old r)) x r → ∀ a, decodeRoster (recordOf old r) = some a →
        removeOld old r x =
          staleAll (fedFrom x r) (moduleAbsentAs a r false (removeOrders a.port r x))) := by
  rw [← moduleGone_iff, removeOld]
  constructor
  · intro stays
    split
    · next a was => exact if_neg (was ▸ stays)
    · rfl
  · intro gone a was
    rw [was] at gone ⊢
    exact if_pos gone

theorem admitNew_eq (r : Nat) (old : List Record) (x : Shelf) :
    let before := decodeRoster (recordOf old r)
    let came := (rosterAt x r).isSome = true ∧ (before = none ∨ Gone before x r)
    (¬came → admitNew old r x = x) ∧
      (came → admitNew old r x = { x with modules := vset x.modules r ⟨.new, 0, none⟩ }) := by
  intro before came
  have test : moduleCame before (rosterAt x r) = true ↔ came := moduleCame_iff before x r
  exact ⟨fun no => if_neg (mt test.mp no), fun yes => if_pos (test.mpr yes)⟩

theorem tellPortOff_eq (x : Shelf) (o : ControlOrder) :
    tellPortOff x o =
      match o.target with
      | .tray t => trayOutcome t o.code .portOff x
      | .bbm k => bbmOutcome k o.code o.argument .portOff x
      | .gone => x := rfl

/-- The relayed orders of a removed module that are answered at once: the one in flight, then those queued. -/
def relayedOf (r : Nat) (pe : PollEngine) : List (Byte × Byte) :=
  (pe.inFlight.toList.filter fun tx => tx.roster = r ∧ tx.kind = .command ∧ tx.discarded = false).map
      (fun tx => (tx.address, tx.code.getD 0)) ++
    (pe.command.filter fun o => o.roster = r).map fun o => (o.address, o.code)

/-- PORT-OFF to the placer of each relayed order. -/
def answerPortOff (orders : List (Byte × Byte)) (x : Shelf) : Shelf :=
  orders.foldl (fun z o => answerOrder o.1 o.2 0x84 z) x

theorem answerFlight_eq (r : Nat) (pe : PollEngine) (x : Shelf) :
    answerFlight r pe x = answerPortOff ((pe.inFlight.toList.filter fun tx =>
      tx.roster = r ∧ tx.kind = .command ∧ tx.discarded = false).map
        fun tx => (tx.address, tx.code.getD 0)) x := by
  unfold answerFlight
  cases pe.inFlight with
  | none => rfl
  | some tx =>
    by_cases mine : tx.roster = r ∧ tx.kind = .command ∧ tx.discarded = false
    · simp [mine, answerPortOff]
      rfl
    · simp [mine, answerPortOff]

theorem refuseRelayed_eq (orders : List RelayedOrder) (x : Shelf) :
    refuseRelayed orders x = answerPortOff (orders.map fun o => (o.address, o.code)) x := by
  rw [answerPortOff, List.foldl_map]
  rfl

theorem answerPortOff_append (front back : List (Byte × Byte)) (x : Shelf) :
    answerPortOff (front ++ back) x = answerPortOff back (answerPortOff front x) := List.foldl_append

theorem removeOrders_eq (p : Port) (r : Nat) (x : Shelf) :
    let pe := pollEngine x p
    let mine := (pe.control.filter fun o => o.roster = r) ++
      (pe.inProgress.toList.filter fun g => g.order.roster = r).map (·.order)
    let cleared := setPoll p { pe with
      inFlight := pe.inFlight.map fun tx =>
        if tx.roster = r then { tx with discarded := true } else tx
      inProgress := pe.inProgress.filter fun g => g.order.roster ≠ r
      control := pe.control.filter fun o => o.roster ≠ r
      command := pe.command.filter fun o => o.roster ≠ r } x
    removeOrders p r x = answerPortOff (relayedOf r pe) (mine.foldl tellPortOff cleared) := by
  intro pe mine cleared
  rw [relayedOf, answerPortOff_append, ← answerFlight_eq, ← refuseRelayed_eq]
  rfl

/-- Settles O26, by the tests of R176 and each table's owner. -/
theorem applyDecided : Obligations.ApplyDecided := by
  refine ⟨exec_editApply, latchedRecords_spec, replaceEntries_spec, applied_spec, ?_⟩
  intro x old r _ before gone came
  obtain ⟨stays, goes⟩ := removeOld_eq old r x
  obtain ⟨known, enters⟩ := admitNew_eq r old x
  exact ⟨stays, known, enters, goes, fun p _ => removeOrders_eq p r x⟩

end Sys2Proof.Machine
end

section
/-! PROOF. Resets and start-up (R185 to R188): the loading of the tables, the values that each reset gives, and the
placing of the tables in effect with phases 3 to 5. -/

namespace Sys2Proof.Machine

/-! ### The directory and the images -/

theorem directoryUsable_iff (st : Store) :
    directoryUsable st = true ↔ (∀ j < 3, pageState st 0 j = .verified) ∧
      field16 (directory st) 79 = (crc16 ((directory st).take 79)).toNat := by
  simp [directoryUsable]

theorem directoryErased_iff (st : Store) :
    directoryErased st = true ↔ ∀ j < 3, pageState st 0 j = .erased := by simp [directoryErased]

theorem describesNone_iff (d : DirEntry) : describesNone d = true ↔ d.pages = 0 ∨ d.pages = 255 := by
  simp [describesNone]

theorem imageGood_iff (st : Store) (t : Nat) (d : DirEntry) :
    imageGood st t d = true ↔ 1 ≤ d.first ∧ 8 * d.first + d.pages ≤ 512 ∧
      (∀ j < d.pages, vget st.pages (8 * d.first + j) = .verified) ∧
      d.length = tableSize t * recordLength t ∧ d.pages = (d.length + 31) / 32 ∧
      (crc16 (imageBytes st d)).toNat = d.crc := by
  simp only [imageGood, imagePagesGood, Bool.and_eq_true, decide_eq_true_eq, List.all_eq_true, List.mem_range,
    and_assoc]
  exact Iff.rfl

theorem loadTable_spec (st : Store) (x : Shelf) (t : Nat) :
    let d := dirEntry st t
    let usable := (∀ j < 3, pageState st 0 j = .verified) ∧
      field16 (directory st) 79 = (crc16 ((directory st).take 79)).toNat
    let image := imageRecords t (imageBytes st d)
    let noImage := d.pages = 0 ∨ d.pages = 255
    let good := 1 ≤ d.first ∧ 8 * d.first + d.pages ≤ 512 ∧
      (∀ j < d.pages, vget st.pages (8 * d.first + j) = .verified) ∧
      d.length = tableSize t * recordLength t ∧ d.pages = (d.length + 31) / 32 ∧
      (crc16 (imageBytes st d)).toNat = d.crc ∧ tableValid x t image = true
    (usable → ¬noImage → good → loadTable st x t = (.loaded, image)) ∧
    (usable → ¬noImage → ¬good → loadTable st x t = (.bad, defaultTable t)) ∧
    (usable → noImage → loadTable st x t = (.default, defaultTable t)) ∧
    (¬usable → (∀ j < 3, pageState st 0 j = .erased) →
      loadTable st x t = (.default, defaultTable t)) ∧
    (¬usable → (∃ j < 3, pageState st 0 j ≠ .erased) →
      loadTable st x t = (.bad, defaultTable t)) ∧
    let levelGood := usable ∧ field8 (directory st) 78 ≤ 3
    (levelGood → latchedLevel st = field8 (directory st) 78) ∧
    (¬levelGood → latchedLevel st = 0) := by
  intro d usable image noImage good
  have directory_usable : directoryUsable st = true ↔ usable := directoryUsable_iff st
  have erased := directoryErased_iff st
  have described : describesNone d = true ↔ noImage := describesNone_iff d
  have loadable : (imageGood st t d && tableValid x t image) = true ↔ good := by
    rw [Bool.and_eq_true, imageGood_iff]
    simp only [and_assoc, good]
  have loads : loadTable st x t =
      if directoryUsable st then
        if describesNone d then (.default, defaultTable t)
        else if imageGood st t d && tableValid x t image then (.loaded, image) else (.bad, defaultTable t)
      else if directoryErased st then (.default, defaultTable t) else (.bad, defaultTable t) := rfl
  have level : latchedLevel st =
      if (directoryUsable st && decide (field8 (directory st) 78 ≤ 3)) = true then field8 (directory st) 78 else 0 :=
    rfl
  have levels : (directoryUsable st && decide (field8 (directory st) 78 ≤ 3)) = true ↔
      usable ∧ field8 (directory st) 78 ≤ 3 := by
    rw [Bool.and_eq_true, directory_usable, decide_eq_true_eq]
  refine ⟨fun u some g => ?_, fun u some g => ?_, fun u none => ?_, fun u e => ?_, fun u e => ?_, ?_, ?_⟩
  · rw [loads, if_pos (directory_usable.mpr u), if_neg (mt described.mp some), if_pos (loadable.mpr g)]
  · rw [loads, if_pos (directory_usable.mpr u), if_neg (mt described.mp some), if_neg (mt loadable.mp g)]
  · rw [loads, if_pos (directory_usable.mpr u), if_pos (described.mpr none)]
  · rw [loads, if_neg (mt directory_usable.mp u), if_pos (erased.mpr e)]
  · obtain ⟨j, low, other⟩ := e
    rw [loads, if_neg (mt directory_usable.mp u), if_neg fun all => other (erased.mp all j low)]
  · exact fun good => level.trans (if_pos (levels.mpr good))
  · exact fun bad => level.trans (if_neg (mt levels.mp bad))

theorem tableValid_iff (x : Shelf) {t : Nat} (ht : t < 13) (records : List Record) :
    tableValid x t records = true ↔ ∀ i < tableSize t, ¬EntryFails x t records i := by
  have judged : ∀ i, entryFails x t records i = false ↔ ¬EntryFails x t records i := fun i => by
    rw [← entryFails_iff x t records i (Nat.le_of_lt_succ ht), Bool.not_eq_true]
  simp only [tableValid, List.all_eq_true, List.mem_range, Bool.not_eq_true', judged]

/-! ### The tables are loaded in order, each against those before it -/

theorem rosterIs_congr {x y : Shelf} (h : vget y.tables 2 = vget x.tables 2) (r : Nat) (kind : ModuleKind) (i : Nat) :
    rosterIs y r kind i = rosterIs x r kind i := by
  simp only [rosterIs, rosterAt, recordAt, show tRoster = 2 from rfl, h]

/-- A PSM, BBM or Trays entry is checked against the Roster, and no other table against another one. -/
theorem entryFails_congr {x y : Shelf} {t : Nat}
    (h : 7 ≤ t → t ≤ 9 → vget y.tables 2 = vget x.tables 2) (records : List Record) (i : Nat) :
    entryFails y t records i = entryFails x t records i := by
  unfold entryFails
  by_cases owned : 7 ≤ t ∧ t ≤ 9
  · obtain ⟨low, high⟩ := owned
    have same := rosterIs_congr (h low high)
    simp only [psmFails, bbmFails, trayFails, same]
  · have psm : t ≠ tPsm := fun e => owned (e ▸ by decide)
    have bbm : t ≠ tBbm := fun e => owned (e ▸ by decide)
    have tray : t ≠ tTrays := fun e => owned (e ▸ by decide)
    simp only [psm, bbm, tray, if_false]

theorem loadTable_congr {x y : Shelf} {t : Nat} (h : 7 ≤ t → t ≤ 9 → vget y.tables 2 = vget x.tables 2)
    (st : Store) : loadTable st y t = loadTable st x t := by
  have valid : ∀ records, tableValid y t records = tableValid x t records := fun records => by
    simp only [tableValid, entryFails_congr h]
  simp only [loadTable, valid]

theorem loads_loadInto (st : Store) (x : Shelf) {t : Nat} (ht : t < 13) (u : Nat) :
    (vget (loadInto st x t).loads u, vget (loadInto st x t).tables u) =
      if u = t then loadTable st x t else (vget x.loads u, vget x.tables u) := by
  by_cases same : u = t
  · subst same
    simp only [loadInto, if_true, vget_vset_self _ _ _ ht]
  · simp only [loadInto, if_neg same, vget_vset_ne _ _ (Ne.symm same)]

/-- A table that a list does not name is left as it is. -/
theorem loads_foldl_loadInto_ne (st : Store) {order : List Nat} (small : ∀ t ∈ order, t < 13) {u : Nat}
    (h : u ∉ order) (x : Shelf) :
    (vget (order.foldl (loadInto st) x).loads u, vget (order.foldl (loadInto st) x).tables u) =
      (vget x.loads u, vget x.tables u) := by
  induction order generalizing x with
  | nil => rfl
  | cons t order ih =>
    obtain ⟨other, rest⟩ := List.ne_and_not_mem_of_not_mem_cons h
    rw [List.foldl_cons, ih (fun t ht => small t (List.mem_cons_of_mem _ ht)) rest,
      loads_loadInto st x (small t List.mem_cons_self), if_neg other]

/-- A table loaded once is the one that its turn finds, where the Roster is not loaded after it. -/
theorem loads_foldl_loadInto (st : Store) {front back : List Nat} {t : Nat}
    (small : ∀ u ∈ front ++ t :: back, u < 13) (once : t ∉ back) (roster : 7 ≤ t → t ≤ 9 → 2 ∉ t :: back)
    (x : Shelf) :
    let y := (front ++ t :: back).foldl (loadInto st) x
    (vget y.loads t, vget y.tables t) = loadTable st y t := by
  intro y
  let before := front.foldl (loadInto st) x
  have turn : y = back.foldl (loadInto st) (loadInto st before t) := by
    change (front ++ t :: back).foldl (loadInto st) x = _
    rw [List.foldl_append, List.foldl_cons]
  have ht : t < 13 := small t (List.mem_append_right _ List.mem_cons_self)
  have later : ∀ u ∈ back, u < 13 := fun u hu =>
    small u (List.mem_append_right _ (List.mem_cons_of_mem _ hu))
  have found : (vget y.loads t, vget y.tables t) = loadTable st before t := by
    rw [turn, loads_foldl_loadInto_ne st later once, loads_loadInto st before ht, if_pos rfl]
  have kept : 7 ≤ t → t ≤ 9 → vget y.tables 2 = vget before.tables 2 := fun low high => by
    obtain ⟨other, rest⟩ := List.ne_and_not_mem_of_not_mem_cons (roster low high)
    have same := loads_foldl_loadInto_ne st later rest (loadInto st before t)
    rw [← turn, loads_loadInto st before ht, if_neg other] at same
    exact congrArg Prod.snd same
  rw [found, loadTable_congr kept]

theorem loadOrder_split {t : Nat} (ht : t < 13) : ∃ front back, loadOrder = front ++ t :: back ∧ t ∉ back ∧
    (7 ≤ t → t ≤ 9 → 2 ∉ t :: back) := by
  have splits : ∀ t < 13, loadOrder = loadOrder.take (loadOrder.idxOf t) ++
      t :: loadOrder.drop (loadOrder.idxOf t + 1) ∧ t ∉ loadOrder.drop (loadOrder.idxOf t + 1) ∧
      (7 ≤ t → t ≤ 9 → 2 ∉ t :: loadOrder.drop (loadOrder.idxOf t + 1)) := by decide
  exact ⟨_, _, splits t ht⟩

theorem foldl_loadInto_eq (st : Store) (order : List Nat) (x : Shelf) :
    order.foldl (loadInto st) x = { x with
      loads := (order.foldl (loadInto st) x).loads, tables := (order.foldl (loadInto st) x).tables } := by
  induction order generalizing x with
  | nil => rfl
  | cons t order ih => exact ih _

theorem editEngine_up_tables (f : PortEngine → PortEngine) (x : Shelf) : (editEngine .up f x).tables = x.tables := rfl

/-- UP is enabled with the settings of its entry, over tables that were loaded (R186). -/
theorem upEnabled_eq {x loaded : Shelf} (h : loaded = { x with loads := loaded.loads, tables := loaded.tables }) :
    let y := editEngine .up (fun e => { e with enabled := true, settings := portEntry loaded .up }) loaded
    y = { x with
      loads := y.loads, tables := y.tables
      engUp := { x.engUp with enabled := true, settings := portEntry y .up } } :=
  congrArg (fun z : Shelf => { z with
    loads := loaded.loads, tables := loaded.tables
    engUp := { z.engUp with enabled := true, settings := portEntry loaded .up } }) h

theorem loadTables_spec (st : Store) (x : Shelf) {t : Nat} (ht : t < 13) :
    let y := loadTables st x
    (vget y.loads t, vget y.tables t) = loadTable st y t ∧
      y = { x with
        loads := y.loads, tables := y.tables
        engUp := { x.engUp with enabled := true, settings := portEntry y .up } } := by
  intro y
  let loaded := loadOrder.foldl (loadInto st) x
  obtain ⟨front, back, split, once, roster⟩ := loadOrder_split ht
  have small : ∀ u ∈ front ++ t :: back, u < 13 := split ▸ by decide
  constructor
  · have found := loads_foldl_loadInto st small once roster x
    rw [← split] at found
    have tables : loaded.tables = y.tables := (editEngine_up_tables _ loaded).symm
    exact found.trans (loadTable_congr (fun _ _ => congrArg (vget · 2) tables) st)
  · exact upEnabled_eq (foldl_loadInto_eq st loadOrder x)

/-! ### The values each reset gives -/

/-- A Port Engine IDLE and DISABLED, with its settings (R156, R161). -/
def idleEngine (e : PortEngine) : PortEngine :=
  { e with
    enabled := false, assembling := none, rx := [], buffer := none, shifter := none, began := 0
    damaged := 0, overruns := 0, overrun := false, stray := 0 }

/-- What a reset leaves, but for the tables, the clock, the drive lines, the zones and the last closed summary. -/
def clearedBlocks (x y : Shelf) : Shelf :=
  { y with
    ambient := x.ambient
    window := none
    lines := .replicate 16 ⟨none, ⟨none, 0, 0⟩, none, ⟨0, 0, none, false, false⟩⟩
    sampling := false, shelfStop := false
    signals := .replicate 128 ⟨0, .unknown, none, 0, 0, false⟩
    balance :=
      { p := .replicate 6 0, pHeld := .replicate 6 false
        b := .replicate 6 0, bHeld := .replicate 6 false
        bDischarging := .replicate 6 false, bUnread := .replicate 6 false
        m := 0, g := .replicate 6 0, sGrid := 0, q := 0, sAdm := 0, k := 0, c := 0, h0 := 0, h := 0
        d := 0, held := false, overcommit := false, deficit := false, causes := [], time := 0
        count := 0 }
    psms := .replicate 6 ⟨.inputLost, .start, none, false, true, 0⟩
    bbms := .replicate 6 ⟨.idle, none, false, false, some 0, 0, 0⟩
    chargeBudget := 0
    ride :=
      { state := .normal, eRem := 0, r := 0, eCap := 0, eAnchor := 0, shares := .replicate 6 0
        eUse := 0, dProj := 0, bMax := 0, t := 65535, qualify := none, tick := none
        openSummary := none, closedSummary := y.ride.closedSummary }
    bay :=
      { trays := .replicate 24 ⟨.unknown, none, .unknown, .nothing, .stopped, 0, 0, none, 0⟩
        queue := [], stack := [] }
    seq := ⟨.idle, none, none, none, 0, 0, .stopped, .stopped, none, none⟩
    engUp := idleEngine y.engUp, engSp := idleEngine y.engSp, engTp := idleEngine y.engTp
    pollSp := ⟨31, 7, .stopped, 0, none, none, [], []⟩
    pollTp := ⟨31, 7, .stopped, 0, none, none, [], []⟩
    modules := .replicate 48 ⟨.new, 0, none⟩
    replies := [], replyWait := [], notices := [], telemetry := [], telemetryRun := 0
    telemetryDrops := 0, restart := none
    agenda := [], deferred := [], raised := [], admitDue := false, causes := [], applying := none }

theorem resetBlocks_cleared (kind : ResetKind) (x : Shelf) :
    resetBlocks kind x = clearedBlocks x (resetBlocks kind x) := by
  cases kind <;> rfl

theorem restartDrives_spec {x : Shelf} {d : Nat} (hd : d < 8) :
    let e := driveAt x d
    (e.role = .valve ∨ e.role = .leakAlarm → vget (restartDrives x) d = vget x.drives d) ∧
      (e.role ≠ .valve → e.role ≠ .leakAlarm → vget (restartDrives x) d ≠ e.active) := by
  have level : vget (restartDrives x) d = _ := vget_ofFn _ hd
  refine ⟨fun kept => level.trans (if_pos kept), fun valve alarm => ?_⟩
  rw [level]
  dsimp only
  rw [if_neg fun kept => kept.elim valve alarm]
  exact otherLevel_ne _

theorem restartZones_spec {x : Shelf} {z : Nat} (hz : z < 8) :
    vget (restartZones x) z = { vget x.zones z with timer := .stopped } := by
  simp [restartZones, vget, hz]

theorem resetBlocks_power (kind : ResetKind) (x : Shelf) (other : kind ≠ .restart) :
    let y := resetBlocks kind x
    y.shelfTime = 0 ∧ y.ride.closedSummary = none ∧ (∀ d < 8, vget y.drives d = .low) ∧
      ∀ z < 8, vget y.zones z = ⟨.dry, [], 0, 0, .stopped, 0, 0, 0⟩ := by
  cases kind with
  | powerOn | line => exact ⟨rfl, rfl, fun d hd => vget_replicate _ hd, fun z hz => vget_replicate _ hz⟩
  | restart => exact absurd rfl other

theorem resetBlocks_restart (kind : ResetKind) (x : Shelf) (restart : kind = .restart) :
    let y := resetBlocks kind x
    y.shelfTime = x.shelfTime ∧ y.ride.closedSummary = x.ride.closedSummary ∧
      (∀ z < 8, vget y.zones z = { vget x.zones z with timer := .stopped }) ∧
      ∀ d < 8,
        let e := driveAt x d
        (e.role = .valve ∨ e.role = .leakAlarm → vget y.drives d = vget x.drives d) ∧
        (e.role ≠ .valve → e.role ≠ .leakAlarm → vget y.drives d ≠ e.active) := by
  subst restart
  exact ⟨rfl, rfl, fun z hz => restartZones_spec hz, fun d hd => restartDrives_spec hd⟩

/-! ### The placing of the tables (R186) -/

theorem lockTrayOnly_spec (t : Nat) (x : Shelf) (ht : t < 24) :
    let r := vget x.bay.trays t
    let y := lockTrayOnly t x
    (r.state = .locked → y = x) ∧
    (r.state ≠ .locked →
      vget y.bay.trays t = { r with
        state := .locked, awaited := .nothing, startTimer := .stopped, fault := none, queuedBy := none
        stateTime := x.shelfTime } ∧ TrayTold t x y ∧ y.pollTp = x.pollTp) := by
  refine ⟨fun locked => if_pos locked, fun other => ?_⟩
  have moves : lockTrayOnly t x =
      trayTo t .locked (fun r => { r with awaited := .nothing, startTimer := .stopped }) x := if_neg other
  rw [moves]
  exact ⟨vget_trayTo_self _ _ x ht, trayTo_told _ _ x ht other, pollTp_trayTo _ _ _ x⟩

theorem trayState_lockTrayOnly {t : Nat} (ht : t < 24) (x : Shelf) : trayState (lockTrayOnly t x) t = .locked := by
  unfold lockTrayOnly
  split
  · next locked => exact locked
  · rw [trayState_trayTo, if_pos ⟨rfl, ht⟩]

theorem trayState_lockTrayOnly_of {u : Nat} {x : Shelf} (h : trayState x u = .locked) (t : Nat) :
    trayState (lockTrayOnly t x) u = .locked := by
  unfold lockTrayOnly
  split
  · exact h
  · rw [trayState_trayTo]
    split
    · rfl
    · exact h

theorem trayState_foldl_lockTrayOnly (trays : List Nat) (small : ∀ t ∈ trays, t < 24) (x : Shelf) {u : Nat}
    (h : u ∈ trays ∨ trayState x u = .locked) :
    trayState (trays.foldl (fun z t => lockTrayOnly t z) x) u = .locked := by
  induction trays generalizing x with
  | nil => exact h.resolve_left List.not_mem_nil
  | cons t trays ih =>
    refine ih (fun t ht => small t (List.mem_cons_of_mem _ ht)) _ ?_
    obtain member | locked := h
    · obtain rfl | later := List.mem_cons.mp member
      · exact .inr (trayState_lockTrayOnly (small u List.mem_cons_self) x)
      · exact .inl later
    · exact .inr (trayState_lockTrayOnly_of locked t)

theorem wetTrays_ascend (x : Shelf) : (wetTrays x).Pairwise (· < ·) := (List.pairwise_lt_range.filter _).filter _

theorem mem_wetTrays (x : Shelf) (t : Nat) : t ∈ wetTrays x ↔ t < 24 ∧ ZoneLocks x t := by
  simp only [wetTrays, traysInUse, List.mem_filter, List.mem_range, Option.any_eq_true, zoneWet_iff]
  constructor
  · rintro ⟨⟨low, _⟩, e, entry, z, zone, used, wet⟩
    exact ⟨low, e, z, entry, zone, used, wet⟩
  · rintro ⟨low, e, z, entry, zone, used, wet⟩
    exact ⟨⟨low, Option.isSome_of_eq_some entry⟩, e, entry, z, zone, used, wet⟩

theorem unlistedBy_ascends (trays : Bool) (x : Shelf) : (unlistedBy trays x).Pairwise (· < ·) :=
  (List.pairwise_lt_range.filter _).filter _

theorem mem_unlistedBy (trays : Bool) (x : Shelf) (r : Nat) :
    r ∈ unlistedBy trays x ↔ r < 48 ∧ ∃ m, rosterAt x r = some m ∧ (m.kind = .tray ↔ trays = true) ∧
      ∀ i < 32, pollAt x m.port i ≠ some r := by
  simp only [unlistedBy, rostersInUse, List.mem_filter, List.mem_range, Bool.and_eq_true, unlisted_iff,
    Option.any_eq_true, decide_eq_true_eq]
  constructor
  · rintro ⟨⟨low, _⟩, ⟨m, entry, out⟩, m', entry', kind⟩
    obtain rfl : m' = m := Option.some.inj (entry'.symm.trans entry)
    exact ⟨low, m', entry, by rw [← kind, decide_eq_true_eq], out⟩
  · rintro ⟨low, m, entry, kind, out⟩
    exact ⟨⟨low, Option.isSome_of_eq_some entry⟩, ⟨m, entry, out⟩, m, entry,
      by rw [Bool.eq_iff_iff, decide_eq_true_eq]; exact kind⟩

theorem putZone_eq (z : Nat) (cause : ZoneCause) (f : Zone → Zone) (x : Shelf) :
    putZone z cause f x =
      if (vget x.zones z).state = (f (vget x.zones z)).state then
        { x with zones := vset x.zones z (f (vget x.zones z)) }
      else tellZone z (vget x.zones z).state (f (vget x.zones z)).state cause
        { x with zones := vset x.zones z (f (vget x.zones z)) } := rfl

/-- A zone that becomes DRY posts it, and one that was WET releases its trays and its drive lines. -/
theorem tellZone_dry (z : Nat) (old : ZoneState) (cause : ZoneCause) (x : Shelf) :
    tellZone z old .dry cause x = { x with
      notices := (zoneNotice z old .dry cause x).notices
      raised := if old = .wet then x.raised ++ (zoneTrays x z).map Task.releaseTray else x.raised
      drives := if old = .wet then (setDrives x).drives else x.drives } := by
  by_cases wet : old = .wet
  · subst wet
    rfl
  · have other : ¬(ZoneState.dry = .wet) := nofun
    simp only [tellZone, wet, other, false_and, or_self, if_false, zoneNotice]
    rfl

/-- The zone record of an entry that is not in use (R136). -/
def placedDry (r : Zone) : Zone :=
  { r with
    state := .dry, points := [], wet := 0, unknown := 0, timer := .stopped
    epoch := if r.state ≠ .dry ∨ r.wet ≠ 0 ∨ r.unknown ≠ 0 then r.epoch + 1 else r.epoch }

theorem placeZone_unused {z : Nat} {x : Shelf} (unused : zoneAt x z = none) :
    placeZone z x =
      if (vget x.zones z).state = .dry then { x with zones := vset x.zones z (placedDry (vget x.zones z)) }
      else tellZone z (vget x.zones z).state .dry .table
        { x with zones := vset x.zones z (placedDry (vget x.zones z)) } := by
  have put : (fun r : Zone =>
      if r.state ≠ .dry ∨ r.wet ≠ 0 ∨ r.unknown ≠ 0 then
        epochUp { r with state := .dry, points := [], wet := 0, unknown := 0, timer := .stopped }
      else { r with state := .dry, points := [], wet := 0, unknown := 0, timer := .stopped }) = placedDry := by
    funext r
    unfold placedDry epochUp
    split <;> rfl
  have places : placeZone z x = putZone z .table placedDry x := by
    rw [← put, placeZone, unused]
  exact places

theorem placeZone_spec (z : Nat) (x : Shelf) (hz : z < 8) :
    let r := vget x.zones z
    let y := placeZone z x
    ((zoneAt x z).isSome → y = perform (.zoneEval z) x) ∧
    (zoneAt x z = none →
      let moves := r.state ≠ .dry ∨ r.wet ≠ 0 ∨ r.unknown ≠ 0
      let new := { r with
        state := .dry, points := [], wet := 0, unknown := 0, timer := .stopped
        epoch := if moves then r.epoch + 1 else r.epoch }
      (r.state = .dry → y = { x with zones := vset x.zones z new }) ∧
      (r.state ≠ .dry →
        y = { x with
          zones := vset x.zones z new
          notices := offerNotice
            { time := x.shelfTime, source := 8, index := z, code := 9, more := false
              word1 := twoItems (zoneStateNumber r.state) 0
              word2 := twoItems new.epoch.toNat 5 } x.notices
          raised := if r.state = .wet then x.raised ++ (zoneTrays x z).map Task.releaseTray
            else x.raised
          drives := y.drives } ∧
        (r.state = .wet → ∀ d < 8, vget y.drives d = driveLevel y d) ∧
        (r.state ≠ .wet → y.drives = x.drives))) := by
  intro r y
  refine ⟨fun used => ?_, fun unused => ?_⟩
  · obtain ⟨e, entry⟩ := Option.isSome_iff_exists.mp used
    change placeZone z x = zoneEvaluation z x
    rw [placeZone, entry]
  · intro moves new
    let emptied := { x with zones := vset x.zones z new }
    have epoch : (vget emptied.zones z).epoch = new.epoch := by rw [vget_vset_self _ _ _ hz]
    have notices : (zoneNotice z r.state .dry .table emptied).notices = offerNotice
        { time := x.shelfTime, source := 8, index := z, code := 9, more := false
          word1 := twoItems (zoneStateNumber r.state) 0
          word2 := twoItems new.epoch.toNat 5 } x.notices := by
      rw [← epoch]
      rfl
    have places := placeZone_unused unused
    have dries : r.state ≠ .dry → y = _ := fun other => (places.trans (if_neg other)).trans (tellZone_dry ..)
    refine ⟨fun dry => places.trans (if_pos dry), fun other => ⟨?_, fun wet d hd => ?_, fun dry => ?_⟩⟩
    · have drives : y.drives = if r.state = .wet then (setDrives emptied).drives else x.drives :=
        congrArg Shelf.drives (dries other)
      rw [drives, ← notices]
      exact dries other
    · rw [dries other]
      dsimp only
      rw [if_pos wet]
      exact vget_ofFn _ hd
    · exact (congrArg Shelf.drives (dries other)).trans (if_neg dry)

/-- The unlisted modules that are not ABSENT, of trays or of other kinds. -/
def absentOf (x : Shelf) : List Nat := (unlistedBy false x).filter fun r => (vget x.modules r).presence ≠ .absent

/-- Two states with the same tables and modules. -/
abbrev SameModules (x y : Shelf) : Prop := y.tables = x.tables ∧ y.modules = x.modules

theorem sameModules_tellZone (z : Nat) (old new : ZoneState) (cause : ZoneCause) (x : Shelf) :
    SameModules x (tellZone z old new cause x) := by
  simp [SameModules, tellZone, zoneNotice, setDrives, apply_ite Shelf.tables, apply_ite Shelf.modules]

theorem sameModules_putZone (z : Nat) (cause : ZoneCause) (f : Zone → Zone) (x : Shelf) :
    SameModules x (putZone z cause f x) := by
  rw [putZone_eq]
  split
  · exact ⟨rfl, rfl⟩
  · exact sameModules_tellZone z _ _ cause { x with zones := vset x.zones z (f (vget x.zones z)) }

theorem sameModules_placeZone (z : Nat) (x : Shelf) : SameModules x (placeZone z x) := by
  unfold placeZone
  split
  · unfold zoneEvaluation
    split
    · exact ⟨rfl, rfl⟩
    · exact sameModules_putZone _ _ _ _
  · exact sameModules_putZone _ _ _ _

theorem sameModules_lockTrayOnly (t : Nat) (x : Shelf) : SameModules x (lockTrayOnly t x) := by
  unfold lockTrayOnly
  split
  · exact ⟨rfl, rfl⟩
  · rw [trayTo_eq]
    exact ⟨rfl, rfl⟩

theorem sameModules_foldl {f : Shelf → Nat → Shelf} (hf : ∀ x a, SameModules x (f x a)) (l : List Nat) (x : Shelf) :
    SameModules x (l.foldl f x) :=
  keep_foldl (P := SameModules x)
    (fun y a ⟨tables, modules⟩ => ⟨(hf y a).1.trans tables, (hf y a).2.trans modules⟩) l ⟨rfl, rfl⟩

theorem mem_absentOf (x : Shelf) (r : Nat) :
    r ∈ absentOf x ↔ r < 48 ∧ (vget x.modules r).presence ≠ .absent ∧
      ∃ m, rosterAt x r = some m ∧ m.kind ≠ .tray ∧ ∀ i < 32, pollAt x m.port i ≠ some r := by
  rw [absentOf, List.mem_filter, mem_unlistedBy, decide_eq_true_eq]
  simp only [Bool.false_eq_true, iff_false]
  constructor
  · rintro ⟨⟨low, out⟩, here⟩
    exact ⟨low, here, out⟩
  · rintro ⟨low, here, out⟩
    exact ⟨⟨low, out⟩, here⟩

/-- A drive line's level hangs on the tables, the zones and the ride state. -/
theorem driveLevel_congr {x y : Shelf} (tables : y.tables = x.tables) (zones : y.zones = x.zones)
    (ride : y.ride.state = x.ride.state) (d : Nat) : driveLevel y d = driveLevel x d := by
  have wet : zoneWet y = zoneWet x := funext fun z => by simp only [zoneWet, zoneAt, recordAt, tables, zones]
  have entry : driveAt y d = driveAt x d := by simp only [driveAt, recordAt, tables]
  have normal : rideNormal y = rideNormal x := by rw [rideNormal, rideNormal, ride]
  have active : driveActive y (driveAt x d) = driveActive x (driveAt x d) := by
    simp only [driveActive, anyZoneWet, wet, normal]
  simp only [driveLevel, entry, active]

theorem setDrives_eq (x : Shelf) : setDrives x = { x with drives := (setDrives x).drives } := rfl

/-- The state after the zones' placing, once the locks, the drive lines, E_cap and the absences are done. -/
def placedOver (zoned : Shelf) : Shelf :=
  let placed := recomputeCapacity (setDrives ((wetTrays zoned).foldl (fun z t => lockTrayOnly t z) zoned))
  absentAll (unlistedBy false placed) placed

theorem absences_eq (x : Shelf) :
    absentAll (unlistedBy false x) x =
      { x with raised := x.raised ++ (absentOf x).map fun r => Task.moduleAbsent r false } := rfl

/-- E_cap and the absences leave the tables, the zones, the trays and the drive lines. -/
theorem placed_fields {x placed y : Shelf} {tasks : List Task} (eq : y = { placed with raised := tasks })
    (capacity : placed = { x with ride := placed.ride, deferred := placed.deferred }) :
    y.tables = x.tables ∧ y.zones = x.zones ∧ y.bay = x.bay ∧ y.drives = x.drives ∧
      SameModules x placed ∧ y.ride = placed.ride := by
  subst eq
  have tables := congrArg Shelf.tables capacity
  have zones := congrArg Shelf.zones capacity
  have bay := congrArg Shelf.bay capacity
  have drives := congrArg Shelf.drives capacity
  have modules := congrArg Shelf.modules capacity
  exact ⟨tables, zones, bay, drives, ⟨tables, modules⟩, rfl⟩

theorem placedOver_spec (zoned : Shelf) :
    let y := placedOver zoned
    let locked := (wetTrays zoned).foldl (fun z t => lockTrayOnly t z) zoned
    let placed := recomputeCapacity { locked with drives := y.drives }
    y = { placed with raised := placed.raised ++ (absentOf placed).map fun r => Task.moduleAbsent r false } ∧
      SameModules zoned placed ∧ (∀ d < 8, vget y.drives d = driveLevel y d) ∧
      ∀ t ∈ wetTrays zoned, trayState y t = .locked := by
  intro y locked placed
  have trays : SameModules zoned locked := sameModules_foldl (fun z t => sameModules_lockTrayOnly t z) _ _
  have locks : ∀ t ∈ wetTrays zoned, trayState locked t = .locked := fun t member =>
    trayState_foldl_lockTrayOnly _ (fun u hu => ((mem_wetTrays zoned u).mp hu).1) zoned (.inl member)
  have absences : y = _ := absences_eq (recomputeCapacity (setDrives locked))
  have capacity := recomputeCapacity_eq (setDrives locked)
  have state := recomputeCapacity_state (setDrives locked)
  obtain ⟨tables, zones, bay, drives, modules, ride⟩ := placed_fields absences capacity
  have levels : { locked with drives := y.drives } = setDrives locked := by
    rw [drives]
    exact (setDrives_eq locked).symm
  have same : placed = recomputeCapacity (setDrives locked) := congrArg recomputeCapacity levels
  refine ⟨same ▸ absences, same ▸ ⟨modules.1.trans trays.1, modules.2.trans trays.2⟩, fun d hd => ?_,
    fun t member => ?_⟩
  · rw [drives, driveLevel_congr (x := locked) tables zones ((congrArg Ride.state ride).trans state) d]
    exact vget_ofFn _ hd
  · exact (congrArg (fun b : Bay => (vget b.trays t).state) bay).trans (locks t member)

theorem placeTables_eq (x : Shelf) :
    placeTables x = placedOver
      ((List.range 8).foldl (fun z i => placeZone i z) { x with sampling := true, applying := some [.start] }) := rfl

theorem placeTables_spec (x : Shelf) :
    let y := placeTables x
    let started := { x with sampling := true, applying := some [.start] }
    let zoned := (List.range 8).foldl (fun z i => placeZone i z) started
    ∃ wet gone : List Nat,
      let locked := wet.foldl (fun z t => lockTrayOnly t z) zoned
      let placed := recomputeCapacity { locked with drives := y.drives }
      y = { placed with
        raised := placed.raised ++ gone.map fun r => Task.moduleAbsent r false } ∧
      (∀ d < 8, vget y.drives d = driveLevel y d) ∧
      wet.Pairwise (· < ·) ∧ (∀ t, t ∈ wet ↔ t < 24 ∧ ZoneLocks zoned t) ∧
      (∀ t ∈ wet, trayState y t = .locked) ∧ gone.Pairwise (· < ·) ∧
      ∀ r, r ∈ gone ↔ r < 48 ∧ (vget x.modules r).presence ≠ .absent ∧
        ∃ m, rosterAt x r = some m ∧ m.kind ≠ .tray ∧ ∀ i < 32, pollAt x m.port i ≠ some r := by
  intro y started zoned
  have zones : SameModules started zoned := sameModules_foldl (fun z i => sameModules_placeZone i z) _ _
  have placing : y = placedOver zoned := placeTables_eq x
  generalize zoned = zoned at zones placing ⊢
  obtain ⟨eq, modules, drives, locks⟩ := placedOver_spec zoned
  rw [← placing] at eq modules drives locks
  generalize y = y at eq modules drives locks ⊢
  obtain ⟨tables, modules⟩ := modules
  have tables := tables.trans zones.1
  have modules := modules.trans zones.2
  have rosters : ∀ r, rosterAt _ r = rosterAt x r := fun r => congrArg (fun t => decodeRoster (recordOf (vget t 2) r)) tables
  have polls : ∀ p i, pollAt _ p i = pollAt x p i := fun p i =>
    congrArg (fun t => decodePoll (recordOf (vget t 3) (pollBase p + i))) tables
  refine ⟨wetTrays zoned, absentOf _, eq, drives, wetTrays_ascend zoned, mem_wetTrays zoned, locks,
    (unlistedBy_ascends _ _).filter _, fun r => ?_⟩
  rw [mem_absentOf, rosters, modules]
  simp only [polls]
  exact Iff.rfl

/-- Start-up's reactions over the placed tables, in the order of R186 to R188. -/
theorem startUpTasks_eq (kind : ResetKind) (level : Nat) (z : Shelf) :
    emitAll ([.endApply] ++ (unlistedBy true { z with level }).map (fun r => Task.moduleAbsent r false) ++
        [.startPorts] ++ (wetTrays { z with level }).map Task.placeOff ++ [.startAutostart, .postStarted kind])
        { z with level } =
      { z with
        level
        raised := z.raised ++ [.endApply] ++ (unlistedBy true z).map (fun r => Task.moduleAbsent r false) ++
          [.startPorts] ++ (wetTrays z).map Task.placeOff ++ [.startAutostart, .postStarted kind] } := by
  simp only [emitAll, List.append_assoc]
  rfl

theorem startUp_spec (kind : ResetKind) (st : Store) (x : Shelf) :
    let z := placeTables (loadTables st x)
    ∃ wet trays : List Nat,
      startUp kind st x = { z with
        level := latchedLevel st
        raised := z.raised ++ [.endApply] ++ trays.map (fun r => Task.moduleAbsent r false) ++
          [.startPorts] ++ wet.map Task.placeOff ++ [.startAutostart, .postStarted kind] } ∧
      wet.Pairwise (· < ·) ∧ (∀ t, t ∈ wet ↔ t < 24 ∧ ZoneLocks z t) ∧
      trays.Pairwise (· < ·) ∧
      ∀ r, r ∈ trays ↔ r < 48 ∧ ∃ m, rosterAt z r = some m ∧ m.kind = .tray ∧
        ∀ i < 32, pollAt z m.port i ≠ some r := by
  intro z
  refine ⟨wetTrays z, unlistedBy true z, startUpTasks_eq kind (latchedLevel st) z, wetTrays_ascend z,
    mem_wetTrays z, unlistedBy_ascends true z, fun r => ?_⟩
  simp only [mem_unlistedBy, iff_true]

/-! ### Phases 4 and 5 (R187, R188) -/

theorem engine_foldl_editModule (p : Port) (f : Module → Module) (rs : List Nat) (x : Shelf) :
    engine (rs.foldl (fun s r => editModule r f s) x) p = engine x p := by
  induction rs generalizing x with
  | nil => rfl
  | cons r rs ih => exact (ih _).trans (by cases p <;> rfl)

/-- A port that is enabled runs on the settings of its entry. -/
theorem engine_enablePort {p : Port} (h : p ≠ .up) (x : Shelf) :
    (engine (enablePort p x) p).settings = portEntry x p ∧ (engine (enablePort p x) p).enabled = true := by
  rw [enablePort, clearMisses, engine_foldl_editModule]
  cases p with
  | up => exact absurd rfl h
  | sp | tp => exact ⟨rfl, rfl⟩

/-- Enabling takes the settings of the entry, whatever they were. -/
theorem enablePort_settings {p : Port} (h : p ≠ .up) (x : Shelf) :
    enablePort p (editEngine p (fun e => { e with settings := portEntry x p }) x) = enablePort p x := by
  cases p with
  | up => exact absurd rfl h
  | sp | tp => rfl

theorem startPort_spec (p : Port) (x : Shelf) (h : p ≠ .up) :
    let y := startPort p x
    (engine y p).settings = portEntry x p ∧
    ((portEntry x p).enable = true →
      y = enablePort p x ∧ (engine y p).enabled = true) ∧
    ((portEntry x p).enable = false →
      y = { setEngine p { engine x p with settings := portEntry x p } x with
        raised := x.raised ++
          ((modulesOn x p).filter fun r => (vget x.modules r).presence ≠ .absent).map
            (fun r => Task.moduleAbsent r false) }) := by
  intro y
  let taken := editEngine p (fun e => { e with settings := portEntry x p }) x
  have entry : portEntry taken p = portEntry x p := by cases p <;> rfl
  have eq : y = if (portEntry x p).enable = true then enablePort p x else absentAll (modulesOn taken p) taken := by
    rw [← entry, ← enablePort_settings h x]
    rfl
  have off : (portEntry x p).enable = false → y = absentAll (modulesOn taken p) taken := fun no => by
    rw [eq, no]
    rfl
  obtain ⟨settings, enabled⟩ := engine_enablePort h x
  refine ⟨?_, fun yes => ?_, fun no => (off no).trans ?_⟩
  · cases flag : (portEntry x p).enable with
    | true => rw [eq, if_pos flag, settings]
    | false =>
      rw [off flag]
      cases p with
      | up => exact absurd rfl h
      | sp | tp => rfl
  · have here : y = enablePort p x := eq.trans (if_pos yes)
    exact ⟨here, here ▸ enabled⟩
  · cases p with
    | up => exact absurd rfl h
    | sp | tp => rfl

theorem startAutostart_spec (x : Shelf) :
    let loaded := ∀ t ∈ [9, 11, 0, 2], vget x.loads t = .loaded
    (loaded → startAutostart x = { x with
      seq := { x.seq with autostart := (policy x).autostart }
      raised := x.raised ++ [.autostartTest] }) ∧
    (¬loaded → startAutostart x = { x with
      seq := { x.seq with autostart := none }, raised := x.raised ++ [.autostartTest] }) := by
  intro loaded
  have all : ([tTrays, tSequence, tPolicy, tRoster].all fun t => vget x.loads t = .loaded) = true ↔ loaded := by
    simp only [List.all_eq_true, decide_eq_true_eq]
    exact Iff.rfl
  exact ⟨fun yes => by rw [startAutostart, if_pos (all.mpr yes)]; rfl,
    fun no => by rw [startAutostart, if_neg (mt all.mp no)]; rfl⟩

theorem testBit_tablesWith (x : Shelf) (status : LoadStatus) (t : Nat) :
    (tablesWith x status).testBit t = true ↔ t < 13 ∧ vget x.loads t = status := by
  rw [tablesWith, testBit_bitSet, List.mem_filter, List.mem_range, decide_eq_true_eq]

/-- A load status takes 13 bits of its word. -/
theorem tablesWith_lt (x : Shelf) (status : LoadStatus) : tablesWith x status < 2 ^ 13 := by
  refine Nat.lt_pow_two_of_testBit _ fun i high => ?_
  rw [← Bool.not_eq_true, testBit_tablesWith]
  exact fun ⟨low, _⟩ => absurd low (Nat.not_lt.mpr high)

/-- The words of STARTED: the LOADED tables, and the BAD ones with the protect level and SVC (R188). -/
theorem postStarted_spec (kind : ResetKind) (x : Shelf) (done : x.deferred = []) :
    let y := postStarted kind x
    ∃ word1 word2, y = { x with
      notices := offerNotice
        { time := x.shelfTime, source := 0
          index := match kind with
            | .powerOn => 0
            | .line => 1
            | .restart => 2
          code := 1, more := false, word1, word2 } x.notices } ∧
    (∀ t < 16, word1.testBit t = true ↔ t < 13 ∧ vget x.loads t = .loaded) ∧
    (∀ t < 13, word2.testBit t = true ↔ vget x.loads t = .bad) ∧
    (x.level ≤ 3 → word2 / 8192 % 4 = x.level ∧ (word2.testBit 15 = true ↔ x.ambient.svc = true)) := by
  have small := tablesWith_lt x .bad
  refine ⟨tablesWith x .loaded, tablesWith x .bad + 8192 * x.level + (if x.ambient.svc then 32768 else 0), ?_,
    fun t _ => testBit_tablesWith x .loaded t, fun t ht => ?_, fun low => ?_⟩
  · rw [postStarted, if_pos done]
    cases kind <;> rfl
  · have word : tablesWith x .bad + 8192 * x.level + (if x.ambient.svc = true then 32768 else 0) =
        2 ^ 13 * (x.level + if x.ambient.svc = true then 4 else 0) + tablesWith x .bad := by
      split <;> omega
    rw [word, Nat.testBit_two_pow_mul_add _ small, if_pos ht, testBit_tablesWith]
    exact and_iff_right ht
  · rw [Nat.testBit_eq_decide_div_mod_eq, decide_eq_true_eq]
    cases x.ambient.svc
    · simp only [Bool.false_eq_true, if_false, iff_false]
      omega
    · simp only [if_true, iff_true]
      omega

/-! ### The commands that reset -/

theorem exec_resets (e : Ambient) (s : State) :
    let resets := fun kind : ResetKind =>
      let st := if kind = .restart then s.store else damagedStore s.store
      closing { startUp kind st (resetBlocks kind (opening e s).toShelf) with
        store := st, pending := s.pending }
    exec (.powerOnReset e) s = .next (resets .powerOn) ∧
    exec (.resetLine e) s = .next (resets .line) ∧
    (s.engUp.shifter.isSome → s.engUp.buffer = none → restartReady s.toShelf = true →
      exec (.restartPerform e) s = .next (resets .restart)) := by
  refine ⟨rfl, rfl, fun shifting empty ready => ?_⟩
  have readyNow : restartReady (opening e s).toShelf = true := ready
  have ends : upEnds (opening e s).toShelf = true := by
    rw [upEnds, Bool.and_eq_true, decide_eq_true_eq]
    exact ⟨shifting, empty⟩
  have performs : (if restartReady (opening e s).toShelf then endUp (opening e s) else opening e s) =
      resetPart .restart (opening e s) := by
    rw [if_pos readyNow, endUp, if_pos ends, if_pos readyNow]
  exact congrArg (fun t => Host.Outcome.next (closing t)) performs

end Sys2Proof.Machine
end

section
/-! PROOF. What the reactions of an event leave alone with no restart pending (R170, R174, R186): the working tables, the
load status, the protect level and the edit window, UP's enabling and its receive queue; and no restart becomes pending.
One lemma per operation, in the order of the model's files; each rewrites these of the operation's state to those of its
argument. The Ride-Through Controller alone drops a pending restart, and its operations stand apart. -/

namespace Sys2Proof.Machine

/-! ### The settings in effect -/

/-- Two states have the same working tables, load status, edit window, protect level, Port Engine of UP and pending
restart. -/
abbrev SameSetup (s t : Shelf) : Prop :=
  t.tables = s.tables ∧ t.loads = s.loads ∧ t.window = s.window ∧ t.level = s.level ∧ t.engUp = s.engUp ∧
    t.restart = s.restart

@[simp] theorem sameSetup_iff {s t : Shelf} : SameSetup s t ↔ t.tables = s.tables ∧ t.loads = s.loads ∧
    t.window = s.window ∧ t.level = s.level ∧ t.engUp = s.engUp ∧ t.restart = s.restart := Iff.rfl

theorem SameSetup.refl (s : Shelf) : SameSetup s s := ⟨rfl, rfl, rfl, rfl, rfl, rfl⟩

theorem SameSetup.trans {s t u : Shelf} (first : SameSetup s t) (second : SameSetup t u) : SameSetup s u := by
  obtain ⟨tables, loads, window, level, engine, restart⟩ := first
  obtain ⟨tables', loads', window', level', engine', restart'⟩ := second
  exact ⟨tables'.trans tables, loads'.trans loads, window'.trans window, level'.trans level, engine'.trans engine,
    restart'.trans restart⟩

section Conditions

variable (c : Prop) [Decidable c] (s t : Shelf)

@[simp] theorem tables_ite : (if c then s else t).tables = if c then s.tables else t.tables :=
  apply_ite Shelf.tables c s t

@[simp] theorem loads_ite : (if c then s else t).loads = if c then s.loads else t.loads :=
  apply_ite Shelf.loads c s t

@[simp] theorem window_ite : (if c then s else t).window = if c then s.window else t.window :=
  apply_ite Shelf.window c s t

@[simp] theorem level_ite : (if c then s else t).level = if c then s.level else t.level :=
  apply_ite Shelf.level c s t

@[simp] theorem engUp_ite : (if c then s else t).engUp = if c then s.engUp else t.engUp :=
  apply_ite Shelf.engUp c s t

@[simp] theorem restart_ite : (if c then s else t).restart = if c then s.restart else t.restart :=
  apply_ite Shelf.restart c s t

end Conditions

/-- A list of operations, none of which touches the settings in effect. -/
theorem sameSetup_foldl {α : Type} {f : Shelf → α → Shelf} (hf : ∀ s a, SameSetup s (f s a)) (l : List α) (s : Shelf) :
    SameSetup s (l.foldl f s) :=
  keep_foldl (P := SameSetup s) (fun x a h => h.trans (hf x a)) l (SameSetup.refl s)

/-! ### Shared operations -/

@[simp] theorem sameSetup_answerOrder (address code status : Byte) (s : Shelf) :
    SameSetup s (answerOrder address code status s) := by simp [answerOrder]

theorem sameSetup_setEngine {p : Port} (h : p ≠ .up) (e : PortEngine) (s : Shelf) : SameSetup s (setEngine p e s) := by
  cases p with
  | up => contradiction
  | sp => exact SameSetup.refl s
  | tp => exact SameSetup.refl s

@[simp] theorem sameSetup_editEngine {p : Port} (h : p ≠ .up) (f : PortEngine → PortEngine) (s : Shelf) :
    SameSetup s (editEngine p f s) := sameSetup_setEngine h _ s

@[simp] theorem sameSetup_editPoll (p : Port) (f : PollEngine → PollEngine) (s : Shelf) :
    SameSetup s (editPoll p f s) := by simp [editPoll]

@[simp] theorem sameSetup_foldl_addCause (cs : List Cause) (s : Shelf) :
    SameSetup s (cs.foldl addCause s) := by
  rw [foldl_addCause_eq]
  exact SameSetup.refl s

/-! ### The Balance Unit -/

@[simp] theorem sameSetup_overcommitNotice (old new : Balance) (s : Shelf) :
    SameSetup s (overcommitNotice old new s) := by simp [overcommitNotice]

@[simp] theorem sameSetup_tellMonitorAndSequencer (h0Changed : Bool) (s : Shelf) :
    SameSetup s (tellMonitorAndSequencer h0Changed s) := by simp [tellMonitorAndSequencer]

/-- At each of the three turns the Ride-Through Controller may take. -/
@[simp] theorem sameSetup_handOnBalance (old new : Balance) (s : Shelf) :
    SameSetup s (handOnBalance old new s) := by
  unfold handOnBalance
  dsimp only
  split <;> split <;> simp

@[simp] theorem sameSetup_recompute (causes : List Cause) (s : Shelf) :
    SameSetup s (recompute causes s) := by simp [recompute]

@[simp] theorem sameSetup_performBalance (s : Shelf) : SameSetup s (performBalance s) := by
  simp [performBalance]

/-! ### Orders -/

@[simp] theorem sameSetup_placeControl (o : ControlOrder) (s : Shelf) :
    SameSetup s (placeControl o s) := by simp [placeControl]

@[simp] theorem sameSetup_orderModule (roster : Nat) (target : Target) (code : Byte) (argument : Nat)
    (s : Shelf) : SameSetup s (orderModule roster target code argument s) := by
  unfold orderModule
  split <;> simp

@[simp] theorem sameSetup_forgetOrders (t : Nat) (s : Shelf) : SameSetup s (forgetOrders t s) :=
  SameSetup.refl s

@[simp] theorem sameSetup_placeOn (t : Nat) (s : Shelf) : SameSetup s (placeOn t s) := by
  unfold placeOn
  split <;> simp

@[simp] theorem sameSetup_placeOff (t : Nat) (s : Shelf) : SameSetup s (placeOff t s) := by
  unfold placeOff
  split <;> simp

@[simp] theorem sameSetup_placeBbm (k : Nat) (code : Byte) (argument : Nat) (s : Shelf) :
    SameSetup s (placeBbm k code argument s) := by
  unfold placeBbm
  split <;> simp

@[simp] theorem sameSetup_placeBbmOnce (k : Nat) (code : Byte) (s : Shelf) :
    SameSetup s (placeBbmOnce k code s) := by simp [placeBbmOnce]

@[simp] theorem sameSetup_dischargeBatteries (s : Shelf) : SameSetup s (dischargeBatteries s) :=
  sameSetup_foldl (by simp) _ s

/-! ### The Tray Controller -/

@[simp] theorem sameSetup_trayNotice (t : Nat) (old new : TrayState) (s : Shelf) :
    SameSetup s (trayNotice t old new s) := by simp [trayNotice]

@[simp] theorem sameSetup_afterTray (before : Shelf) (old new : TrayState) (s : Shelf) :
    SameSetup s (afterTray before old new s) := by simp [afterTray]

@[simp] theorem sameSetup_trayTo (t : Nat) (new : TrayState) (f : Tray → Tray) (s : Shelf) :
    SameSetup s (trayTo t new f s) := by simp [trayTo]

@[simp] theorem sameSetup_faultTray (t : Nat) (cause : TrayFault) (s : Shelf) :
    SameSetup s (faultTray t cause s) := by simp [faultTray]

@[simp] theorem sameSetup_trayGood (t : Nat) (goodTime : Time) (s : Shelf) :
    SameSetup s (trayGood t goodTime s) := by simp [trayGood]

@[simp] theorem sameSetup_stopTray (t : Nat) (s : Shelf) : SameSetup s (stopTray t s) := by
  unfold stopTray
  split <;> simp

@[simp] theorem sameSetup_withdrawTray (t : Nat) (s : Shelf) : SameSetup s (withdrawTray t s) := by
  simp [withdrawTray]

@[simp] theorem sameSetup_countShed (s : Shelf) : SameSetup s (countShed s) := SameSetup.refl s

@[simp] theorem sameSetup_shedTray (t : Nat) (s : Shelf) : SameSetup s (shedTray t s) := by
  simp [shedTray]

@[simp] theorem sameSetup_lockTrayOnly (t : Nat) (s : Shelf) : SameSetup s (lockTrayOnly t s) := by
  simp [lockTrayOnly]

@[simp] theorem sameSetup_lockTray (t : Nat) (s : Shelf) : SameSetup s (lockTray t s) := by
  simp [lockTray]

@[simp] theorem sameSetup_releaseTray (t : Nat) (s : Shelf) : SameSetup s (releaseTray t s) := by
  simp [releaseTray]

@[simp] theorem sameSetup_requestAdmission (t : Nat) (origin : QueuedBy) (s : Shelf) :
    SameSetup s (requestAdmission t origin s) := by simp [requestAdmission]

@[simp] theorem sameSetup_shelfStopTray (t : Nat) (s : Shelf) : SameSetup s (shelfStopTray t s) := by
  unfold shelfStopTray
  split <;> simp

@[simp] theorem sameSetup_setSeen (t : Nat) (seen : Seen) (s : Shelf) :
    SameSetup s (setSeen t seen s) := by simp [setSeen]

@[simp] theorem sameSetup_trayLineEdge (t : Nat) (rising : Bool) (edgeTime : Time) (s : Shelf) :
    SameSetup s (trayLineEdge t rising edgeTime s) := by
  unfold trayLineEdge
  dsimp only
  split <;> simp

@[simp] theorem sameSetup_trayAbsent (t : Nat) (s : Shelf) : SameSetup s (trayAbsent t s) := by
  unfold trayAbsent
  dsimp only
  split <;> simp

@[simp] theorem sameSetup_startAcknowledged (t : Nat) (s : Shelf) :
    SameSetup s (startAcknowledged t s) := by simp [startAcknowledged]

/-- An outcome acts on a STARTING, a STOPPING and a SHEDDING tray alone. -/
@[simp] theorem sameSetup_trayOutcome (t : Nat) (code : Byte) (o : OrderOutcome) (s : Shelf) :
    SameSetup s (trayOutcome t code o s) := by
  unfold trayOutcome
  dsimp only
  split
  · simp
  · split <;> simp

@[simp] theorem sameSetup_admitTray (t : Nat) (s : Shelf) : SameSetup s (admitTray t s) := by
  simp [admitTray]

@[simp] theorem sameSetup_admissionTry (s : Shelf) : SameSetup s (admissionTry s) := by
  unfold admissionTry
  split <;> simp

/-! ### The Ride-Through Controller -/

@[simp] theorem sameSetup_setRide (f : Ride → Ride) (s : Shelf) : SameSetup s (setRide f s) := by
  simp [setRide]

@[simp] theorem sameSetup_energyUpdate (s : Shelf) : SameSetup s (energyUpdate s) := by
  simp [energyUpdate, reanchor]

@[simp] theorem sameSetup_recomputeCapacity (s : Shelf) : SameSetup s (recomputeCapacity s) := by
  simp [recomputeCapacity]

@[simp] theorem sameSetup_batteryLost (k : Nat) (s : Shelf) : SameSetup s (batteryLost k s) := by
  simp [batteryLost]

@[simp] theorem sameSetup_rideOrders (k : Nat) (s : Shelf) : SameSetup s (rideOrders k s) := by
  unfold rideOrders
  split <;> simp

@[simp] theorem sameSetup_rideBattery (k : Nat) (old new : BbmState) (s : Shelf) :
    SameSetup s (rideBattery k old new s) := by simp [rideBattery]

@[simp] theorem sameSetup_holdSequencer (s : Shelf) : SameSetup s (holdSequencer s) := by
  simp [holdSequencer]

@[simp] theorem sameSetup_reachNormal (s : Shelf) : SameSetup s (reachNormal s) := by
  simp [reachNormal]

@[simp] theorem sameSetup_shedStarting (s : Shelf) : SameSetup s (shedStarting s) := by
  simp [shedStarting]

@[simp] theorem sameSetup_postRideEnter (d : Nat) (s : Shelf) : SameSetup s (postRideEnter d s) := by
  simp [postRideEnter]

@[simp] theorem sameSetup_postDepleted (trays : Nat) (s : Shelf) :
    SameSetup s (postDepleted trays s) := by simp [postDepleted]

@[simp] theorem sameSetup_qualifyStep (returnOk : Bool) (s : Shelf) :
    SameSetup s (qualifyStep returnOk s) := SameSetup.refl s

/-! ### The Module Monitor -/

@[simp] theorem sameSetup_editPsm (i : Nat) (f : Psm → Psm) (s : Shelf) :
    SameSetup s (editPsm i f s) := SameSetup.refl s

@[simp] theorem sameSetup_psmTo (i : Nat) (new : PsmState) (reason : PsmReason) (cause : Cause)
    (s : Shelf) : SameSetup s (psmTo i new reason cause s) := by simp [psmTo]

@[simp] theorem sameSetup_checkPsm (i : Nat) (trigger : PsmTrigger) (s : Shelf) :
    SameSetup s (checkPsm i trigger s) := by
  unfold checkPsm
  split <;> simp

@[simp] theorem sameSetup_psmLine (i : Nat) (active : Bool) (s : Shelf) :
    SameSetup s (psmLine i active s) := by simp [psmLine]

@[simp] theorem sameSetup_psmAbsent (i : Nat) (s : Shelf) : SameSetup s (psmAbsent i s) := by
  simp [psmAbsent]

@[simp] theorem sameSetup_tellBbmState (k : Nat) (old new : BbmState) (reason : BbmReason)
    (s : Shelf) : SameSetup s (tellBbmState k old new reason s) := by simp [tellBbmState]

@[simp] theorem sameSetup_putBbm (k : Nat) (reason : BbmReason) (f : Bbm → Bbm) (s : Shelf) :
    SameSetup s (putBbm k reason f s) := by simp [putBbm]

@[simp] theorem sameSetup_bbmAbsent (k : Nat) (s : Shelf) : SameSetup s (bbmAbsent k s) := by
  simp [bbmAbsent]

@[simp] theorem sameSetup_failBbm (k : Nat) (cause : BbmFault) (reason : BbmReason) (s : Shelf) :
    SameSetup s (failBbm k cause reason s) := by simp [failBbm]

@[simp] theorem sameSetup_bbmOutcome (k : Nat) (code : Byte) (argument : Nat) (o : OrderOutcome)
    (s : Shelf) : SameSetup s (bbmOutcome k code argument o s) := by
  unfold bbmOutcome
  split
  · simp
  · split <;> simp

@[simp] theorem sameSetup_orderRate (rates : List (Nat × Nat)) (s : Shelf) :
    SameSetup s (orderRate rates s) := sameSetup_foldl (by simp) rates s

@[simp] theorem sameSetup_holdDischarging (s : Shelf) : SameSetup s (holdDischarging s) :=
  sameSetup_foldl (by simp) _ s

@[simp] theorem sameSetup_chargeEvaluation (s : Shelf) : SameSetup s (chargeEvaluation s) := by
  simp [chargeEvaluation]

@[simp] theorem sameSetup_chargeZero (s : Shelf) : SameSetup s (chargeZero s) := by
  simp [chargeZero]

/-! ### The Signal Screen -/

@[simp] theorem sameSetup_bandNotice (n : Nat) (old : Band) (notify : Bool) (s : Shelf) :
    SameSetup s (bandNotice n old notify s) := by simp [bandNotice]

@[simp] theorem sameSetup_putSignal (n : Nat) (notify : Bool) (f : Signal → Signal) (s : Shelf) :
    SameSetup s (putSignal n notify f s) := by simp [putSignal]

@[simp] theorem sameSetup_checkPsms (trigger : PsmTrigger) (is : List Nat) (s : Shelf) :
    SameSetup s (checkPsms trigger is s) := sameSetup_foldl (by simp) is s

@[simp] theorem sameSetup_handOnSignals (h : HandOn) (trigger : PsmTrigger) (s : Shelf) :
    SameSetup s (handOnSignals h trigger s) := by simp [handOnSignals]

@[simp] theorem sameSetup_staleSignal (n : Nat) (notify : Bool) (s : Shelf) :
    SameSetup s (staleSignal n notify s) := by simp [staleSignal]

@[simp] theorem sameSetup_staleAll (es : List SampleEntry) (s : Shelf) :
    SameSetup s (staleAll es s) := by
  have marked := sameSetup_foldl (f := fun s (e : SampleEntry) => staleSignal e.signal e.notify s)
    (by simp) es s
  simp [staleAll, marked]

/-! ### The Sense Line Unit -/

@[simp] theorem sameSetup_editLine (l : Nat) (f : SenseLine → SenseLine) (s : Shelf) :
    SameSetup s (editLine l f s) := SameSetup.refl s

@[simp] theorem sameSetup_followShelfStop (s : Shelf) : SameSetup s (followShelfStop s) := by
  simp [followShelfStop]

/-- Each role has its own receiver; a TRAY-GOOD line tells its tray of edges alone. -/
@[simp] theorem sameSetup_deliverLine (e : SenseEntry) (l : Nat) (active : Bool)
    (edge : Option Time) (s : Shelf) : SameSetup s (deliverLine e l active edge s) := by
  unfold deliverLine
  split
  case h_4 => split <;> simp
  all_goals simp

@[simp] theorem sameSetup_withdrawLine (old : SenseEntry) (s : Shelf) :
    SameSetup s (withdrawLine old s) := by
  unfold withdrawLine
  split <;> simp

@[simp] theorem sameSetup_withdrawSense (l : Nat) (old : SenseEntry) (s : Shelf) :
    SameSetup s (withdrawSense l old s) := by simp [withdrawSense]

@[simp] theorem sameSetup_deliverSense (l : Nat) (old : SenseEntry) (s : Shelf) :
    SameSetup s (deliverSense l old s) := by simp [deliverSense]

/-! ### The Leak Zone Unit -/

@[simp] theorem sameSetup_editZone (z : Nat) (f : Zone → Zone) (s : Shelf) :
    SameSetup s (editZone z f s) := SameSetup.refl s

@[simp] theorem sameSetup_tellZone (z : Nat) (old new : ZoneState) (cause : ZoneCause) (s : Shelf) :
    SameSetup s (tellZone z old new cause s) := by simp [tellZone, zoneNotice]

@[simp] theorem sameSetup_putZone (z : Nat) (cause : ZoneCause) (f : Zone → Zone) (s : Shelf) :
    SameSetup s (putZone z cause f s) := by simp [putZone]

@[simp] theorem sameSetup_zoneEvaluation (z : Nat) (s : Shelf) : SameSetup s (zoneEvaluation z s) := by
  unfold zoneEvaluation
  split <;> simp

@[simp] theorem sameSetup_zonesChanged (s : Shelf) : SameSetup s (zonesChanged s) := by
  simp [zonesChanged]

@[simp] theorem sameSetup_applyZone (z : Nat) (old : Option ZoneEntry) (s : Shelf) :
    SameSetup s (applyZone z old s) := by
  unfold applyZone
  split <;> simp

@[simp] theorem sameSetup_placeZone (z : Nat) (s : Shelf) : SameSetup s (placeZone z s) := by
  unfold placeZone
  split <;> simp

/-! ### The Program Sequencer -/

@[simp] theorem sameSetup_haltRun (cause : HaltCause) (source word : Nat) (s : Shelf) :
    SameSetup s (haltRun cause source word s) := by simp [haltRun]

@[simp] theorem sameSetup_endRun (step : Nat) (s : Shelf) : SameSetup s (endRun step s) := by
  simp [endRun]

@[simp] theorem sameSetup_completeStep (named : Nat) (s : Shelf) :
    SameSetup s (completeStep named s) := by simp [completeStep]

@[simp] theorem sameSetup_waitAt (e : StepEntry) (s : Shelf) : SameSetup s (waitAt e s) := by
  simp [waitAt]

@[simp] theorem sameSetup_enterStep (n : Nat) (s : Shelf) : SameSetup s (enterStep n s) := by
  unfold enterStep
  split
  · simp
  · dsimp only
    split <;> simp

@[simp] theorem sameSetup_startTrays (trays : List Nat) (s : Shelf) :
    SameSetup s (startTrays trays s) := by
  unfold startTrays
  split
  · simp
  · split
    · split <;> simp
    · simp

@[simp] theorem sameSetup_testStep (s : Shelf) : SameSetup s (testStep s) := by
  unfold testStep
  split <;> simp

@[simp] theorem sameSetup_resumeSequencer (s : Shelf) : SameSetup s (resumeSequencer s) := by
  simp [resumeSequencer]

@[simp] theorem sameSetup_startRun (entry : Nat) (origin : Origin) (s : Shelf) :
    SameSetup s (startRun entry origin s) := by simp [startRun]

@[simp] theorem sameSetup_abortRun (cause : HaltCause) (s : Shelf) :
    SameSetup s (abortRun cause s) := by simp [abortRun]

@[simp] theorem sameSetup_seqShelfStop (s : Shelf) : SameSetup s (seqShelfStop s) := by
  simp [seqShelfStop]

@[simp] theorem sameSetup_autostartTest (s : Shelf) : SameSetup s (autostartTest s) := by
  unfold autostartTest
  split <;> simp

/-! ### The downstream ports -/

@[simp] theorem sameSetup_editModule (r : Nat) (f : Module → Module) (s : Shelf) :
    SameSetup s (editModule r f s) := SameSetup.refl s

@[simp] theorem sameSetup_tellOwner (e : RosterEntry) (r : Nat) (s : Shelf) :
    SameSetup s (tellOwner e r s) := by
  unfold tellOwner
  split <;> simp

@[simp] theorem sameSetup_signalsStale (r : Nat) (s : Shelf) : SameSetup s (signalsStale r s) := by
  simp [signalsStale]

@[simp] theorem sameSetup_moduleAbsentAs (e : RosterEntry) (r : Nat) (missed : Bool) (s : Shelf) :
    SameSetup s (moduleAbsentAs e r missed s) := by simp [moduleAbsentAs, tellAbsent, absentNotice]

@[simp] theorem sameSetup_moduleAbsent (r : Nat) (missed : Bool) (s : Shelf) :
    SameSetup s (moduleAbsent r missed s) := by
  unfold moduleAbsent
  split <;> simp

theorem sameSetup_beginTx {p : Port} (h : p ≠ .up) (tx : Transaction) (f : Frame) (s : Shelf) :
    SameSetup s (beginTx p tx f s) := by simp [beginTx, h]

theorem sameSetup_tryPoll {p : Port} (h : p ≠ .up) (s : Shelf) : SameSetup s (tryPoll p s).2 := by
  unfold tryPoll
  split
  · dsimp only
    split <;> simp [sameSetup_beginTx h]
  · exact SameSetup.refl s

theorem sameSetup_arbitrateOrders {p : Port} (h : p ≠ .up) (s : Shelf) : SameSetup s (arbitrateOrders p s) := by
  unfold arbitrateOrders
  dsimp only
  split <;> simp [beginAttempt, beginCommand, sameSetup_beginTx h, sameSetup_tryPoll h]

/-- After three transactions that are no polls a poll is tried first, and the orders where none is due. -/
theorem sameSetup_arbitrate (p : Port) (s : Shelf) : SameSetup s (arbitrate p s) := by
  unfold arbitrate
  dsimp only
  split
  case isTrue free =>
    have polled := sameSetup_tryPoll free.1 s
    split
    · split
      case h_1 t tried => simpa [tried] using polled
      case h_2 t tried =>
        rw [tried] at polled
        exact polled.trans (sameSetup_arbitrateOrders free.1 t)
    · exact sameSetup_arbitrateOrders free.1 s
  case isFalse => exact SameSetup.refl s

@[simp] theorem sameSetup_clearMisses (p : Port) (s : Shelf) : SameSetup s (clearMisses p s) :=
  sameSetup_foldl (by simp) _ s

@[simp] theorem sameSetup_enablePort {p : Port} (h : p ≠ .up) (s : Shelf) : SameSetup s (enablePort p s) := by
  simp [enablePort, h]

@[simp] theorem sameSetup_refuseRelayed (os : List RelayedOrder) (s : Shelf) :
    SameSetup s (refuseRelayed os s) := sameSetup_foldl (by simp) os s

@[simp] theorem sameSetup_absentAll (rs : List Nat) (s : Shelf) : SameSetup s (absentAll rs s) := by
  simp [absentAll]

/-! ### EDIT-APPLY -/

@[simp] theorem sameSetup_answerFlight (r : Nat) (pe : PollEngine) (s : Shelf) :
    SameSetup s (answerFlight r pe s) := by
  unfold answerFlight
  split <;> simp

@[simp] theorem sameSetup_tellPortOff (s : Shelf) (o : ControlOrder) :
    SameSetup s (tellPortOff s o) := by
  unfold tellPortOff
  split <;> simp

@[simp] theorem sameSetup_removeOrders (p : Port) (r : Nat) (s : Shelf) :
    SameSetup s (removeOrders p r s) := by
  have told := fun os s => sameSetup_foldl sameSetup_tellPortOff os s
  simp [removeOrders, told]

@[simp] theorem sameSetup_removeOld (old : List Record) (r : Nat) (s : Shelf) :
    SameSetup s (removeOld old r s) := by
  unfold removeOld
  split <;> simp [removeModule]

@[simp] theorem sameSetup_admitNew (old : List Record) (r : Nat) (s : Shelf) :
    SameSetup s (admitNew old r s) := by simp [admitNew]

@[simp] theorem sameSetup_applyRoster (old : List Record) (latched : List Nat) (s : Shelf) :
    SameSetup s (applyRoster old latched s) := by
  have removed := sameSetup_foldl (f := fun s r => removeOld old r s) (by simp) latched s
  have admitted := sameSetup_foldl (f := fun s r => admitNew old r s) (by simp) latched
  simp [applyRoster, removed, admitted]

@[simp] theorem sameSetup_absentUnlisted (s : Shelf) : SameSetup s (absentUnlisted s) := by
  simp [absentUnlisted]

@[simp] theorem sameSetup_applySignal (old : List Record) (n : Nat) (s : Shelf) :
    SameSetup s (applySignal old n s) := by
  unfold applySignal
  split <;> simp

@[simp] theorem sameSetup_applySampleMap (old : List Record) (s : Shelf) :
    SameSetup s (applySampleMap old s) := by
  have applied := sameSetup_foldl (f := fun s n => applySignal old n s) (by simp)
    (List.range Config.signalCount) s
  simp [applySampleMap, applied]

@[simp] theorem sameSetup_applyLimits (old : List Record) (s : Shelf) :
    SameSetup s (applyLimits old s) := by
  have cleared := sameSetup_foldl
    (f := fun s (e : SampleEntry) => { s with signals := vmod s.signals e.signal clearPending })
    (by simp) (limitedBy old s) s
  simp [applyLimits, cleared]

@[simp] theorem sameSetup_applyLines (old : List Record) (latched : List Nat) (s : Shelf) :
    SameSetup s (applyLines old latched s) := by
  simp [applyLines, sameSetup_foldl]

@[simp] theorem sameSetup_dropOutput (i : Nat) (s : Shelf) : SameSetup s (dropOutput i s) := SameSetup.refl s

@[simp] theorem sameSetup_dropPsm (i : Nat) (s : Shelf) : SameSetup s (dropPsm i s) := by
  simp [dropPsm]

@[simp] theorem sameSetup_applyPsm (old : List Record) (i : Nat) (s : Shelf) :
    SameSetup s (applyPsm old i s) := by
  unfold applyPsm
  split <;> simp

@[simp] theorem sameSetup_markUnread (k : Nat) (s : Shelf) : SameSetup s (markUnread k s) := SameSetup.refl s

@[simp] theorem sameSetup_applyBbm (old : List Record) (k : Nat) (s : Shelf) :
    SameSetup s (applyBbm old k s) := by
  unfold applyBbm
  split <;> simp

@[simp] theorem sameSetup_renewTray (t : Nat) (s : Shelf) : SameSetup s (renewTray t s) := by
  simp [renewTray]

@[simp] theorem sameSetup_moveToRoster (t : Nat) (s : Shelf) : SameSetup s (moveToRoster t s) := by
  simp [moveToRoster]

@[simp] theorem sameSetup_applyKeptTray (t : Nat) (a b : TrayEntry) (s : Shelf) :
    SameSetup s (applyKeptTray t a b s) := by simp [applyKeptTray]

@[simp] theorem sameSetup_applyTray (old : List Record) (t : Nat) (s : Shelf) :
    SameSetup s (applyTray old t s) := by
  unfold applyTray
  split <;> simp

@[simp] theorem sameSetup_applyTrays (old : List Record) (latched : List Nat) (s : Shelf) :
    SameSetup s (applyTrays old latched s) := by
  simp [applyTrays, sameSetup_foldl]

/-- Each table has its own side effects. -/
@[simp] theorem sameSetup_applyEffects (t : Nat) (old : List Record) (latched : List Nat)
    (s : Shelf) : SameSetup s (applyEffects t old latched s) := by
  simp [applyEffects, sameSetup_foldl]

@[simp] theorem sameSetup_endApply (s : Shelf) : SameSetup s (endApply s) := by
  unfold endApply
  split <;> simp

/-! ### Start-up -/

@[simp] theorem sameSetup_startPort {p : Port} (h : p ≠ .up) (s : Shelf) : SameSetup s (startPort p s) := by
  unfold startPort
  dsimp only
  split <;> simp [h]

@[simp] theorem sameSetup_startPorts (s : Shelf) : SameSetup s (startPorts s) := by
  simp [startPorts]

@[simp] theorem sameSetup_startAutostart (s : Shelf) : SameSetup s (startAutostart s) := by
  simp [startAutostart]

@[simp] theorem sameSetup_postStarted (kind : ResetKind) (s : Shelf) :
    SameSetup s (postStarted kind s) := by simp [postStarted]

/-! ### The Ride-Through Controller's changes of state -/

/-- What `SameSetup` says where no restart is pending, but of UP its enabling and its receive queue alone: a change
of the ride state from NORMAL drops the mark of a RESTART on UP's frames (R170). -/
abbrev KeptSetup (s t : Shelf) : Prop :=
  t.tables = s.tables ∧ t.loads = s.loads ∧ t.window = s.window ∧ t.level = s.level ∧
    t.engUp.enabled = s.engUp.enabled ∧ t.engUp.rx = s.engUp.rx ∧ (s.restart = none → t.restart = none)

theorem SameSetup.kept {s t : Shelf} (same : SameSetup s t) : KeptSetup s t := by
  obtain ⟨tables, loads, window, level, engine, restart⟩ := same
  exact ⟨tables, loads, window, level, congrArg _ engine, congrArg _ engine, restart.trans⟩

theorem KeptSetup.trans {s t u : Shelf} (first : KeptSetup s t) (second : KeptSetup t u) : KeptSetup s u := by
  obtain ⟨tables, loads, window, level, enabled, rx, restart⟩ := first
  obtain ⟨tables', loads', window', level', enabled', rx', restart'⟩ := second
  exact ⟨tables'.trans tables, loads'.trans loads, window'.trans window, level'.trans level, enabled'.trans enabled,
    rx'.trans rx, restart' ∘ restart⟩

theorem keptSetup_leaveNormal (s : Shelf) : KeptSetup s (leaveNormal s) := by
  have dropped : KeptSetup s (dropRestart s) := ⟨rfl, rfl, rfl, rfl, rfl, rfl, fun _ => rfl⟩
  have held : SameSetup (dropRestart s) (leaveNormal s) := by simp [leaveNormal]
  exact dropped.trans held.kept

theorem keptSetup_rideTo (new : RideState) (f : Ride → Ride) (s : Shelf) : KeptSetup s (rideTo new f s) := by
  have left (x : Shelf) (c : Prop) [Decidable c] : KeptSetup x (if c then leaveNormal x else x) := by
    split
    · exact keptSetup_leaveNormal x
    · exact (SameSetup.refl x).kept
  have set : SameSetup s (setDrives (setRide (fun r => { f r with state := new }) s)) := by simp
  have reached (x : Shelf) (c : Prop) [Decidable c] : SameSetup x (admissionDue (if c then reachNormal x else x)) := by
    simp
  exact (set.kept.trans (left _ _)).trans (reached _ _).kept

theorem keptSetup_enterRide (line : Bool) (d : Nat) (s : Shelf) : KeptSetup s (enterRide line d s) :=
  (SameSetup.kept (by simp)).trans (keptSetup_rideTo _ _ (emit (.postRideEnter d) (shedStarting (dischargeBatteries s))))

theorem keptSetup_secondLoss (d : Nat) (s : Shelf) : KeptSetup s (secondLoss d s) :=
  (SameSetup.kept (by simp)).trans (keptSetup_rideTo _ _ (emit (.postRideEnter d) (shedStarting (dischargeBatteries s))))

theorem keptSetup_enterNormal (s : Shelf) : KeptSetup s (enterNormal s) := by
  have posted (x : Shelf) (shed used : Nat) : SameSetup x (post srcRide 0 ntRideNormal shed used x) := by simp
  exact (keptSetup_rideTo _ _ s).trans (posted _ _ _).kept

theorem keptSetup_stackChanged (s : Shelf) : KeptSetup s (stackChanged s) := by
  unfold stackChanged
  split
  · exact keptSetup_enterNormal s
  · exact (SameSetup.refl s).kept

theorem keptSetup_rideRecord (deficit line returnOk : Bool) (d : Nat) (s : Shelf) :
    KeptSetup s (rideRecord deficit line returnOk d s) := by
  unfold rideRecord
  split
  case h_1 =>
    split
    · exact keptSetup_enterRide line d s
    · exact (SameSetup.refl s).kept
  case h_2 =>
    split
    · exact keptSetup_secondLoss d s
    · exact (SameSetup.refl s).kept
  all_goals exact (sameSetup_qualifyStep returnOk s).kept

/-! ### The reactions of an event -/

/-- Each reaction is one operation of its block; a balance record and a change of the restore stack alone may change
the ride state. -/
theorem keptSetup_perform (task : Task) (s : Shelf) : KeptSetup s (perform task s) := by
  cases task
  case rideRecord deficit line returnOk d => exact keptSetup_rideRecord deficit line returnOk d s
  case stackChanged => exact keptSetup_stackChanged s
  all_goals exact SameSetup.kept (by simp [perform])

theorem keptSetup_nextReaction {s t : Shelf} (next : nextReaction s = some t) : KeptSetup s t := by
  unfold nextReaction at next
  split at next
  · cases next
    exact keptSetup_perform _ _
  · split at next
    · cases next
      exact (sameSetup_admissionTry s).kept
    · split at next
      · cases next
        exact keptSetup_perform _ _
      · cases next

theorem keptSetup_runReactions (n : Nat) (s : Shelf) : KeptSetup s (runReactions n s) := by
  induction n generalizing s with
  | zero => exact (SameSetup.refl s).kept
  | succ n ih =>
    unfold runReactions
    split
    case h_1 t next => exact (keptSetup_nextReaction next).trans (ih t)
    case h_2 => exact (SameSetup.refl s).kept

theorem keptSetup_react (s : Shelf) : KeptSetup s (react s) := keptSetup_runReactions _ s

/-! ### The end of an event -/

theorem keptSetup_arbitrateUp (s : Shelf) : KeptSetup s (arbitrateUp s) := by
  unfold arbitrateUp
  split
  · split
    case h_1 f t chosen =>
      have taken : SameSetup s t := by
        have links := linksOnly_chooseUp chosen
        rw [links, chooseUp_engUp chosen]
        exact SameSetup.refl s
      refine taken.kept.trans ?_
      unfold moveToShifter
      split <;> exact ⟨rfl, rfl, rfl, rfl, rfl, rfl, id⟩
    case h_2 => exact (SameSetup.refl s).kept
  · exact (SameSetup.refl s).kept

theorem keptSetup_sendOff (s : Shelf) : KeptSetup s (sendOff s) :=
  (keptSetup_arbitrateUp s).trans ((sameSetup_arbitrate .sp _).trans (sameSetup_arbitrate .tp _)).kept

/-- Nothing received on UP stays nothing through the reactions, so an event ends with them and the arbiters. -/
theorem closing_of_empty {s : State} (rx : s.engUp.rx = []) : closing s = settled react s := by
  obtain ⟨-, -, -, -, -, kept, -⟩ := keptSetup_react s.toShelf
  exact closing_empty (kept.trans rx)

/-- With nothing in UP's receive queue, the whole of an event's end leaves the settings in effect. -/
theorem keptSetup_closing {s : State} (rx : s.engUp.rx = []) : KeptSetup s.toShelf (closing s).toShelf := by
  rw [closing_of_empty rx]
  exact (keptSetup_react s.toShelf).trans (keptSetup_sendOff _)

theorem closing_store {s : State} (rx : s.engUp.rx = []) :
    (closing s).store = s.store ∧ (closing s).pending = s.pending := by
  rw [closing_of_empty rx]
  exact ⟨rfl, rfl⟩

/-! ### Start-up (R186) -/

theorem sameSetup_placeTables (s : Shelf) : SameSetup s (placeTables s) := by
  have zoned (zones : List Nat) (x : Shelf) : SameSetup x (zones.foldl (fun z i => placeZone i z) x) :=
    sameSetup_foldl (fun z i => sameSetup_placeZone i z) zones x
  have locked (trays : List Nat) (x : Shelf) : SameSetup x (trays.foldl (fun z t => lockTrayOnly t z) x) :=
    sameSetup_foldl (fun z t => sameSetup_lockTrayOnly t z) trays x
  simp [placeTables, zoned, locked]

/-- Start-up latches the level and leaves the loaded tables in effect. -/
theorem sameSetup_startUp (kind : ResetKind) (st : Store) (x : Shelf) :
    SameSetup { loadTables st x with level := latchedLevel st } (startUp kind st x) := by
  have ends : startUp kind st x = _ := startUpTasks_eq kind (latchedLevel st) (placeTables (loadTables st x))
  have placed := sameSetup_placeTables (loadTables st x)
  rw [ends]
  generalize placeTables (loadTables st x) = z at placed ⊢
  generalize loadTables st x = y at placed ⊢
  obtain ⟨tables, loads, window, -, engine, restart⟩ := placed
  exact ⟨tables, loads, window, rfl, engine, restart⟩

/-- What the end of an event leaves of the settings in effect, on a part with no edit window, no pending restart and
nothing received on UP (R170, R174, R186, R187). -/
theorem closing_settings {s : State} (window : s.window = none) (restart : s.restart = none) (rx : s.engUp.rx = []) :
    ((closing s).store = s.store ∧ (closing s).pending = s.pending) ∧ (closing s).tables = s.tables ∧
      (closing s).loads = s.loads ∧ (closing s).level = s.level ∧
      (closing s).engUp.enabled = s.engUp.enabled ∧ (closing s).window = none ∧ (closing s).restart = none := by
  obtain ⟨tables, loads, window', level, enabled, -, restart'⟩ := keptSetup_closing rx
  exact ⟨closing_store rx, tables, loads, level, enabled, window'.trans window, restart' restart⟩

/-- Every kind of reset closes the edit window, drops a pending restart and empties UP's receive queue. -/
theorem resetBlocks_settings (kind : ResetKind) (x : Shelf) :
    let y := resetBlocks kind x
    y.window = none ∧ y.restart = none ∧ y.engUp.rx = [] := by
  cases kind <;> exact ⟨rfl, rfl, rfl⟩

/-- UP runs once the tables are loaded. -/
theorem loadTables_settings (st : Store) {x : Shelf} (settings : x.window = none ∧ x.restart = none ∧ x.engUp.rx = []) :
    let y := loadTables st x
    y.window = none ∧ y.restart = none ∧ y.engUp.rx = [] ∧ y.engUp.enabled = true := by
  obtain ⟨window, restart, rx⟩ := settings
  have loaded := (loadTables_spec st x (t := 0) (by decide)).2
  have up := congrArg Shelf.engUp loaded
  exact ⟨(congrArg Shelf.window loaded).trans window, (congrArg Shelf.restart loaded).trans restart,
    (congrArg PortEngine.rx up).trans rx, congrArg PortEngine.enabled up⟩

/-- The end of the start-up event, from the loaded tables and what start-up made of them. -/
theorem closing_started {fresh started : Shelf} {level : Nat} (setup : SameSetup { fresh with level } started)
    (settings : fresh.window = none ∧ fresh.restart = none ∧ fresh.engUp.rx = [] ∧ fresh.engUp.enabled = true)
    (st : Store) (pending : List Instr) :
    let t := closing { started with store := st, pending }
    t.store = st ∧ t.tables = fresh.tables ∧ t.loads = fresh.loads ∧ t.level = level ∧
      t.engUp.enabled = true ∧ t.window = none ∧ t.restart = none ∧ t.pending = pending := by
  obtain ⟨window, restart, rx, enabled⟩ := settings
  obtain ⟨tables, loads, window', latched, engine, restart'⟩ := setup
  obtain ⟨⟨store, kept⟩, tables', loads', level', enabled', closed, dropped⟩ :=
    closing_settings (s := { started with store := st, pending }) (window'.trans window) (restart'.trans restart)
      ((congrArg PortEngine.rx engine).trans rx)
  exact ⟨store, tables'.trans tables, loads'.trans loads, level'.trans latched,
    enabled'.trans ((congrArg PortEngine.enabled engine).trans enabled), closed, dropped, kept⟩

theorem resets_load (kind : ResetKind) (st : Store) (x : Shelf) (pending : List Instr) :
    let fresh := loadTables st (resetBlocks kind x)
    let t := closing { startUp kind st (resetBlocks kind x) with store := st, pending }
    t.store = st ∧ t.tables = fresh.tables ∧ t.loads = fresh.loads ∧ t.level = latchedLevel st ∧
      t.engUp.enabled = true ∧ t.window = none ∧ t.restart = none ∧ t.pending = pending := by
  have setup := sameSetup_startUp kind st (resetBlocks kind x)
  generalize startUp kind st (resetBlocks kind x) = started at setup ⊢
  exact closing_started setup (loadTables_settings st (resetBlocks_settings kind x)) st pending

/-- The clause on one resetting command, from the state in which it ends. -/
theorem resets_load_of_exec {command : Instr} {kind : ResetKind} {e : Ambient} {s : State} {st : Store}
    (ends : exec command s = .next (closing
      { startUp kind st (resetBlocks kind (opening e s).toShelf) with store := st, pending := s.pending })) :
    ∃ t, exec command s = .next t ∧ t.store = st ∧
      let fresh := loadTables t.store (resetBlocks kind (opening e s).toShelf)
      t.tables = fresh.tables ∧ t.loads = fresh.loads ∧ t.level = latchedLevel t.store ∧
        t.engUp.enabled = true ∧ t.window = none ∧ t.restart = none ∧ t.pending = s.pending := by
  have loaded := resets_load kind st (opening e s).toShelf s.pending
  generalize closing _ = t at ends loaded
  obtain ⟨rfl, rest⟩ := loaded
  exact ⟨t, ends, rfl, rest⟩

/-- Settles O31: each clause is a lemma of its own above; what a reset leaves of the settings in effect follows from the
frame `keptSetup_closing` over every reaction of the start-up event. -/
theorem resetsLoadTheTables : Obligations.ResetsLoadTheTables :=
  ⟨fun st x t _ => loadTable_spec st x t, fun x _ records ht => tableValid_iff x ht records,
    fun st x _ ht => loadTables_spec st x ht,
    fun e s => resets_load_of_exec (exec_resets e s).1,
    fun e s => resets_load_of_exec (exec_resets e s).2.1,
    fun e s shifting empty ready => resets_load_of_exec ((exec_resets e s).2.2 shifting empty ready),
    exec_resets, startUp_spec, placeTables_spec, lockTrayOnly_spec, placeZone_spec,
    fun kind x => ⟨resetBlocks_cleared kind x, resetBlocks_power kind x, resetBlocks_restart kind x⟩, startPort_spec,
    fun x => ⟨rfl, (startAutostart_spec x).1, (startAutostart_spec x).2, fun kind => postStarted_spec kind x⟩⟩

end Sys2Proof.Machine
end

section
/-! PROOF. A property that the named kinds of change keep (`Closed`) through the operations of the blocks, in the
order of the model's files: one lemma per operation, for every such property at once. What an event does besides
them (`ClosedEvent`: shelf time, tables, the UP receive queue, resets) follows the operations. -/

namespace Sys2Proof.Machine

variable {P : Shelf → Prop}

/-- A property kept by every kind of change that an event makes: those of its reactions, a change of a ride state
other than NORMAL, and besides them shelf time, the tables and their window, the UP receive queue, a restart that
becomes pending in NORMAL, and the resets. -/
structure ClosedEvent (P : Shelf → Prop) : Prop extends Closed P where
  rideOn : ∀ {s : Shelf} (r : Ride), s.ride.state ≠ .normal → (EnergyOk s.ride → EnergyOk r) →
    (RideMarks s.ride → RideMarks r) → P s → P { s with ride := r }
  clock : ∀ {s : Shelf} (t : Time) (e : Ambient), P s → P { s with shelfTime := t, ambient := e }
  tables : ∀ {s : Shelf} (x : Shelf), P s →
    P { s with tables := x.tables, loads := x.loads, window := x.window, level := x.level }
  rx : ∀ {s : Shelf} (e : PortEngine),
    (s.engUp.rx.length ≤ Config.rxDepth → e.rx.length ≤ Config.rxDepth) → P s →
    P { s with engUp := e }
  pend : ∀ {s : Shelf}, s.ride.state = .normal → P s → P { s with restart := some false }
  reset : ∀ {s : Shelf} (kind : ResetKind), P s → P (resetBlocks kind s)

/-- A choice between two states, each of which has the property. -/
theorem keep_ite {p : Prop} [Decidable p] {a b : Shelf} (ha : p → P a) (hb : ¬p → P b) :
    P (if p then a else b) := by
  split
  · exact ha ‹_›
  · exact hb ‹_›

/-! ### The Balance Unit -/

/-- The largest of some figures is at most their sum. -/
theorem foldl_max_le_sum : ∀ (g : List Nat) (m : Nat), g.foldl max m ≤ m + g.sum
  | [], m => by simp
  | a :: g, m => by
    have rest := foldl_max_le_sum g (max m a)
    rw [List.foldl_cons, List.sum_cons]
    omega

/-- The reserve is one of the capacities or 0, so the grid capacity covers it (R33). -/
theorem reserveOf_le_sum (redundant : Bool) (g : List Nat) : reserveOf redundant g ≤ g.sum := by
  unfold reserveOf
  split
  · simpa using foldl_max_le_sum g 0
  · exact Nat.zero_le _

/-- The capacities of the record are those its sum is over (R32, R33). -/
theorem toList_g_balanceNow (x : Shelf) (causes : List Cause) :
    (balanceNow x causes).g.toList = capacities x none := by
  change (Vector.ofFn fun i : Fin 6 => stageCapacity x i).toList = _
  rw [Vector.toList_ofFn]
  rfl

/-- The figures of a record that the seven stages give agree with one another (R33 to R36). -/
theorem balanceAgrees_balanceNow (x : Shelf) (causes : List Cause) :
    BalanceAgrees (balanceNow x causes) := by
  refine ⟨?_, reserveOf_le_sum _ _, rfl, Nat.le_add_left _ _, rfl, rfl, rfl, ?_⟩
  · rw [toList_g_balanceNow]
    rfl
  · exact decide_eq_true_iff

theorem Closed.overcommitNotice (c : Closed P) (old new : Balance) {s : Shelf} (h : P s) :
    P (overcommitNotice old new s) :=
  keep_ite (fun _ => c.post _ _ _ _ _ h) fun _ => h

theorem Closed.tellMonitorAndSequencer (c : Closed P) (h0Changed : Bool) {s : Shelf} (h : P s) :
    P (tellMonitorAndSequencer h0Changed s) :=
  keep_ite (fun _ => c.postpone _ (keep_ite (fun _ => c.postpone _ h) fun _ => h))
    fun _ => keep_ite (fun _ => c.postpone _ (c.postpone _ h)) fun _ => c.postpone _ h

/-- A reaction joins those that wait. -/
theorem Closed.defer (c : Closed P) (ts : List Task) {s : Shelf} (h : P s) :
    P { s with deferred := ts } := c.free { s with deferred := ts } h

/-- At each of the three turns the Ride-Through Controller may take. -/
theorem Closed.handOnBalance (c : Closed P) (old new : Balance) {s : Shelf} (h : P s) :
    P (handOnBalance old new s) := by
  have due : P (if old.h < new.h then Machine.admissionDue s else s) :=
    keep_ite (fun _ => c.admissionDue h) fun _ => h
  unfold Machine.handOnBalance
  dsimp only
  split
  · exact c.tellMonitorAndSequencer _ (c.emit _ due)
  · exact c.tellMonitorAndSequencer _ (c.defer _ due)
  · exact c.defer _ (c.tellMonitorAndSequencer _ due)

theorem Closed.recompute (c : Closed P) (causes : List Cause) {s : Shelf} (h : P s) :
    P (recompute causes s) := by
  have taken : P { s with balance := balanceNow s causes, causes := [] } :=
    c.free { s with causes := [] } (c.balance _ (fun _ => balanceAgrees_balanceNow s causes) h)
  exact c.handOnBalance _ _ (c.overcommitNotice _ _ taken)

theorem Closed.performBalance (c : Closed P) {s : Shelf} (h : P s) : P (performBalance s) :=
  keep_ite (fun _ => h) fun _ => c.recompute _ h

/-! ### The Tray Controller -/

theorem Closed.trayNotice (c : Closed P) (t : Nat) (old new : TrayState) {s : Shelf} (h : P s) :
    P (trayNotice t old new s) := keep_ite (fun _ => c.post _ _ _ _ _ h) fun _ => h

theorem Closed.afterTray (c : Closed P) (before : Shelf) (old new : TrayState) {s : Shelf} (h : P s) :
    P (afterTray before old new s) := by
  rw [afterTray_eq]
  exact c.free { s with
    deferred := (Machine.afterTray before old new s).deferred
    raised := (Machine.afterTray before old new s).raised
    admitDue := (Machine.afterTray before old new s).admitDue } h

theorem Closed.trayTo (c : Closed P) (t : Nat) (new : TrayState) (f : Tray → Tray) {s : Shelf}
    (h : P s) : P (trayTo t new f s) :=
  c.afterTray _ _ _ (c.changed _ (c.trayNotice _ _ _ (c.bay _ (bayExact_moveTray t new _) h)))

theorem Closed.editTray (c : Closed P) (t : Nat) (f : Tray → Tray) {s : Shelf} (h : P s) :
    P (editTray t f s) := c.bay _ (bayExact_edit t f) h

theorem Closed.faultTray (c : Closed P) (t : Nat) (cause : TrayFault) {s : Shelf} (h : P s) :
    P (faultTray t cause s) :=
  keep_ite (fun _ => c.placeOff _ (c.trayTo _ _ _ h)) fun _ => c.trayTo _ _ _ h

theorem Closed.trayGood (c : Closed P) (t : Nat) (time : Time) {s : Shelf} (h : P s) :
    P (trayGood t time s) := c.trayTo _ _ _ h

theorem Closed.stopTray (c : Closed P) (t : Nat) {s : Shelf} (h : P s) : P (stopTray t s) := by
  unfold Machine.stopTray
  dsimp only
  split
  · exact c.placeOff _ (c.trayTo _ _ _ h)
  · exact c.placeOff _ (c.trayTo _ _ _ h)
  · exact c.trayTo _ _ _ h
  · exact h

theorem Closed.withdrawTray (c : Closed P) (t : Nat) {s : Shelf} (h : P s) : P (withdrawTray t s) :=
  keep_ite (fun _ => c.trayTo _ _ _ h) fun _ => h

/-- An open summary that changes stays open. -/
theorem rideMarks_editSummary (f : Summary → Summary) {r : Ride} (h : RideMarks r) :
    RideMarks (editSummary f r) := by
  obtain ⟨residue, summary, tick, qualify⟩ := h
  exact ⟨residue, by simpa [editSummary] using summary, tick, qualify⟩

theorem Closed.countShed (c : Closed P) {s : Shelf} (h : P s) : P (countShed s) :=
  c.ride (editSummary (fun x => { x with shedCount := satInc x.shedCount }) s.ride) id
    (rideMarks_editSummary _) (.inl rfl) h

theorem Closed.shedTray (c : Closed P) (t : Nat) {s : Shelf} (h : P s) : P (shedTray t s) :=
  keep_ite (fun _ => c.placeOff _ (c.trayTo _ _ _ (c.countShed h))) fun _ => h

theorem Closed.lockTrayOnly (c : Closed P) (t : Nat) {s : Shelf} (h : P s) : P (lockTrayOnly t s) :=
  keep_ite (fun _ => h) fun _ => c.trayTo _ _ _ h

theorem Closed.lockTray (c : Closed P) (t : Nat) {s : Shelf} (h : P s) : P (lockTray t s) :=
  keep_ite (fun _ => h) fun _ =>
    keep_ite (fun _ => c.lockTrayOnly _ h) fun _ => c.placeOff _ (c.lockTrayOnly _ h)

theorem Closed.releaseTray (c : Closed P) (t : Nat) {s : Shelf} (h : P s) : P (releaseTray t s) :=
  keep_ite (fun _ => c.trayTo _ _ _ h) fun _ => h

theorem Closed.clearTray (c : Closed P) (t : Nat) {s : Shelf} (h : P s) : P (clearTray t s) :=
  c.placeOff _ (c.trayTo _ _ _ h)

theorem Closed.requestAdmission (c : Closed P) (t : Nat) (origin : QueuedBy) {s : Shelf} (h : P s) :
    P (requestAdmission t origin s) := keep_ite (fun _ => c.trayTo _ _ _ h) fun _ => h

theorem Closed.shelfStopTray (c : Closed P) (t : Nat) {s : Shelf} (h : P s) :
    P (shelfStopTray t s) := by
  unfold Machine.shelfStopTray
  split
  · exact c.stopTray _ h
  · exact c.stopTray _ h
  · exact c.stopTray _ h
  · exact c.withdrawTray _ h
  · exact c.trayTo _ _ _ h
  · exact h

theorem Closed.setSeen (c : Closed P) (t : Nat) (seen : Seen) {s : Shelf} (h : P s) :
    P (setSeen t seen s) := keep_ite (fun _ => h) fun _ => c.changed _ (c.editTray _ _ h)

theorem Closed.adoptedOn (c : Closed P) (t : Nat) {s : Shelf} (h : P s) : P (adoptedOn t s) :=
  keep_ite (fun _ => c.emit _ h) fun _ => keep_ite (fun _ => c.emit _ h) fun _ => h

/-- A status word acts on an UNKNOWN, a STARTING and an ON tray alone. -/
theorem Closed.trayStatus (c : Closed P) (t word : Nat) (time : Time) {s : Shelf} (h : P s) :
    P (trayStatus t word time s) := by
  have seen : P (Machine.setSeen t (if bitOutputOn word then .on else .off) s) := c.setSeen _ _ h
  unfold Machine.trayStatus
  dsimp only
  split
  · exact keep_ite (fun _ => c.adoptedOn _ (c.trayTo _ _ _ seen)) fun _ => c.trayTo _ _ _ seen
  · exact keep_ite (fun _ => c.trayGood _ _ seen) fun _ => seen
  · exact keep_ite (fun _ => seen) fun _ => c.faultTray _ _ seen
  · exact seen

theorem Closed.trayLineEdge (c : Closed P) (t : Nat) (rising : Bool) (time : Time) {s : Shelf}
    (h : P s) : P (trayLineEdge t rising time s) := by
  unfold Machine.trayLineEdge
  dsimp only
  split
  · exact keep_ite (fun _ => c.trayGood _ _ h) fun _ => h
  · exact keep_ite (fun _ => h) fun _ => c.faultTray _ _ h
  · exact h

theorem Closed.trayAbsent (c : Closed P) (t : Nat) {s : Shelf} (h : P s) : P (trayAbsent t s) := by
  have seen : P (Machine.setSeen t .unknown s) := c.setSeen _ _ h
  unfold Machine.trayAbsent
  dsimp only
  split
  · exact c.trayTo _ _ _ seen
  · exact c.withdrawTray _ seen
  · exact c.faultTray _ _ seen
  · exact c.faultTray _ _ seen
  · exact seen

theorem Closed.startAcknowledged (c : Closed P) (t : Nat) {s : Shelf} (h : P s) :
    P (startAcknowledged t s) :=
  keep_ite (fun _ => c.trayGood _ _ (c.editTray _ _ h)) fun _ => c.editTray _ _ h

/-- An outcome acts on a STARTING, a STOPPING and a SHEDDING tray alone. -/
theorem Closed.trayOutcome (c : Closed P) (t : Nat) (code : Byte) (o : OrderOutcome) {s : Shelf}
    (h : P s) : P (trayOutcome t code o s) := by
  unfold Machine.trayOutcome
  dsimp only
  refine keep_ite (fun _ => h) fun _ => ?_
  split
  · exact keep_ite (fun _ => c.startAcknowledged _ h) fun _ => c.faultTray _ _ h
  · exact keep_ite (fun _ => c.trayTo _ _ _ h) fun _ => c.faultTray _ _ h
  · exact keep_ite (fun _ => c.trayTo _ _ _ h) fun _ => c.faultTray _ _ h
  · exact h

theorem Closed.admitTray (c : Closed P) (t : Nat) {s : Shelf} (h : P s) : P (admitTray t s) :=
  c.placeOn _ (c.trayTo _ _ _ h)

theorem Closed.admissionTry (c : Closed P) {s : Shelf} (h : P s) : P (admissionTry s) := by
  have ended : P { s with admitDue := false } := c.free { s with admitDue := false } h
  unfold Machine.admissionTry
  split
  · exact keep_ite (fun _ => c.admissionDue (c.admitTray _ h)) fun _ => ended
  · exact ended

theorem Closed.interceptOn (c : Closed P) (address : Byte) (t : Nat) {s : Shelf} (h : P s) :
    P (interceptOn address t s) := by
  unfold Machine.interceptOn
  split
  · exact c.answerOrder _ _ _ h
  · exact keep_ite (fun _ => c.requestAdmission _ _ (c.answerOrder _ _ _ h))
      fun _ => c.answerOrder _ _ _ h

theorem Closed.interceptOff (c : Closed P) (address : Byte) (t : Nat) {s : Shelf} (h : P s) :
    P (interceptOff address t s) := by
  have told : ∀ status, P (Machine.answerOrder address codeOutputOff status s) :=
    fun _ => c.answerOrder _ _ _ h
  unfold Machine.interceptOff
  split
  · exact told _
  · dsimp only
    split
    · exact c.withdrawTray _ (told _)
    · exact c.stopTray _ (told _)
    · exact c.stopTray _ (told _)
    · exact c.stopTray _ (told _)
    · exact c.trayTo _ _ _ (told _)
    · exact told _

/-! ### The Guard -/

/-- A command queue takes an order while it has a place (R148). -/
theorem Closed.relayOrder (c : Closed P) (r : Nat) (p : Port) (address code : Byte) (argument : Nat)
    {s : Shelf} (h : P s) : P (relayOrder r p address code argument s) := by
  unfold Machine.relayOrder
  dsimp only
  refine keep_ite (fun _ => c.answerOrder _ _ _ h) fun _ =>
    keep_ite (fun _ => c.answerOrder _ _ _ h) fun room => ?_
  refine c.setPoll p _ (fun bounded => ?_) h
  obtain ⟨position, pass, run, -, control⟩ := bounded
  exact ⟨position, pass, run, by simpa using Nat.not_le.mp room, control⟩

theorem Closed.guardTable (c : Closed P) (r : Nat) (e : RosterEntry) (address code : Byte)
    (argument : Nat) {s : Shelf} (h : P s) : P (guardTable r e address code argument s) := by
  unfold Machine.guardTable
  split
  · exact c.answerOrder _ _ _ h
  · exact c.relayOrder _ _ _ _ _ h

theorem Closed.decideOrder (c : Closed P) (address code : Byte) (argument : Nat) {s : Shelf}
    (h : P s) : P (decideOrder address code argument s) := by
  unfold Machine.decideOrder
  split
  · exact c.answerOrder _ _ _ h
  · exact keep_ite (fun _ => c.interceptOn _ _ h) fun _ =>
      keep_ite (fun _ => c.interceptOff _ _ h) fun _ =>
        keep_ite (fun _ => c.answerOrder _ _ _ h) fun _ => c.guardTable _ _ _ _ _ h

/-! ### The Ride-Through Controller -/

theorem ride_setRide (f : Ride → Ride) (s : Shelf) : (setRide f s).ride = f s.ride := by rw [setRide_eq]

/-- The account's change is the one thing besides the sequencer's test. -/
theorem Closed.tellRide (c : Closed P) (f : Ride → Ride) {s : Shelf}
    (h : P { s with ride := f s.ride }) : P (setRide f s) :=
  keep_ite (fun _ => c.postpone _ h) fun _ => h

/-- The account changes in its ride state. -/
theorem Closed.setRide (c : Closed P) (f : Ride → Ride) {s : Shelf}
    (energy : EnergyOk s.ride → EnergyOk (f s.ride)) (marks : RideMarks s.ride → RideMarks (f s.ride))
    (state : (f s.ride).state = s.ride.state) (h : P s) : P (setRide f s) :=
  c.tellRide f (c.ride _ energy marks (.inl state) h)

/-- A residue of 0 is in range. -/
theorem rideMarks_reanchor (e : Nat) {r : Ride} (h : RideMarks r) :
    RideMarks { r with eRem := e, r := 0 } := ⟨Nat.zero_le _, h.2⟩

theorem Closed.reanchor (c : Closed P) {s : Shelf} (h : P s) : P (reanchor s) :=
  c.setRide (fun r => { r with eRem := min r.eCap (storedEnergy s), r := 0 })
    (fun _ => Nat.min_le_left _ _) (rideMarks_reanchor _) rfl h

theorem Closed.energyUpdate (c : Closed P) {s : Shelf} (h : P s) : P (energyUpdate s) :=
  keep_ite (fun _ => c.reanchor h) fun _ => h

theorem Closed.recomputeCapacity (c : Closed P) {s : Shelf} (h : P s) : P (recomputeCapacity s) :=
  c.energyUpdate (c.setRide _ (fun _ => Nat.min_le_right _ _) id rfl h)

/-- A lost share only lowers E_rem (R69). -/
theorem energyOk_lossOf (k : Nat) {r : Ride} (h : EnergyOk r) : EnergyOk (lossOf k r) := by
  refine Nat.le_trans ?_ h
  unfold lossOf
  dsimp only
  split
  · exact Nat.le_refl _
  · exact Nat.sub_le _ _

theorem Closed.batteryLost (c : Closed P) (k : Nat) {s : Shelf} (h : P s) : P (batteryLost k s) :=
  keep_ite (fun _ => h) fun _ => c.setRide _ (energyOk_lossOf k) id rfl h

theorem Closed.rideOrders (c : Closed P) (k : Nat) {s : Shelf} (h : P s) : P (rideOrders k s) := by
  unfold Machine.rideOrders
  split
  · exact c.placeBbmOnce _ _ h
  · exact c.placeBbmOnce _ _ h
  · exact c.placeBbmOnce _ _ h
  · exact c.placeBbmOnce _ _ h
  · exact h

theorem Closed.rideBattery (c : Closed P) (k : Nat) (old new : BbmState) {s : Shelf} (h : P s) :
    P (rideBattery k old new s) := by
  have lost := keep_ite (p := (!unusableState old && unusableState new) = true)
    (fun _ => c.batteryLost k h) fun _ => h
  exact c.rideOrders _ (keep_ite (fun _ => c.recomputeCapacity lost) fun _ => lost)

theorem Closed.dropRestart (c : Closed P) {s : Shelf} (h : P s) : P (dropRestart s) :=
  c.restart (s := withLinks s (Machine.dropRestart s)) none (fun n => absurd rfl n)
    (c.links (Machine.dropRestart s) (fun l => ⟨by simpa [Machine.dropRestart] using l.1, l.2⟩) rfl h)

theorem Closed.holdSequencer (c : Closed P) {s : Shelf} (h : P s) : P (holdSequencer s) :=
  keep_ite (fun _ => c.seq _ nofun h) fun _ => h

/-- What the ride state's leaving NORMAL takes from a restart and from the sequencer stands apart from the account
and the drive lines. -/
theorem holdSequencer_setRide (f : Ride → Ride) (s : Shelf) :
    let held := holdSequencer (dropRestart s)
    let told := setDrives (setRide f s)
    held.restart = none ∧ held.seq.state ≠ .waiting ∧ held.ride = s.ride ∧
      holdSequencer (dropRestart told) =
        withFree { held with ride := f s.ride }
          { held with deferred := told.deferred, drives := told.drives } := by
  by_cases waiting : s.seq.state = .waiting <;>
    by_cases changes : (f s.ride).eRem ≠ s.ride.eRem ∨ (f s.ride).eCap ≠ s.ride.eCap <;>
    by_cases waits : Task.seqTest ∈ s.deferred <;>
    simp [holdSequencer, dropRestart, setDrives, setRide, postpone, withFree, waiting, changes, waits]

theorem Closed.reachNormal (c : Closed P) {s : Shelf} (h : P s) : P (reachNormal s) :=
  c.postpone _ (keep_ite (fun _ => c.postpone _ (c.postpone _ h)) fun _ => c.postpone _ (c.postpone _ h))

/-- A change of the ride state: one that leaves NORMAL has dropped a pending restart and held a waiting sequencer. -/
theorem ClosedEvent.rideTo (c : ClosedEvent P) (new : RideState) (f : Ride → Ride) {s : Shelf}
    (energy : EnergyOk s.ride → EnergyOk (f s.ride))
    (marks : RideMarks s.ride → RideMarks { f s.ride with state := new }) (h : P s) :
    P (rideTo new f s) := by
  refine c.admissionDue ?_
  by_cases leaves : s.ride.state = .normal ∧ new ≠ .normal
  · obtain ⟨restart, waiting, ride, eq⟩ :=
      holdSequencer_setRide (fun r => { f r with state := new }) s
    rw [if_neg (fun x => x.1 leaves.1), if_pos leaves]
    refine c.emit _ ?_
    rw [eq]
    refine c.free _ (c.ride _ ?_ ?_ (.inr (.inr ⟨restart, waiting⟩)) (c.holdSequencer (c.dropRestart h)))
    · rwa [ride]
    · rwa [ride]
  · rw [if_neg leaves]
    have changed : P { s with ride := { f s.ride with state := new } } := by
      by_cases enters : new = .normal
      · exact c.ride _ energy marks (.inr (.inl enters)) h
      · exact c.rideOn _ (fun normal => leaves ⟨normal, enters⟩) energy marks h
    have told := c.setDrives (c.tellRide (fun r => { f r with state := new }) changed)
    exact keep_ite (fun _ => c.reachNormal told) fun _ => told

theorem Closed.shedStarting (c : Closed P) {s : Shelf} (h : P s) : P (shedStarting s) := c.emitAll _ h

/-- The discharge orders and the reactions of an entry to RIDE leave the account. -/
theorem ride_entered (d : Nat) (s : Shelf) :
    (emit (.postRideEnter d) (shedStarting (dischargeBatteries s))).ride = s.ride := by
  obtain ⟨-, -, -, -, -, -, -, ride, -⟩ := (closedLinks_sameBlocks s).dischargeBatteries
    (s := s) ⟨rfl, rfl, rfl, rfl, rfl, rfl, rfl, rfl, rfl, rfl, rfl⟩
  exact ride

theorem ClosedEvent.enterRide (c : ClosedEvent P) (line : Bool) (d : Nat) {s : Shelf} (h : P s) :
    P (enterRide line d s) :=
  c.rideTo _ _ id (fun m => ⟨m.1, by simp, by simp, by simp⟩)
    (c.emit _ (c.shedStarting (c.dischargeBatteries h)))

/-- In a ride a summary is open, and stays open as it changes. -/
theorem summary_open {r : Ride} (m : RideMarks r) (ride : r.state ≠ .normal) (f : Summary → Summary) :
    r.openSummary.map f ≠ none := by
  rw [Ne, Option.map_eq_none_iff]
  exact fun closed => ride (m.2.1.mpr closed)

theorem ClosedEvent.secondLoss (c : ClosedEvent P) (d : Nat) {s : Shelf}
    (ride : s.ride.state ≠ .normal) (h : P s) : P (secondLoss d s) := by
  refine c.rideTo _ _ id (fun m => ?_) (c.emit _ (c.shedStarting (c.dischargeBatteries h)))
  have summary := summary_open m (by rw [ride_entered]; exact ride)
    (fun x => { x with returns := satInc x.returns })
  exact ⟨m.1, ⟨nofun, fun closed => absurd closed summary⟩, by simp [editSummary], fun _ => .inl rfl⟩

theorem Closed.postRideEnter (c : Closed P) (d : Nat) {s : Shelf} (h : P s) : P (postRideEnter d s) :=
  c.post _ _ _ _ _ h

theorem Closed.postDepleted (c : Closed P) (trays : Nat) {s : Shelf} (h : P s) :
    P (postDepleted trays s) := c.post _ _ _ _ _ h

/-- The hold orders leave the account. -/
theorem ride_holdBatteries (s : Shelf) : (holdBatteries s).ride = s.ride := by
  obtain ⟨-, -, -, -, -, -, -, ride, -⟩ := (closedLinks_sameBlocks s).holdBatteries
    (s := s) ⟨rfl, rfl, rfl, rfl, rfl, rfl, rfl, rfl, rfl, rfl, rfl⟩
  exact ride

theorem ClosedEvent.enterDepleted (c : ClosedEvent P) {s : Shelf} (ride : s.ride.state ≠ .normal)
    (h : P s) : P (enterDepleted s) := by
  refine c.rideTo _ _ id (fun m => ?_) (c.emit _ (c.emitAll _ (c.holdBatteries h)))
  have summary := summary_open m (by change (holdBatteries s).ride.state ≠ _; rwa [ride_holdBatteries])
    (fun x => { x with depleted := true })
  exact ⟨m.1, ⟨nofun, fun closed => absurd closed summary⟩, by simp [editSummary], fun _ => .inr rfl⟩

theorem ClosedEvent.enterNormal (c : ClosedEvent P) {s : Shelf} (h : P s) : P (enterNormal s) :=
  c.post _ _ _ _ _
    (c.rideTo _ _ (fun _ => Nat.min_le_left _ _) (fun _ => ⟨Nat.zero_le _, by simp, by simp, by simp⟩) h)

theorem ClosedEvent.stackChanged (c : ClosedEvent P) {s : Shelf} (h : P s) : P (stackChanged s) :=
  keep_ite (fun _ => c.enterNormal h) fun _ => h

theorem ClosedEvent.enterReturning (c : ClosedEvent P) {s : Shelf} (ride : s.ride.state ≠ .normal)
    (h : P s) : P (enterReturning s) := by
  refine c.emit _ (c.post _ _ _ _ _ (c.rideTo _ _ id (fun m => ?_) (c.holdBatteries h)))
  have summary := summary_open m (by rwa [ride_holdBatteries])
    (fun x => { x with returnTime := some s.shelfTime })
  exact ⟨m.1, ⟨nofun, fun closed => absurd closed summary⟩, by simp [editSummary], by simp [editSummary]⟩

theorem Closed.qualifyStep (c : Closed P) (returnOk : Bool) {s : Shelf}
    (ride : s.ride.state = .ride ∨ s.ride.state = .depleted) (h : P s) : P (qualifyStep returnOk s) :=
  c.ride _ id (fun m => ⟨m.1, m.2.1, m.2.2.1, fun _ => ride⟩) (.inl rfl) h

theorem ClosedEvent.rideRecord (c : ClosedEvent P) (deficit line returnOk : Bool) (d : Nat) {s : Shelf}
    (h : P s) : P (rideRecord deficit line returnOk d s) := by
  unfold Machine.rideRecord
  split
  case h_1 => exact keep_ite (fun _ => c.enterRide _ _ h) fun _ => h
  case h_2 returning =>
    exact keep_ite (fun _ => c.secondLoss _ (by rw [returning]; nofun) h) fun _ => h
  case h_3 ride => exact c.qualifyStep _ (.inl ride) h
  case h_4 depleted => exact c.qualifyStep _ (.inr depleted) h

theorem Closed.projectAndShed (c : Closed P) (d eUse : Nat) {s : Shelf} (h : P s) :
    P (projectAndShed d eUse s) :=
  c.emitAll _ (c.setRide _ id (rideMarks_editSummary _) rfl h)

/-- A debit keeps the residue below 100 and the tick RUNNING (R68). -/
theorem rideMarks_debit (d : Nat) (f : Time → Time) {r : Ride} (m : RideMarks r) :
    RideMarks { debit d r with tick := r.tick.map f } := by
  obtain ⟨-, summary, tick, qualify⟩ := m
  refine ⟨?_, summary, ?_, qualify⟩
  · change (r.r + d) % 100 ≤ 99
    omega
  · simpa [debit] using tick

theorem ClosedEvent.energyTick (c : ClosedEvent P) {s : Shelf} (ride : s.ride.state ≠ .normal)
    (h : P s) : P (energyTick s) := by
  have debited := c.setRide (fun r => { debit s.balance.d r with
      tick := r.tick.map fun x => x + BitVec.ofNat 32 Config.tickPeriod })
    (fun e => Nat.le_trans (Nat.sub_le _ _) e) (rideMarks_debit _ _) rfl h
  refine keep_ite (fun _ => ?_) fun _ => c.projectAndShed _ _ debited
  refine c.enterDepleted ?_ (c.setRide _ id id rfl debited)
  rw [ride_setRide, ride_setRide]
  exact ride

/-! ### The Module Monitor -/

theorem Closed.editPsm (c : Closed P) (i : Nat) (f : Psm → Psm) {s : Shelf} (h : P s) :
    P (editPsm i f s) := c.free (Machine.editPsm i f s) h

theorem Closed.psmTo (c : Closed P) (i : Nat) (new : PsmState) (reason : PsmReason) (cause : Cause)
    {s : Shelf} (h : P s) : P (psmTo i new reason cause s) :=
  c.changed _ (c.post _ _ _ _ _ (c.editPsm _ _ h))

theorem Closed.checkPsm (c : Closed P) (i : Nat) (trigger : PsmTrigger) {s : Shelf} (h : P s) :
    P (checkPsm i trigger s) := by
  unfold Machine.checkPsm
  split
  · exact h
  · exact keep_ite (fun _ => h) fun _ => c.psmTo _ _ _ _ h

theorem Closed.psmLine (c : Closed P) (i : Nat) (active : Bool) {s : Shelf} (h : P s) :
    P (psmLine i active s) :=
  keep_ite (fun _ => h) fun _ =>
    keep_ite (fun _ => c.editPsm _ _ h) fun _ => c.checkPsm _ _ (c.editPsm _ _ h)

theorem Closed.psmAbsent (c : Closed P) (i : Nat) {s : Shelf} (h : P s) : P (psmAbsent i s) :=
  keep_ite (fun _ => h) fun _ => c.checkPsm _ _ (c.editPsm _ _ h)

theorem Closed.tellBbmState (c : Closed P) (k : Nat) (old new : BbmState) (reason : BbmReason)
    {s : Shelf} (h : P s) : P (tellBbmState k old new reason s) :=
  c.postpone _ (c.rideBattery _ _ _ (c.changed _ (c.post _ _ _ _ _ h)))

/-- The battery records are free. -/
theorem Closed.bbms (c : Closed P) (v : Vector Bbm 6) {s : Shelf} (h : P s) :
    P { s with bbms := v } := c.free { s with bbms := v } h

theorem Closed.putBbm (c : Closed P) (k : Nat) (reason : BbmReason) (f : Bbm → Bbm) {s : Shelf}
    (h : P s) : P (putBbm k reason f s) := by
  have full := fun v (p : Prop) [Decidable p] =>
    keep_ite (p := p) (fun _ => c.postpone .charge (c.bbms v h)) fun _ => c.bbms v h
  have acknowledged := fun v (p q : Prop) [Decidable p] [Decidable q] =>
    keep_ite (p := q) (fun _ => c.changed [.charge] (full v p)) fun _ => full v p
  exact keep_ite (fun _ => c.tellBbmState _ _ _ _ (acknowledged _ _ _)) fun _ => acknowledged _ _ _

theorem Closed.adoptBbm (c : Closed P) (k : Nat) (word : Option Nat) {s : Shelf} (h : P s) :
    P (adoptBbm k word s) := by
  unfold Machine.adoptBbm
  exact c.putBbm _ _ _ h

theorem Closed.bbmStatusWord (c : Closed P) (k word : Nat) {s : Shelf} (h : P s) :
    P (bbmStatusWord k word s) := by
  have filled := c.putBbm k .full (fun r =>
    if r.state = .charging && bitFull word then
      { r with full := bitFull word, state := .idle, acknowledged := 0 }
    else { r with full := bitFull word }) h
  exact keep_ite (fun _ => keep_ite (fun _ => filled) fun _ => c.putBbm _ _ _ filled) fun _ =>
    keep_ite (fun _ => c.adoptBbm _ _ filled) fun _ => filled

theorem Closed.bbmReport (c : Closed P) (k : Nat) (words : List Nat) {s : Shelf} (h : P s) :
    P (bbmReport k words s) :=
  keep_ite (fun _ => h) fun _ =>
    keep_ite (fun _ => keep_foldl (fun _ _ h => c.bbmStatusWord _ _ h) _ h) fun _ =>
      keep_foldl (fun _ _ h => c.bbmStatusWord _ _ h) _ (c.adoptBbm _ _ h)

theorem Closed.bbmAbsent (c : Closed P) (k : Nat) {s : Shelf} (h : P s) : P (bbmAbsent k s) :=
  keep_ite (fun _ => h) fun _ => c.putBbm _ _ _ h

theorem Closed.failBbm (c : Closed P) (k : Nat) (cause : BbmFault) (reason : BbmReason) {s : Shelf}
    (h : P s) : P (failBbm k cause reason s) := keep_ite (fun _ => h) fun _ => c.putBbm _ _ _ h

theorem Closed.bbmOutcome (c : Closed P) (k : Nat) (code : Byte) (argument : Nat) (o : OrderOutcome)
    {s : Shelf} (h : P s) : P (bbmOutcome k code argument o s) := by
  refine keep_ite (fun _ => h) fun _ => ?_
  cases o with
  | ack => exact keep_ite (fun _ => c.putBbm _ _ _ h) fun _ => c.failBbm _ _ _ h
  | noAnswer => exact c.failBbm _ _ _ h
  | portOff => exact h

theorem Closed.orderRate (c : Closed P) (rates : List (Nat × Nat)) {s : Shelf} (h : P s) :
    P (orderRate rates s) :=
  keep_foldl (fun _ _ h => keep_ite (fun _ => c.placeBbm _ _ _ (c.bbms _ h)) fun _ => h) rates h

theorem Closed.holdDischarging (c : Closed P) {s : Shelf} (h : P s) : P (holdDischarging s) :=
  keep_foldl (fun _ _ h => keep_ite (fun _ => c.placeBbmOnce _ _ h) fun _ => h) _ h

theorem Closed.chargeEvaluation (c : Closed P) {s : Shelf} (h : P s) : P (chargeEvaluation s) :=
  keep_ite
    (fun _ => c.orderRate _ (c.free { Machine.holdDischarging s with
      chargeBudget := chargeBudgetOf (Machine.holdDischarging s) } (c.holdDischarging h)))
    fun _ => h

theorem Closed.chargeZero (c : Closed P) {s : Shelf} (h : P s) : P (chargeZero s) :=
  keep_ite (fun _ => c.bbms _ h) fun _ => c.changed _ (c.bbms _ h)

/-! ### The Signal Screen -/

theorem Closed.bandNotice (c : Closed P) (n : Nat) (old : Band) (notify : Bool) {s : Shelf} (h : P s) :
    P (bandNotice n old notify s) := keep_ite (fun _ => c.post _ _ _ _ _ h) fun _ => h

/-- The signal records are free. -/
theorem Closed.signals (c : Closed P) (v : Vector Signal 128) {s : Shelf} (h : P s) :
    P { s with signals := v } := c.free { s with signals := v } h

theorem Closed.putSignal (c : Closed P) (n : Nat) (notify : Bool) (f : Signal → Signal) {s : Shelf}
    (h : P s) : P (putSignal n notify f s) := c.bandNotice _ _ _ (c.signals _ h)

theorem Closed.checkPsms (c : Closed P) (trigger : PsmTrigger) (is : List Nat) {s : Shelf} (h : P s) :
    P (checkPsms trigger is s) := keep_foldl (fun _ _ h => c.checkPsm _ _ h) is h

theorem Closed.handOnSignals (c : Closed P) (x : HandOn) (trigger : PsmTrigger) {s : Shelf} (h : P s) :
    P (handOnSignals x trigger s) := by
  have checked := keep_ite (p := (trigger = .report || s.applying.isSome : Bool) = true)
    (fun _ => c.checkPsms trigger (psmsWithBand s x) h) fun _ => h
  have anchored := fun p [Decidable p] => keep_ite (p := p) (fun _ => c.energyUpdate checked) fun _ => checked
  have told := fun p cs [Decidable p] => c.changed cs (anchored p)
  have later := fun p cs q ts [Decidable p] [Decidable q] =>
    keep_ite (p := q) (fun _ => c.emit ts (told p cs)) fun _ => told p cs
  exact keep_ite (fun _ => c.emit _ (later _ _ _ _)) fun _ => later _ _ _ _

theorem Closed.staleSignal (c : Closed P) (n : Nat) (notify : Bool) {s : Shelf} (h : P s) :
    P (staleSignal n notify s) := keep_ite (fun _ => h) fun _ => c.putSignal _ _ _ h

theorem Closed.staleAll (c : Closed P) (es : List SampleEntry) {s : Shelf} (h : P s) :
    P (staleAll es s) := c.handOnSignals _ _ (keep_foldl (fun _ _ h => c.staleSignal _ _ h) es h)

theorem Closed.applySample (c : Closed P) (e : SampleEntry) (raw : Nat) (time : Time) {s : Shelf}
    (h : P s) : P (applySample e raw time s) := c.putSignal _ _ _ h

theorem Closed.applySamples (c : Closed P) (time : Time) :
    ∀ (samples : List (SampleEntry × Nat)) (x : Shelf × List (Nat × SignalKind)), P x.1 →
      P (applySamples time samples x).1
  | [], _, h => h
  | _ :: rest, _, h => Closed.applySamples c time rest _ (c.applySample _ _ _ h)

/-- The owner of each kind of module takes its words one after another. -/
theorem Closed.deliverStatus (c : Closed P) (e : RosterEntry) (r : Nat) (words : List Nat) (time : Time)
    {s : Shelf} (h : P s) : P (deliverStatus e r words time s) := by
  unfold Machine.deliverStatus
  split
  · exact keep_ite (fun _ => keep_foldl (fun _ _ h => c.editPsm _ _ h) words h) fun _ => h
  · exact keep_ite (fun _ => c.bbmReport _ _ h) fun _ => h
  · exact keep_ite (fun _ => keep_foldl (fun _ _ h => c.trayStatus _ _ _ h) words h) fun _ => h
  · exact h

theorem Closed.evaluateReporter (c : Closed P) (e : RosterEntry) (r : Nat) (words : List Nat)
    {s : Shelf} (h : P s) : P (evaluateReporter e r words s) := by
  unfold Machine.evaluateReporter
  split
  · exact keep_ite (fun _ => c.checkPsm _ _ h) fun _ => h
  · exact h

theorem Closed.takeReport (c : Closed P) (r : Nat) (pairs : List (Nat × Nat)) (time : Time) {s : Shelf}
    (h : P s) : P (takeReport r pairs time s) := by
  unfold Machine.takeReport
  split
  · exact h
  · exact c.handOnSignals _ _ (c.evaluateReporter _ _ _
      (c.deliverStatus _ _ _ _ (c.applySamples _ _ _ h)))

/-! ### The Sense Line Unit -/

theorem Closed.editLine (c : Closed P) (l : Nat) (f : SenseLine → SenseLine) {s : Shelf} (h : P s) :
    P (editLine l f s) := c.free (Machine.editLine l f s) h

theorem Closed.followShelfStop (c : Closed P) {s : Shelf} (h : P s) : P (followShelfStop s) := by
  have moved : ∀ b, P { s with shelfStop := b } := fun b => c.free { s with shelfStop := b } h
  exact keep_ite (fun _ => h) fun _ => keep_ite (fun _ => c.emitAll _ (moved true))
    fun _ => c.admissionDue (c.postpone _ (moved false))

/-- Each role has its own receiver; a TRAY-GOOD line tells its tray of edges alone. -/
theorem Closed.deliverLine (c : Closed P) (e : SenseEntry) (l : Nat) (active : Bool)
    (edge : Option Time) {s : Shelf} (h : P s) : P (deliverLine e l active edge s) := by
  unfold Machine.deliverLine
  split
  · exact h
  · exact c.psmLine _ _ h
  · exact c.emit _ h
  · split
    · exact keep_ite (fun _ => c.trayLineEdge _ _ _ h) fun _ => h
    · exact h
  · exact c.followShelfStop h

theorem Closed.acceptLevel (c : Closed P) (l : Nat) (level : Level) (time : Time) {s : Shelf} (h : P s) :
    P (acceptLevel l level time s) := c.deliverLine _ _ _ _ (c.editLine _ _ h)

theorem Closed.takeSample (c : Closed P) (l : Nat) (level : Level) {s : Shelf} (h : P s) :
    P (takeSample l level s) :=
  keep_ite (fun _ => c.acceptLevel _ _ _ (c.editLine _ _ h)) fun _ => c.editLine _ _ (c.editLine _ _ h)

theorem Closed.filterSample (c : Closed P) (l : Nat) (level : Level) {s : Shelf} (h : P s) :
    P (filterSample l level s) := keep_ite (fun _ => c.takeSample _ _ h) fun _ => h

theorem Closed.acceptance (c : Closed P) (first : Bool) (l : Nat) (level : Level) {s : Shelf} (h : P s) :
    P (acceptance first l level s) :=
  keep_ite (fun _ => h) fun _ =>
    keep_ite (fun _ => keep_ite (fun _ => h) fun _ => c.acceptLevel _ _ _ h) fun _ =>
      keep_ite (fun _ => c.takeSample _ _ h) fun _ => h

theorem Closed.withdrawLine (c : Closed P) (old : SenseEntry) {s : Shelf} (h : P s) :
    P (withdrawLine old s) := by
  unfold Machine.withdrawLine
  split
  · exact c.psmLine _ _ h
  · exact c.followShelfStop h
  all_goals exact h

theorem Closed.withdrawSense (c : Closed P) (l : Nat) (old : SenseEntry) {s : Shelf} (h : P s) :
    P (withdrawSense l old s) := by
  have cleared := keep_ite (p := old.period ≠ (senseAt s l).period) (fun _ => c.editLine l
    (fun r => { r with history := clearHistory, lastSample := none }) h) fun _ => h
  exact keep_ite (fun _ => c.withdrawLine _ cleared) fun _ => cleared

theorem Closed.deliverSense (c : Closed P) (l : Nat) (old : SenseEntry) {s : Shelf} (h : P s) :
    P (deliverSense l old s) := keep_ite (fun _ => c.deliverLine _ _ _ _ h) fun _ => h

/-! ### The Leak Zone Unit -/

theorem Closed.editZone (c : Closed P) (z : Nat) (f : Zone → Zone) {s : Shelf} (h : P s) :
    P (editZone z f s) := c.free (Machine.editZone z f s) h

theorem Closed.tellZone (c : Closed P) (z : Nat) (old new : ZoneState) (cause : ZoneCause) {s : Shelf}
    (h : P s) : P (tellZone z old new cause s) := by
  have posted : P (zoneNotice z old new cause s) := c.post _ _ _ _ _ h
  have locked := fun ts => keep_ite (p := new = .wet) (fun _ => c.emitAll ts posted) fun _ => posted
  have released := fun ts us =>
    keep_ite (p := old = .wet ∧ new ≠ .wet) (fun _ => c.emitAll us (locked ts)) fun _ => locked ts
  exact keep_ite (fun _ => c.setDrives (released _ _)) fun _ => released _ _

theorem Closed.putZone (c : Closed P) (z : Nat) (cause : ZoneCause) (f : Zone → Zone) {s : Shelf}
    (h : P s) : P (putZone z cause f s) :=
  keep_ite (fun _ => c.editZone _ _ h) fun _ => c.tellZone _ _ _ _ (c.editZone _ _ h)

theorem Closed.zoneEvaluation (c : Closed P) (z : Nat) {s : Shelf} (h : P s) : P (zoneEvaluation z s) := by
  unfold Machine.zoneEvaluation
  split
  · exact h
  · exact c.putZone _ _ _ h

theorem Closed.zonesChanged (c : Closed P) {s : Shelf} (h : P s) : P (zonesChanged s) := c.emitAll _ h

theorem Closed.confirmExpiry (c : Closed P) (z : Nat) {s : Shelf} (h : P s) : P (confirmExpiry z s) := by
  unfold Machine.confirmExpiry
  exact c.putZone _ _ _ h

theorem Closed.clearZone (c : Closed P) (z : Nat) {s : Shelf} (h : P s) : P (clearZone z s) :=
  c.putZone _ _ _ h

theorem Closed.applyZone (c : Closed P) (z : Nat) (old : Option ZoneEntry) {s : Shelf} (h : P s) :
    P (applyZone z old s) := by
  unfold Machine.applyZone
  split
  · exact c.emit _ (c.editZone _ _ h)
  · exact c.emit _ (c.editZone _ _ h)
  · exact c.editZone _ _ h
  · exact c.editZone _ _ h

theorem Closed.placeZone (c : Closed P) (z : Nat) {s : Shelf} (h : P s) : P (placeZone z s) := by
  unfold Machine.placeZone
  split
  · exact c.zoneEvaluation _ h
  · exact c.putZone _ _ _ h

/-! ### The Program Sequencer -/

/-- A change of the sequencer that makes it wait only in NORMAL, or where it waited. -/
theorem Closed.setSeq (c : Closed P) (f : Sequencer → Sequencer) {s : Shelf}
    (waits : (f s.seq).state = .waiting → s.seq.state = .waiting ∨ s.ride.state = .normal) (h : P s) :
    P (setSeq f s) := c.seq _ waits h

theorem Closed.haltRun (c : Closed P) (cause : HaltCause) (source word : Nat) {s : Shelf} (h : P s) :
    P (haltRun cause source word s) := c.post _ _ _ _ _ (c.setSeq _ nofun h)

theorem Closed.endRun (c : Closed P) (step : Nat) {s : Shelf} (h : P s) : P (endRun step s) :=
  c.post _ _ _ _ _ (c.setSeq _ nofun h)

theorem Closed.completeStep (c : Closed P) (named : Nat) {s : Shelf} (h : P s) :
    P (completeStep named s) := by
  have walks := c.setSeq (fun q => { q with
    state := .running, runCount := s.seq.runCount + 1, stepTimer := .stopped, delayTimer := .stopped }) nofun h
  exact keep_ite (fun _ => c.haltRun _ _ _ walks) fun _ =>
    keep_ite (fun _ => c.emit _ walks) fun _ => c.haltRun _ _ _ walks

/-- A sequencer that would wait is HELD in its place. -/
theorem Closed.holdWaiting (c : Closed P) (q : Sequencer) (waiting : q.state = .waiting) {s : Shelf}
    (h : P s) : P (Machine.holdSequencer { s with seq := q }) := by
  unfold Machine.holdSequencer
  rw [if_pos waiting]
  exact c.seq (s := s) _ nofun h

/-- In a ride state other than NORMAL a step is HELD at once. -/
theorem Closed.waitAt (c : Closed P) (e : StepEntry) {s : Shelf} (h : P s) : P (waitAt e s) :=
  keep_ite (fun normal => c.setSeq _ (fun _ => .inr (decide_eq_true_iff.mp normal)) h)
    fun _ => c.holdWaiting _ rfl h

theorem Closed.enterStep (c : Closed P) (n : Nat) {s : Shelf} (h : P s) : P (enterStep n s) := by
  have entered := c.setSeq (fun q => { q with
    state := .running, pointer := some n, stepsTaken := satInc q.stepsTaken }) nofun h
  have waits : ∀ e : StepEntry, ∀ p [Decidable p], P (if p then
      Machine.completeStep e.next (Machine.setSeq (fun q => { q with
        state := .running, pointer := some n, stepsTaken := satInc q.stepsTaken }) s)
      else Machine.waitAt e (Machine.setSeq (fun q => { q with
        state := .running, pointer := some n, stepsTaken := satInc q.stepsTaken }) s)) :=
    fun _ _ => keep_ite (fun _ => c.completeStep _ entered) fun _ => c.waitAt _ entered
  unfold Machine.enterStep
  split
  · exact h
  · dsimp only
    split
    · exact c.emit _ entered
    · exact c.completeStep _ entered
    · exact c.endRun _ entered
    all_goals exact waits _ _

theorem Closed.startTrays (c : Closed P) (trays : List Nat) {s : Shelf} (h : P s) :
    P (startTrays trays s) := by
  unfold Machine.startTrays
  refine keep_ite (fun _ => h) fun _ => ?_
  split
  · split
    · exact c.completeStep _ h
    · exact h
  · exact c.postponeFirst _ (c.requestAdmission _ _ h)

theorem Closed.testStep (c : Closed P) {s : Shelf} (h : P s) : P (testStep s) := by
  unfold Machine.testStep
  split
  · exact keep_ite (fun _ => c.completeStep _ h) fun _ => h
  · exact h

theorem Closed.resumeSequencer (c : Closed P) {s : Shelf} (h : P s) : P (resumeSequencer s) :=
  keep_ite
    (fun resumes => c.testStep (c.setSeq _ (fun _ => .inr (decide_eq_true_iff.mp resumes.2)) h))
    fun _ => h

theorem Closed.stepExpiry (c : Closed P) {s : Shelf} (h : P s) : P (stepExpiry s) := by
  unfold Machine.stepExpiry
  split
  · exact c.completeStep _ h
  · exact h

theorem Closed.delayExpiry (c : Closed P) {s : Shelf} (h : P s) : P (delayExpiry s) := by
  unfold Machine.delayExpiry
  split
  · exact c.completeStep _ h
  · exact h

theorem Closed.startRun (c : Closed P) (entry : Nat) (origin : Origin) {s : Shelf} (h : P s) :
    P (startRun entry origin s) := by
  have started := c.setSeq (fun q => { q with
    state := .running, entry := some entry, origin := some origin, runCount := 0
    stepsTaken := 0, outcome := none, autostart := none }) nofun h
  exact keep_ite (fun _ => c.emit _ started) fun _ => c.haltRun _ _ _ started

theorem Closed.abortRun (c : Closed P) (cause : HaltCause) {s : Shelf} (h : P s) :
    P (abortRun cause s) := c.emit _ (c.emitAll _ h)

theorem Closed.seqShelfStop (c : Closed P) {s : Shelf} (h : P s) : P (seqShelfStop s) :=
  keep_ite (fun _ => h) fun _ => c.abortRun _ h

theorem Closed.autostartTest (c : Closed P) {s : Shelf} (h : P s) : P (autostartTest s) := by
  unfold Machine.autostartTest
  split
  · exact keep_ite (fun _ => c.startRun _ _ h) fun _ => h
  · exact h

/-! ### The downstream ports -/

theorem Closed.tellOwner (c : Closed P) (e : RosterEntry) (r : Nat) {s : Shelf} (h : P s) :
    P (tellOwner e r s) := by
  obtain same | ⟨-, -, told⟩ | ⟨-, -, told⟩ | ⟨-, -, told⟩ := tellOwner_cases e r s
  · rwa [same]
  · rw [told]
    exact c.psmAbsent _ h
  · rw [told]
    exact c.bbmAbsent _ h
  · rw [told]
    exact c.trayAbsent _ h

theorem Closed.moduleAbsentAs (c : Closed P) (e : RosterEntry) (r : Nat) (missed : Bool) {s : Shelf}
    (h : P s) : P (moduleAbsentAs e r missed s) :=
  keep_ite (fun _ => c.editModule _ _ h) fun _ =>
    c.emit _ (c.tellOwner _ _ (keep_ite (fun _ => c.post _ _ _ _ _ (c.editModule _ _ h))
      fun _ => c.editModule _ _ h))

theorem Closed.moduleAbsent (c : Closed P) (r : Nat) (missed : Bool) {s : Shelf} (h : P s) :
    P (moduleAbsent r missed s) := by
  unfold Machine.moduleAbsent
  split
  · exact c.moduleAbsentAs _ _ _ h
  · exact h

theorem Closed.countMiss (c : Closed P) (r : Nat) {s : Shelf} (h : P s) : P (countMiss r s) :=
  keep_ite (fun _ => c.emit _ (c.editModule _ _ h)) fun _ => c.editModule _ _ h

/-- A full TELEMETRY class loses its oldest copy (R167). -/
theorem Closed.offerTelemetry (c : Closed P) (f : Frame) {s : Shelf} (h : P s) :
    P (offerTelemetry f s) := by
  refine keep_ite (fun room => ?_) fun _ => ?_
  · refine c.links { s with telemetry := s.telemetry ++ [f] } (fun l => ?_) rfl h
    exact ⟨l.1, l.2.1, by simpa using room, l.2.2.2⟩
  · refine c.free { s with telemetryDrops := satInc s.telemetryDrops }
      (c.links (s := s) { s with telemetry := s.telemetry.tail ++ [f] } (fun l => ?_) rfl h)
    refine ⟨l.1, l.2.1, ?_, l.2.2.2⟩
    have before := l.2.2.1
    simp only [List.length_append, List.length_tail, List.length_singleton, Config.telemetryDepth] at before ⊢
    omega

theorem Closed.copyReport (c : Closed P) (r : Nat) (payload : List Byte) {s : Shelf} (h : P s) :
    P (copyReport r payload s) := by
  unfold Machine.copyReport
  split
  · exact keep_ite (fun _ => c.offerTelemetry _ (c.editModule _ _ h)) fun _ => h
  · exact h

theorem Closed.countStray (c : Closed P) (p : Port) {s : Shelf} (h : P s) : P (countStray p s) :=
  c.editEngine p _ (fun _ _ => rfl) h

theorem Closed.pollAnswered (c : Closed P) (r : Nat) (payload : List Byte) {s : Shelf} (h : P s) :
    P (pollAnswered r payload s) := c.copyReport _ _ (c.takeReport _ _ _ (c.editModule _ _ h))

/-- A POLL, an attempt of a control order and a relayed order end each in its own way. -/
theorem Closed.endAnswered (c : Closed P) (p : Port) (tx : Transaction) (f : Frame) {s : Shelf}
    (h : P s) : P (endAnswered p tx f s) := by
  have ended := c.setPoll p { pollEngine s p with inFlight := none } id h
  unfold Machine.endAnswered
  refine keep_ite (fun _ => ended) fun _ => ?_
  cases tx.kind with
  | poll => exact c.pollAnswered _ _ ended
  | control =>
    dsimp only
    split
    · refine c.emitAll _ (c.setPoll p _ (fun bounded => ?_) (c.editModule _ _ ended))
      cases p <;> exact bounded
    · exact c.editModule _ _ ended
  | command => exact c.answerOrder _ _ _ (c.editModule _ _ ended)

theorem Closed.endFailed (c : Closed P) (p : Port) (tx : Transaction) {s : Shelf} (h : P s) :
    P (endFailed p tx s) := by
  have ended := c.setPoll p { pollEngine s p with inFlight := none } id h
  unfold Machine.endFailed
  refine keep_ite (fun _ => ended) fun _ => ?_
  cases tx.kind with
  | poll => exact c.countMiss _ ended
  | control =>
    dsimp only
    split
    · refine keep_ite (fun _ => c.countMiss _ (c.emitAll _ (c.setPoll p _ (fun bounded => ?_) ended)))
        fun _ => c.countMiss _ ended
      cases p <;> exact bounded
    · exact c.countMiss _ ended
  | command => exact c.countMiss _ (c.answerOrder _ _ _ ended)

theorem Closed.judge (c : Closed P) (p : Port) (x : RxEntry) {s : Shelf} (h : P s) : P (judge p x s) := by
  unfold Machine.judge
  split
  · refine keep_ite (fun _ => ?_) fun _ => c.countStray _ h
    split
    · exact c.endFailed _ _ h
    · exact keep_ite (fun _ => c.endFailed _ _ (c.editEngine p _ (fun _ _ => rfl) h)) fun _ =>
        keep_ite (fun _ => c.endAnswered _ _ _ h) fun _ => c.countStray _ h
  · exact c.countStray _ h

/-- A transaction that is no poll counts to at most 3 in a row (R141). -/
theorem Closed.beginTx (c : Closed P) (p : Port) (tx : Transaction) (f : Frame) {s : Shelf}
    (up : p ≠ .up) (h : P s) : P (beginTx p tx f s) := by
  refine c.editEngine p _ (fun hp => absurd hp up) (c.editPoll p _ (fun e bounded => ?_) h)
  obtain ⟨position, pass, -, command, control⟩ := bounded
  refine ⟨position, pass, ?_, command, control⟩
  dsimp only
  split
  · exact Nat.zero_le _
  · exact Nat.min_le_right _ _

/-- The search ends at one of the 32 positions, and its pass number stays below 8 (R142). -/
theorem pollSearch_bounded (s : Shelf) (p : Port) : ∀ (n position pass : Nat), pass < 8 →
    (pollSearch s p n position pass).2 < 8 ∧
      ∀ i r, (pollSearch s p n position pass).1 = some (i, r) → i < 32
  | 0, _, _, hp => ⟨hp, nofun⟩
  | n + 1, position, pass, hp => by
    have next : (position + 1) % 32 < 32 := Nat.mod_lt _ (by decide)
    have wrapped : (if (position + 1) % 32 = 0 then (pass + 1) % 8 else pass) < 8 := by
      split
      · exact Nat.mod_lt _ (by decide)
      · exact hp
    unfold pollSearch
    dsimp only
    generalize (if (position + 1) % 32 = 0 then (pass + 1) % 8 else pass) = after at wrapped ⊢
    have rest := pollSearch_bounded s p n ((position + 1) % 32) after wrapped
    split
    · split
      · refine ⟨wrapped, fun i r found => ?_⟩
        rw [Option.some.injEq, Prod.mk.injEq] at found
        omega
      · exact rest
    · exact rest

theorem Closed.tryPoll (c : Closed P) (p : Port) {s : Shelf} (up : p ≠ .up) (h : P s) :
    P (tryPoll p s).2 := by
  unfold Machine.tryPoll
  split
  · dsimp only
    split
    case h_1 i r pass found =>
      refine c.beginTx _ _ _ up (c.setPoll p _ (fun bounded => ?_) h)
      have within := pollSearch_bounded s p 32 (pollEngine s p).position _ bounded.2.1
      rw [found] at within
      exact ⟨within.2 i r rfl, within.1, bounded.2.2⟩
    case h_2 pass found =>
      refine c.setPoll p _ (fun bounded => ?_) h
      have within := pollSearch_bounded s p 32 (pollEngine s p).position _ bounded.2.1
      rw [found] at within
      exact ⟨bounded.1, within.1, bounded.2.2⟩
  · exact h

theorem Closed.beginAttempt (c : Closed P) (p : Port) (x : Progress) {s : Shelf} (up : p ≠ .up)
    (h : P s) : P (beginAttempt p x s) := c.beginTx _ _ _ up (c.editPoll p _ (fun _ b => b) h)

theorem Closed.beginCommand (c : Closed P) (p : Port) (o : RelayedOrder) {s : Shelf} (up : p ≠ .up)
    (h : P s) : P (beginCommand p o s) := c.beginTx _ _ _ up h

/-- The order that begins leaves its queue. -/
theorem Closed.arbitrateOrders (c : Closed P) (p : Port) {s : Shelf} (up : p ≠ .up) (h : P s) :
    P (arbitrateOrders p s) := by
  unfold Machine.arbitrateOrders
  dsimp only
  split
  case h_1 => exact c.beginAttempt _ _ up h
  case h_2 o rest _ control =>
    refine c.beginAttempt _ _ up (c.setPoll p _ (fun bounded => ?_) h)
    obtain ⟨position, pass, run, command, nodup⟩ := bounded
    rw [control, List.map_cons] at nodup
    exact ⟨position, pass, run, command, nodup.of_cons⟩
  case h_3 o rest _ _ command =>
    refine c.beginCommand _ _ up (c.setPoll p _ (fun bounded => ?_) h)
    obtain ⟨position, pass, run, length, nodup⟩ := bounded
    rw [command, List.length_cons] at length
    exact ⟨position, pass, run, Nat.le_of_succ_le length, nodup⟩
  case h_4 => exact c.tryPoll _ up h

/-- After three transactions that are no polls a poll is tried first, and the orders where none is due. -/
theorem Closed.arbitrate (c : Closed P) (p : Port) {s : Shelf} (h : P s) : P (arbitrate p s) := by
  unfold Machine.arbitrate
  dsimp only
  refine keep_ite (fun free => ?_) fun _ => h
  obtain ⟨up, -⟩ := free
  refine keep_ite (fun _ => ?_) fun _ => c.arbitrateOrders _ up h
  have polled := c.tryPoll p up h
  split
  case h_1 t tried => rwa [tried] at polled
  case h_2 t tried =>
    rw [tried] at polled
    exact c.arbitrateOrders _ up polled

theorem Closed.clearMisses (c : Closed P) (p : Port) {s : Shelf} (h : P s) : P (clearMisses p s) :=
  keep_foldl (fun _ _ h => c.editModule _ _ h) _ h

theorem Closed.enablePort (c : Closed P) (p : Port) {s : Shelf} (up : p ≠ .up) (h : P s) :
    P (enablePort p s) := by
  refine c.clearMisses _ (c.editPoll p _ (fun e bounded => ?_)
    (c.editEngine p _ (fun hp => absurd hp up) h))
  obtain ⟨-, -, -, queues⟩ := bounded
  exact ⟨Nat.lt_succ_self 31, Nat.lt_succ_self 7, Nat.zero_le _, queues⟩

theorem Closed.abandonFlight (c : Closed P) (pe : PollEngine) {s : Shelf} (h : P s) :
    P (abandonFlight pe s) := by
  have told : P (match pe.inProgress with
      | some x => Machine.emitAll (outcomeTasks x.order .portOff) s
      | none => s) := by
    split
    · exact c.emitAll _ h
    · exact h
  unfold Machine.abandonFlight
  dsimp only
  split
  · exact keep_ite (fun _ => c.answerOrder _ _ _ told) fun _ => told
  · exact told

theorem Closed.refuseRelayed (c : Closed P) (os : List RelayedOrder) {s : Shelf} (h : P s) :
    P (refuseRelayed os s) := keep_foldl (fun _ _ h => c.answerOrder _ _ _ h) os h

theorem Closed.absentAll (c : Closed P) (rs : List Nat) {s : Shelf} (h : P s) : P (absentAll rs s) :=
  c.emitAll _ h

theorem Closed.disablePort (c : Closed P) (p : Port) {s : Shelf} (up : p ≠ .up) (h : P s) :
    P (disablePort p s) := by
  refine c.absentAll _ (c.refuseRelayed _ (c.emitAll _ (c.abandonFlight _
    (c.editEngine p _ (fun hp => absurd hp up) (c.setPoll p _ (fun bounded => ?_) h)))))
  obtain ⟨position, pass, run, -, -⟩ := bounded
  exact ⟨position, pass, run, Nat.zero_le _, List.nodup_nil⟩

/-! ### EDIT-APPLY -/

theorem Closed.answerFlight (c : Closed P) (r : Nat) (pe : PollEngine) {s : Shelf} (h : P s) :
    P (answerFlight r pe s) := by
  unfold Machine.answerFlight
  split
  · exact keep_ite (fun _ => c.answerOrder _ _ _ h) fun _ => h
  · exact h

theorem Closed.tellPortOff (c : Closed P) (o : ControlOrder) {s : Shelf} (h : P s) :
    P (tellPortOff s o) := by
  unfold Machine.tellPortOff
  split
  · exact c.trayOutcome _ _ _ h
  · exact c.bbmOutcome _ _ _ _ h
  · exact h

/-- The orders that stay are some of those that waited. -/
theorem Closed.removeOrders (c : Closed P) (p : Port) (r : Nat) {s : Shelf} (h : P s) :
    P (removeOrders p r s) := by
  refine c.refuseRelayed _ (c.answerFlight _ _ (keep_foldl (fun _ _ h => c.tellPortOff _ h) _
    (c.setPoll p _ (fun bounded => ?_) h)))
  obtain ⟨position, pass, run, command, control⟩ := bounded
  exact ⟨position, pass, run, (List.length_filter_le _ _).trans command,
    control.sublist (List.filter_sublist.map _)⟩

theorem Closed.removeOld (c : Closed P) (old : List Record) (r : Nat) {s : Shelf} (h : P s) :
    P (removeOld old r s) := by
  unfold Machine.removeOld
  split
  · exact keep_ite (fun _ => c.staleAll _ (c.moduleAbsentAs _ _ _ (c.removeOrders _ _ h))) fun _ => h
  · exact h

theorem Closed.admitNew (c : Closed P) (old : List Record) (r : Nat) {s : Shelf} (h : P s) :
    P (admitNew old r s) := keep_ite (fun _ => c.editModule _ _ h) fun _ => h

theorem Closed.applyRoster (c : Closed P) (old : List Record) (latched : List Nat) {s : Shelf}
    (h : P s) : P (applyRoster old latched s) :=
  keep_foldl (fun _ _ h => c.admitNew _ _ h) _ (keep_foldl (fun _ _ h => c.removeOld _ _ h) _ h)

theorem Closed.applySignal (c : Closed P) (old : List Record) (n : Nat) {s : Shelf} (h : P s) :
    P (applySignal old n s) := by
  unfold Machine.applySignal
  split
  · exact h
  · exact c.putSignal _ _ _ h
  · exact c.putSignal _ _ _ h
  · exact keep_ite (fun _ => h) fun _ =>
      keep_ite (fun _ => c.putSignal _ _ _ h) fun _ => c.putSignal _ _ _ h

theorem Closed.applySampleMap (c : Closed P) (old : List Record) {s : Shelf} (h : P s) :
    P (applySampleMap old s) := c.handOnSignals _ _ (keep_foldl (fun _ _ h => c.applySignal _ _ h) _ h)

theorem Closed.applyLimits (c : Closed P) (old : List Record) {s : Shelf} (h : P s) :
    P (applyLimits old s) := c.staleAll _ (keep_foldl (fun _ _ h => c.signals _ h) _ h)

theorem Closed.applyLines (c : Closed P) (old : List Record) (latched : List Nat) {s : Shelf}
    (h : P s) : P (applyLines old latched s) :=
  c.setDrives (keep_foldl (fun _ _ h => c.deliverSense _ _ h) _
    (keep_foldl (fun _ _ h => c.withdrawSense _ _ h) _ h))

/-- A held P_i is no figure that others are computed from. -/
theorem Closed.dropOutput (c : Closed P) (i : Nat) {s : Shelf} (h : P s) : P (dropOutput i s) :=
  c.balance _ id h

theorem Closed.dropPsm (c : Closed P) (i : Nat) {s : Shelf} (h : P s) : P (dropPsm i s) :=
  c.editPsm _ _ (keep_ite (fun _ => h) fun _ => c.psmTo _ _ _ _ h)

theorem Closed.applyPsm (c : Closed P) (old : List Record) (i : Nat) {s : Shelf} (h : P s) :
    P (applyPsm old i s) := by
  have unheld := fun (p : Prop) [Decidable p] =>
    keep_ite (p := p) (fun _ => c.dropOutput i h) fun _ => h
  have missed := fun (p q : Prop) [Decidable p] [Decidable q] =>
    keep_ite (p := q) (fun _ => c.editPsm i (fun r => { r with status := none, inputHold := true })
      (unheld p)) fun _ => unheld p
  unfold Machine.applyPsm
  split
  · exact h
  · exact c.dropPsm _ h
  · exact c.checkPsm _ _ (c.dropOutput _ (c.editPsm _ _ h))
  · exact c.checkPsm _ _ (missed _ _)

theorem Closed.applyBbm (c : Closed P) (old : List Record) (k : Nat) {s : Shelf} (h : P s) :
    P (applyBbm old k s) := by
  unfold Machine.applyBbm
  split
  · exact h
  · exact c.bbms _ (c.putBbm _ _ _ h)
  · exact c.putBbm _ _ _ (keep_ite (fun _ => c.markUnread _ h) fun _ => h)
  · exact c.putBbm _ _ _ (c.markUnread _ (c.bbms _ h))

theorem Closed.renewTray (c : Closed P) (t : Nat) {s : Shelf} (h : P s) : P (renewTray t s) :=
  c.afterTray _ _ _ (c.bay _ (bayExact_moveTray t .unknown _) (c.forgetOrders t h))

theorem Closed.moveToRoster (c : Closed P) (t : Nat) {s : Shelf} (h : P s) : P (moveToRoster t s) :=
  c.renewTray _ (keep_ite (fun _ => c.changed _ h) fun _ => h)

theorem Closed.applyKeptTray (c : Closed P) (t : Nat) (a b : TrayEntry) {s : Shelf} (h : P s) :
    P (applyKeptTray t a b s) := by
  have zoned := keep_ite (p := a.zone ≠ b.zone)
    (fun _ => keep_ite (p := b.zone.any (zoneWet s) = true) (fun _ => c.lockTray t h)
      fun _ => c.releaseTray t h) fun _ => h
  exact keep_ite (fun _ => c.postpone _ zoned) fun _ => zoned

theorem Closed.applyTray (c : Closed P) (old : List Record) (t : Nat) {s : Shelf} (h : P s) :
    P (applyTray old t s) := by
  unfold Machine.applyTray
  split
  · exact h
  · exact c.renewTray _ h
  · exact keep_ite (fun _ => c.lockTray _ (c.renewTray _ h)) fun _ => c.renewTray _ h
  · exact keep_ite
      (fun _ => keep_ite (fun _ => c.lockTray _ (c.moveToRoster _ h)) fun _ => c.moveToRoster _ h)
      fun _ => c.applyKeptTray _ _ _ h

theorem Closed.applyTrays (c : Closed P) (old : List Record) (latched : List Nat) {s : Shelf}
    (h : P s) : P (applyTrays old latched s) := by
  have applied := keep_foldl (fun _ t h => c.applyTray old t h) latched h
  exact keep_ite (fun _ => c.admissionDue (c.postpone _ applied)) fun _ => applied

/-- Each table has its own side effects. -/
theorem Closed.applyEffects (c : Closed P) (t : Nat) (old : List Record) (latched : List Nat)
    {s : Shelf} (h : P s) : P (applyEffects t old latched s) := by
  unfold Machine.applyEffects
  repeat' split
  · exact c.admissionDue (c.postpone _ h)
  · exact c.emit _ (c.absentAll _ (c.applyRoster _ _ h))
  · exact c.emit _ (c.absentAll _ h)
  · exact c.emit _ (c.applySampleMap _ h)
  · exact c.applyLimits _ h
  · exact c.emit _ (c.applyLines _ _ h)
  · exact c.postpone _ (c.recomputeCapacity (keep_foldl (fun _ _ h => c.applyPsm _ _ h) _ h))
  · exact c.postpone _ (c.recomputeCapacity (keep_foldl (fun _ _ h => c.applyBbm _ _ h) _ h))
  · exact c.applyTrays _ _ h
  · exact keep_foldl (fun _ _ h => c.applyZone _ _ h) _ h
  · exact h

theorem Closed.addCause (c : Closed P) (x : Cause) {s : Shelf} (h : P s) : P (addCause s x) :=
  keep_ite (fun _ => h) fun _ => c.free { s with causes := s.causes ++ [x] } h

theorem Closed.endApply (c : Closed P) {s : Shelf} (h : P s) : P (endApply s) := by
  unfold Machine.endApply
  split
  · exact h
  · rename_i cs _
    have gathered := keep_foldl (fun _ x h => c.addCause x h) cs (c.free { s with applying := none } h)
    exact keep_ite (fun _ => gathered) fun _ => c.recompute _ gathered

/-! ### Start-up -/

/-- Port entries give SP and TP their settings and may enable them (R187). -/
theorem Closed.startPort (c : Closed P) (p : Port) {s : Shelf} (up : p ≠ .up) (h : P s) :
    P (startPort p s) := by
  have set := c.editEngine p (fun e => { e with settings := portEntry s p }) (fun _ _ => rfl) h
  exact keep_ite (fun _ => c.enablePort _ up set) fun _ => c.absentAll _ set

theorem Closed.startPorts (c : Closed P) {s : Shelf} (h : P s) : P (startPorts s) :=
  c.startPort _ nofun (c.startPort _ nofun h)

theorem Closed.startAutostart (c : Closed P) {s : Shelf} (h : P s) : P (startAutostart s) :=
  c.emit _ (c.setSeq _ .inl h)

theorem Closed.postStarted (c : Closed P) (kind : ResetKind) {s : Shelf} (h : P s) :
    P (postStarted kind s) := keep_ite (fun _ => c.post _ _ _ _ _ h) fun _ => c.defer _ h

/-- The placing of the tables is made of the blocks' operations (R186). -/
theorem Closed.placeTables (c : Closed P) {s : Shelf} (h : P s) : P (placeTables s) :=
  c.absentAll _ (c.recomputeCapacity (c.setDrives
    (keep_foldl (fun _ _ h => c.lockTrayOnly _ h) _
      (keep_foldl (fun _ _ h => c.placeZone _ h) _
        (c.free { s with sampling := true, applying := some [.start] } h)))))

/-- UP is enabled with its receive queue as it was (R186). -/
theorem ClosedEvent.loadTables (c : ClosedEvent P) (st : Store) {s : Shelf} (h : P s) :
    P (loadTables st s) := by
  have loaded := keep_foldl (f := loadInto st) (fun s t h => c.tables (loadInto st s t) h) loadOrder h
  unfold Machine.loadTables
  exact c.editEngine .up _ (fun _ _ => rfl) loaded

theorem ClosedEvent.startUp (c : ClosedEvent P) (kind : ResetKind) (st : Store) {s : Shelf} (h : P s) :
    P (startUp kind st s) := by
  have leveled : ∀ {x : Shelf} (n : Nat), P x → P { x with level := n } :=
    fun {x} n h => c.tables { x with level := n } h
  unfold Machine.startUp
  exact c.emitAll _ (leveled _ (c.placeTables (c.loadTables st h)))

/-! ### The reactions of an event -/

/-- Each reaction is one operation of its block. -/
theorem ClosedEvent.perform (c : ClosedEvent P) (task : Task) {s : Shelf} (h : P s) :
    P (perform task s) := by
  cases task with
  | balance => exact c.performBalance h
  | rideRecord => exact c.rideRecord _ _ _ _ h
  | stackChanged => exact c.stackChanged h
  | chargeZero => exact c.chargeZero h
  | charge => exact c.chargeEvaluation h
  | seqTest => exact c.testStep h
  | seqResume => exact c.resumeSequencer h
  | seqEnter => exact c.enterStep _ h
  | seqStart => exact c.startTrays _ h
  | seqShelfStop => exact c.seqShelfStop h
  | seqHalt => exact c.haltRun _ _ _ h
  | withdraw => exact c.withdrawTray _ h
  | autostartTest => exact c.autostartTest h
  | shed => exact c.shedTray _ h
  | shelfStopTray => exact c.shelfStopTray _ h
  | lockTray => exact c.lockTray _ h
  | releaseTray => exact c.releaseTray _ h
  | placeOff => exact c.placeOff _ h
  | trayOutcome => exact c.trayOutcome _ _ _ h
  | bbmOutcome => exact c.bbmOutcome _ _ _ _ h
  | moduleAbsent => exact c.moduleAbsent _ _ h
  | signalsStale => exact c.staleAll _ h
  | psmBands => exact c.checkPsms _ _ h
  | zones => exact c.zonesChanged h
  | zoneEval => exact c.zoneEvaluation _ h
  | postRideEnter => exact c.postRideEnter _ h
  | postDepleted => exact c.postDepleted _ h
  | applied => exact c.applyEffects _ _ _ h
  | endApply => exact c.endApply h
  | reply => exact c.placeReplies _ h
  | startPorts => exact c.startPorts h
  | startAutostart => exact c.startAutostart h
  | postStarted => exact c.postStarted _ h

theorem ClosedEvent.nextReaction (c : ClosedEvent P) {s t : Shelf} (h : P s)
    (next : nextReaction s = some t) : P t := by
  unfold Machine.nextReaction at next
  split at next
  · cases next
    exact c.perform _ (c.free { s with raised := [], agenda := _ } h)
  · split at next
    · cases next
      exact c.admissionTry h
    · split at next
      · cases next
        exact c.perform _ (c.defer _ h)
      · cases next

theorem ClosedEvent.runReactions (c : ClosedEvent P) :
    ∀ (n : Nat) {s : Shelf}, P s → P (runReactions n s)
  | 0, _, h => h
  | n + 1, s, h => by
    unfold Machine.runReactions
    split
    · exact c.runReactions n (c.nextReaction h ‹_›)
    · exact h

theorem ClosedEvent.react (c : ClosedEvent P) {s : Shelf} (h : P s) : P (react s) := c.runReactions _ h

/-! ### Requests -/

theorem ClosedEvent.respond (c : ClosedEvent P) (code : Byte) (a : Answer) {s : Shelf} (h : P s) :
    P (respond code a s) := c.emit _ h

/-- The edit window is free. -/
theorem ClosedEvent.window (c : ClosedEvent P) (w : Option Window) {s : Shelf} (h : P s) :
    P { s with window := w } := c.tables { s with window := w } h

theorem ClosedEvent.openWindow (c : ClosedEvent P) (table first count : Nat) {s : Shelf} (h : P s) :
    P (openWindow table first count s).2 := by
  unfold Machine.openWindow
  repeat' split
  · exact h
  · exact h
  · exact h
  · exact c.window _ h

theorem ClosedEvent.writeWindow (c : ClosedEvent P) (entry : Nat) (record : Record) {s : Shelf}
    (h : P s) : P (writeWindow entry record s).2 := by
  unfold Machine.writeWindow
  split
  · exact h
  · dsimp only
    repeat' split
    all_goals exact c.window _ h

theorem ClosedEvent.discardWindow (c : ClosedEvent P) {s : Shelf} (h : P s) : P (discardWindow s).2 := by
  unfold Machine.discardWindow
  split
  · exact h
  · exact c.window _ h

theorem ClosedEvent.expireWindow (c : ClosedEvent P) {s : Shelf} (h : P s) : P (expireWindow s) := by
  unfold Machine.expireWindow
  split
  · exact h
  · exact c.post _ _ _ _ _ (c.window _ h)

/-- The working entries are replaced and the window closes before the side effects follow (R176). -/
theorem ClosedEvent.replaceEntries (c : ClosedEvent P) (w : Window) {s : Shelf} (h : P s) :
    P (replaceEntries w s) := by
  refine c.emitAll _ ?_
  exact c.free { s with applying := some (applyCauses w.table) }
    (c.tables { s with tables := vset s.tables w.table (tableAfter s w), window := none } h)

theorem ClosedEvent.applyWindow (c : ClosedEvent P) {s : Shelf} (h : P s) : P (applyWindow s).2 := by
  unfold Machine.applyWindow
  split
  · exact h
  · dsimp only
    split
    · exact c.window _ h
    · split
      · exact c.window _ h
      · split
        · exact c.window _ h
        · exact c.replaceEntries _ h

theorem Closed.readLine (c : Closed P) (line : Nat) {s : Shelf} (h : P s) : P (readLine line s).2 := by
  unfold Machine.readLine
  split
  · exact c.editLine _ _ h
  · split <;> exact h

theorem Closed.readPort (c : Closed P) (port : Nat) {s : Shelf} (h : P s) : P (readPort port s).2 := by
  unfold Machine.readPort
  split
  · exact c.editEngine _ (fun e => { e with overrun := false }) (fun _ _ => rfl) h
  · exact h

theorem Closed.requestClearTray (c : Closed P) (tray : Nat) {s : Shelf} (h : P s) :
    P (requestClearTray tray s).2 := by
  unfold Machine.requestClearTray
  repeat' split
  · exact h
  · exact h
  · exact h
  · exact c.clearTray _ h

theorem Closed.requestRun (c : Closed P) (step : Nat) {s : Shelf} (h : P s) :
    P (requestRun step s).2 := by
  unfold Machine.requestRun
  repeat' split
  · exact h
  · exact h
  · exact h
  · exact h
  · exact h
  · exact c.startRun _ _ h

theorem Closed.requestAbort (c : Closed P) {s : Shelf} (h : P s) : P (requestAbort s).2 := by
  unfold Machine.requestAbort
  split
  · exact h
  · exact c.abortRun _ h

theorem Closed.requestClearZone (c : Closed P) (zone : Nat) (epoch : Byte) {s : Shelf} (h : P s) :
    P (requestClearZone zone epoch s).2 := by
  unfold Machine.requestClearZone
  repeat' split
  · exact h
  · exact h
  · exact h
  · exact h
  · exact h
  · exact c.clearZone _ h

theorem Closed.requestEnable (c : Closed P) (port : Nat) {s : Shelf} (h : P s) :
    P (requestEnable port s).2 := by
  unfold Machine.requestEnable
  split
  · split
    · exact h
    · rename_i off
      exact c.enablePort _ (fun up => off (.inl up)) h
  · exact h

theorem Closed.requestDisable (c : Closed P) (port : Nat) {s : Shelf} (h : P s) :
    P (requestDisable port s).2 := by
  unfold Machine.requestDisable
  split
  · split
    · exact h
    · split
      · exact c.disablePort _ ‹_› h
      · exact h
  · exact h

theorem toShelf_storeErase (scope row : Nat) (s : State) :
    (storeErase scope row s).2.toShelf = s.toShelf := by
  unfold storeErase
  repeat' split
  all_goals rfl

theorem toShelf_storeWrite (row page : Nat) (data : List Byte) (s : State) :
    (storeWrite row page data s).2.toShelf = s.toShelf := by
  unfold storeWrite
  repeat' split
  all_goals rfl

theorem toShelf_storeVerify (row page : Nat) (s : State) :
    (storeVerify row page s).2.toShelf = s.toShelf := by
  unfold storeVerify
  repeat' split
  all_goals rfl

theorem Closed.completeOperation (c : Closed P) (weak : Bool) {s : State} (h : P s.toShelf) :
    P (completeOperation weak s).toShelf := by
  unfold Machine.completeOperation
  split
  · exact h
  · split
    · exact c.post _ _ _ _ _ h
    · exact h

/-- A restart becomes pending in NORMAL alone (R170). -/
theorem ClosedEvent.handleRestart (c : ClosedEvent P) {s : State} (h : P s.toShelf) :
    P (handleRestart s).toShelf := by
  unfold Machine.handleRestart
  dsimp only
  split
  case isTrue done =>
    refine c.placeReply _ (c.pend ?_ h)
    by_contra ride
    simp [restartAnswer, rideNormal, ride, stRide, stDone] at done
  case isFalse => exact c.respond _ _ h

theorem ClosedEvent.answerWith (c : ClosedEvent P) (code : Byte) (a : Shelf → Answer) {s : State}
    (h : P s.toShelf) : P (answerWith code a s).toShelf := c.respond _ _ h

theorem ClosedEvent.actWith (c : ClosedEvent P) (code : Byte) {f : Shelf → Byte × Shelf} {s : State}
    (h : P (f s.toShelf).2) : P (actWith code f s).toShelf := c.respond _ _ h

theorem ClosedEvent.actAndTell (c : ClosedEvent P) (code : Byte) {f : Shelf → Answer × Shelf} {s : State}
    (h : P (f s.toShelf).2) : P (actAndTell code f s).toShelf := c.respond _ _ h

theorem ClosedEvent.storeWith (c : ClosedEvent P) (code : Byte) {f : State → Byte × State} {s : State}
    (same : (f s).2.toShelf = s.toShelf) (h : P s.toShelf) : P (storeWith code f s).toShelf :=
  c.respond _ _ (by rwa [same])

theorem ClosedEvent.storeAnswer (c : ClosedEvent P) (code : Byte) (a : State → Answer) {s : State}
    (h : P s.toShelf) : P (storeAnswer code a s).toShelf := c.respond _ _ h

/-- A choice between two states of the machine. -/
theorem keep_iteState {p : Prop} [Decidable p] {a b : State} (ha : p → P a.toShelf)
    (hb : ¬p → P b.toShelf) : P (if p then a else b).toShelf := by
  rw [apply_ite State.toShelf]
  exact keep_ite ha hb

/-- Every request code has its own operation. -/
theorem ClosedEvent.dispatch (c : ClosedEvent P) (code : Byte) (args : List Byte) {s : State}
    (h : P s.toShelf) : P (dispatch code args s).toShelf := by
  unfold Machine.dispatch
  refine keep_iteState (fun _ => c.answerWith _ _ h) fun _ => ?_
  refine keep_iteState (fun _ => c.actWith _ (c.openWindow _ _ _ h)) fun _ => ?_
  refine keep_iteState (fun _ => c.actWith _ (c.writeWindow _ _ h)) fun _ => ?_
  refine keep_iteState (fun _ => c.actAndTell _ (c.applyWindow h)) fun _ => ?_
  refine keep_iteState (fun _ => c.actWith _ (c.discardWindow h)) fun _ => ?_
  refine keep_iteState (fun _ => c.storeWith _ (toShelf_storeErase _ _ _) h) fun _ => ?_
  refine keep_iteState (fun _ => c.storeWith _ (toShelf_storeWrite _ _ _ _) h) fun _ => ?_
  refine keep_iteState (fun _ => c.storeWith _ (toShelf_storeVerify _ _ _) h) fun _ => ?_
  refine keep_iteState (fun _ => c.storeAnswer _ _ h) fun _ => ?_
  refine keep_iteState (fun _ => c.handleRestart h) fun _ => ?_
  refine keep_iteState (fun _ => c.actAndTell _ (c.readLine _ h)) fun _ => ?_
  refine keep_iteState (fun _ => c.answerWith _ _ h) fun _ => ?_
  refine keep_iteState (fun _ => c.answerWith _ _ h) fun _ => ?_
  refine keep_iteState (fun _ => c.answerWith _ _ h) fun _ => ?_
  refine keep_iteState (fun _ => c.answerWith _ _ h) fun _ => ?_
  refine keep_iteState (fun _ => c.answerWith _ _ h) fun _ => ?_
  refine keep_iteState (fun _ => c.answerWith _ _ h) fun _ => ?_
  refine keep_iteState (fun _ => c.actWith _ (c.requestClearTray _ h)) fun _ => ?_
  refine keep_iteState (fun _ => c.actWith _ (c.requestRun _ h)) fun _ => ?_
  refine keep_iteState (fun _ => c.actWith _ (c.requestAbort h)) fun _ => ?_
  refine keep_iteState (fun _ => c.answerWith _ _ h) fun _ => ?_
  refine keep_iteState (fun _ => c.answerWith _ _ h) fun _ => ?_
  refine keep_iteState (fun _ => c.actWith _ (c.requestClearZone _ _ h)) fun _ => ?_
  refine keep_iteState (fun _ => c.answerWith _ _ h) fun _ => ?_
  refine keep_iteState (fun _ => c.actWith _ (c.requestEnable _ h)) fun _ => ?_
  exact keep_iteState (fun _ => c.actWith _ (c.requestDisable _ h))
    fun _ => c.actAndTell _ (c.readPort _ h)

theorem ClosedEvent.handleRequest (c : ClosedEvent P) (payload : List Byte) {s : State}
    (h : P s.toShelf) : P (handleRequest payload s).toShelf := by
  unfold Machine.handleRequest
  dsimp only
  split
  · exact c.dispatch _ _ h
  · exact c.answerWith _ _ h

/-! ### The Router, and the arbiters -/

/-- An entry is taken in only where the queue has a place (R161). -/
theorem ClosedEvent.offerUp (c : ClosedEvent P) (x : RxEntry) {s : Shelf} (h : P s) :
    P (offerUp x s) := by
  refine keep_ite (fun room => ?_) fun _ => ?_
  · refine c.rx _ (fun _ => ?_) h
    simp only [List.length_append, List.length_singleton]
    omega
  · have counted := c.rx { s.engUp with overruns := satInc s.engUp.overruns, overrun := true } id h
    exact keep_ite (fun _ => counted) fun _ => c.post _ _ _ _ _ counted

theorem ClosedEvent.takeEntry (c : ClosedEvent P) (x : RxEntry) {s : State} (h : P s.toShelf) :
    P (takeEntry x s).toShelf := by
  unfold Machine.takeEntry
  split
  · exact h
  · split
    · exact c.countStray .up h
    · split
      · exact c.decideOrder _ _ _ h
      · exact c.handleRequest _ h

theorem ClosedEvent.arriveUp (c : ClosedEvent P) (x : RxEntry) {s : State} (h : P s.toShelf) :
    P (arriveUp x s).toShelf := by
  unfold Machine.arriveUp
  split
  · exact c.takeEntry _ h
  · exact c.offerUp _ h

theorem ClosedEvent.damageUp (c : ClosedEvent P) {s : State} (h : P s.toShelf) :
    P (damageUp s).toShelf :=
  c.arriveUp _ (c.editEngine .up (fun e => { e with damaged := satInc e.damaged, assembling := none })
    (fun _ _ => rfl) h)

theorem Closed.hunt (c : Closed P) (p : Port) {s : Shelf} (h : P s) : P (hunt p s) :=
  c.editEngine p (fun e => { e with assembling := none }) (fun _ _ => rfl) h

theorem ClosedEvent.receiveUp (c : ClosedEvent P) (f : Frame) {s : State} (h : P s.toShelf) :
    P (receiveUp f s).toShelf := by
  unfold Machine.receiveUp
  split
  · split
    · exact c.arriveUp _ (c.hunt .up h)
    · exact c.damageUp h
  · exact h

theorem ClosedEvent.routeWaiting (c : ClosedEvent P) :
    ∀ (n : Nat) {s : State}, P s.toShelf → P (routeWaiting n s).toShelf
  | 0, _, h => h
  | n + 1, s, h => by
    unfold Machine.routeWaiting
    split
    case h_1 x rest waits =>
      split
      · refine c.routeWaiting n (c.react (c.takeEntry _ (c.rx _ (fun bounded => ?_) h)))
        rw [waits, List.length_cons] at bounded
        exact Nat.le_of_succ_le bounded
      · exact h
    case h_2 => exact h

/-- A class that gives up its oldest frame stays within its depth (R165, R167). -/
theorem linksBounded_chooseUp {f : TxFrame} {s t : Shelf} (chosen : chooseUp s = some (f, t))
    (l : LinksBounded s) : LinksBounded t := by
  obtain ⟨replies, notices, telemetry, run⟩ := l
  have copied : takeTelemetry s = some (f, t) → LinksBounded t := by
    unfold takeTelemetry
    split
    · rename_i waits
      rintro ⟨⟩
      rw [waits, List.length_cons] at telemetry
      exact ⟨replies, notices, Nat.le_of_succ_le telemetry, Nat.zero_le _⟩
    · nofun
  unfold chooseUp at chosen
  split at chosen
  · exact copied chosen
  · split at chosen
    case h_1 r rest waits =>
      cases chosen
      refine ⟨?_, notices, telemetry, Nat.min_le_right _ _⟩
      rw [waits, List.length_cons] at replies
      simp only [takeReply, List.length_append, List.length_take]
      omega
    case h_2 n rest _ waits =>
      cases chosen
      rw [waits, List.length_cons] at notices
      exact ⟨replies, Nat.le_of_succ_le notices, telemetry, Nat.min_le_right _ _⟩
    case h_3 => exact copied chosen

/-- What is chosen for UP leaves everything but the classes. -/
theorem withLinks_chooseUp {f : TxFrame} {s t : Shelf} (chosen : chooseUp s = some (f, t)) :
    t = withLinks s t := by
  have copied : takeTelemetry s = some (f, t) → t = withLinks s t := by
    unfold takeTelemetry
    split
    · rintro ⟨⟩
      rfl
    · nofun
  unfold chooseUp at chosen
  split at chosen
  · exact copied chosen
  · split at chosen
    · cases chosen
      rfl
    · cases chosen
      rfl
    · exact copied chosen

theorem rx_moveToShifter (e : PortEngine) : (moveToShifter e).rx = e.rx := by
  unfold moveToShifter
  split <;> rfl

theorem Closed.arbitrateUp (c : Closed P) {s : Shelf} (h : P s) : P (arbitrateUp s) := by
  unfold Machine.arbitrateUp
  refine keep_ite (fun _ => ?_) fun _ => h
  split
  case h_1 f t chosen =>
    have taken : P t := by
      rw [withLinks_chooseUp chosen]
      exact c.links t (linksBounded_chooseUp chosen) (by rw [chooseUp_engUp chosen]) h
    exact c.setEngine .up _ (fun _ => rx_moveToShifter _) taken
  case h_2 => exact h

theorem ClosedEvent.closing (c : ClosedEvent P) {s : State} (h : P s.toShelf) :
    P (closing s).toShelf :=
  c.arbitrate _ (c.arbitrate _ (c.routeWaiting _ (c.arbitrateUp (c.routeWaiting _ (c.react h)))))

/-! ### Events and commands -/

/-- An event that begins with such a property and acts within it ends with it. -/
theorem ClosedEvent.wholeEvent (c : ClosedEvent P) (e : Ambient) {f : State → State} {s : State}
    (hf : ∀ {x : State}, P x.toShelf → P (f x).toShelf) (h : P s.toShelf) :
    P (wholeEvent e f s).toShelf := c.closing (hf (c.clock (s.shelfTime + e.elapsed) e h))

theorem ClosedEvent.event (c : ClosedEvent P) (e : Ambient) {f : Shelf → Shelf} {s : State}
    (hf : ∀ {x : Shelf}, P x → P (f x)) (h : P s.toShelf) : P (event e f s).toShelf :=
  c.wholeEvent e (f := onShelf f) (fun h => hf h) h

theorem ClosedEvent.request (c : ClosedEvent P) (e : Ambient) (code : Byte) (args : List Byte) {s : State}
    (h : P s.toShelf) : P (request e code args s).toShelf := c.wholeEvent e (c.receiveUp _) h

theorem ClosedEvent.resetPart (c : ClosedEvent P) (kind : ResetKind) {s : State} (h : P s.toShelf) :
    P (resetPart kind s).toShelf := c.startUp kind _ (c.reset kind h)

theorem ClosedEvent.endUp (c : ClosedEvent P) {s : State} (h : P s.toShelf) : P (endUp s).toShelf := by
  unfold Machine.endUp
  split
  · split
    · exact c.resetPart .restart h
    · exact c.editEngine .up (fun e => { e with shifter := none }) (fun _ _ => rfl) h
  · exact h

theorem Closed.startReplyTimer (c : Closed P) (p : Port) {s : Shelf} (h : P s) :
    P (startReplyTimer p s) := by
  unfold Machine.startReplyTimer
  exact c.editPoll p _ (fun _ b => b) h

theorem Closed.endDown (c : Closed P) (p : Port) {s : Shelf} (h : P s) : P (endDown p s) :=
  keep_ite (fun _ => c.startReplyTimer _
    (c.editEngine p (fun e => { e with shifter := none }) (fun _ _ => rfl) h)) fun _ => h

/-- A finished DONE answer marks a restart that is pending already (R170). -/
theorem Closed.shiftUp (c : Closed P) {s : Shelf} (h : P s) : P (shiftUp s) := by
  unfold Machine.shiftUp
  split
  case h_1 f next _ _ =>
    refine c.restart (s := { s with engUp := { s.engUp with shifter := some next, buffer := none } }) _
      (fun pending none => pending ?_) (c.setEngine .up _ (fun _ => rfl) h)
    change s.restart = _ at none
    rw [none]
    exact ite_self _
  case h_2 => exact h

theorem ClosedEvent.damageOn (c : ClosedEvent P) (p : Port) {s : State} (h : P s.toShelf) :
    P (damageOn p s).toShelf := by
  unfold Machine.damageOn
  split
  · exact c.damageUp h
  · exact c.judge p .damage (c.editEngine p
      (fun e => { e with damaged := satInc e.damaged, assembling := none }) (fun _ _ => rfl) h)

theorem ClosedEvent.deliverOn (c : ClosedEvent P) (p : Port) (f : Frame) {s : State} (h : P s.toShelf) :
    P (deliverOn p f s).toShelf := by
  unfold Machine.deliverOn
  split
  · exact c.receiveUp _ h
  · exact c.judge p (.frame f) (c.hunt p h)

theorem Closed.emptyPassExpiry (c : Closed P) (p : Port) {s : Shelf} (h : P s) :
    P (emptyPassExpiry p s) := keep_ite (fun _ => c.editPoll p _ (fun _ b => b) h) fun _ => h

theorem Closed.replyExpiry (c : Closed P) (p : Port) {s : Shelf} (h : P s) : P (replyExpiry p s) := by
  unfold Machine.replyExpiry
  split
  · exact keep_ite (fun _ => c.endFailed _ _ h) fun _ => h
  · exact h

/-- The tick is due in RIDE alone (R68). -/
theorem ride_of_tickDue {s : Shelf} (due : tickDue s = true) : s.ride.state ≠ .normal := by
  intro normal
  simp [tickDue, normal] at due

/-- The qualify time passes in RIDE and DEPLETED alone (R79). -/
theorem ride_of_qualifyDue {s : Shelf} (due : qualifyDue s = true) : s.ride.state ≠ .normal := by
  intro normal
  simp [qualifyDue, normal] at due

/-- Every command keeps such a property, row after row of the table. -/
theorem ClosedEvent.exec_next (cl : ClosedEvent P) (c : Instr) {s : State} (h : P s.toShelf) :
    ∃ t, exec c s = .next t ∧ P t.toShelf := by
  cases c with
  | powerOnReset =>
    exact ⟨_, rfl, cl.wholeEvent (f := Machine.resetPart .powerOn) _ (cl.resetPart .powerOn) h⟩
  | resetLine =>
    exact ⟨_, rfl, cl.wholeEvent (f := Machine.resetPart .line) _ (cl.resetPart .line) h⟩
  | restartPerform =>
    exact ⟨_, rfl, cl.wholeEvent _ (fun h => keep_iteState (fun _ => cl.endUp h) fun _ => h) h⟩
  | frameReceived =>
    refine ⟨_, rfl, cl.wholeEvent _ (fun {x} h => ?_) h⟩
    split
    · exact cl.deliverOn _ _ h
    all_goals exact h
  | frameDamaged | gapLimitExpiry =>
    exact ⟨_, rfl, cl.wholeEvent _ (fun h => keep_iteState (fun _ => cl.damageOn _ h) fun _ => h) h⟩
  | transmitEnd =>
    exact ⟨_, rfl, cl.wholeEvent _ (fun h => keep_iteState (fun _ => cl.endUp h) fun _ => cl.endDown _ h) h⟩
  | storeOperationComplete => exact ⟨_, rfl, cl.wholeEvent _ (cl.completeOperation _) h⟩
  | upStrayFrame | order | requestInvalidCode => exact ⟨_, rfl, cl.wholeEvent _ (cl.receiveUp _) h⟩
  | upDamageMarkTaken => exact ⟨_, rfl, cl.event _ id h⟩
  | editIdleTimerExpiry =>
    exact ⟨_, rfl, cl.event _ (fun h => keep_ite (fun _ => cl.expireWindow h) fun _ => h) h⟩
  | emptyPassTimerExpiry => exact ⟨_, rfl, cl.event _ (cl.emptyPassExpiry _) h⟩
  | replyTimerExpiry => exact ⟨_, rfl, cl.event _ (cl.replyExpiry _) h⟩
  | forwardIntervalExpiry =>
    exact ⟨_, rfl, cl.event _ (fun h => keep_ite (fun _ => cl.editModule _ _ h) fun _ => h) h⟩
  | staleTimeExpiry =>
    exact ⟨_, rfl, cl.event _ (fun h => keep_ite (fun _ => cl.staleAll _ h) fun _ => h) h⟩
  | lineEdge | firstAcceptance => exact ⟨_, rfl, cl.event _ (cl.acceptance _ _ _) h⟩
  | energyTick =>
    exact ⟨_, rfl, cl.event _ (fun h => keep_ite (fun due => cl.energyTick (ride_of_tickDue due) h) fun _ => h) h⟩
  | qualifyTimerExpiry =>
    exact ⟨_, rfl, cl.event _
      (fun h => keep_ite (fun due => cl.enterReturning (ride_of_qualifyDue due) h) fun _ => h) h⟩
  | startTimerExpiry =>
    exact ⟨_, rfl, cl.event _ (fun h => keep_ite (fun _ => cl.faultTray _ _ h) fun _ => h) h⟩
  | confirmTimerExpiry =>
    exact ⟨_, rfl, cl.event _ (fun h => keep_ite (fun _ => cl.confirmExpiry _ h) fun _ => h) h⟩
  | stepTimerExpiry =>
    exact ⟨_, rfl, cl.event _ (fun h => keep_ite (fun _ => cl.stepExpiry h) fun _ => h) h⟩
  | delayTimerExpiry =>
    exact ⟨_, rfl, cl.event _ (fun h => keep_ite (fun _ => cl.delayExpiry h) fun _ => h) h⟩
  | autostart => exact ⟨_, rfl, cl.event _ cl.autostartTest h⟩
  | filterSample => exact ⟨_, rfl, cl.event _ (cl.filterSample _ _) h⟩
  | startCharacterReceived =>
    exact ⟨_, rfl, cl.event _
      (fun h => keep_ite (fun _ => cl.editEngine _ _ (fun _ _ => rfl) h) fun _ => h) h⟩
  | shifterFinishesFrame => exact ⟨_, rfl, cl.event _ cl.shiftUp h⟩
  | _ =>
    exact ⟨_, rfl, cl.request _ _ _ h⟩

theorem ClosedEvent.exec (cl : ClosedEvent P) (c : Instr) {s t : State} (h : P s.toShelf)
    (next : exec c s = .next t) : P t.toShelf := by
  obtain ⟨_, done, kept⟩ := cl.exec_next c h
  cases done.symm.trans next
  exact kept

/-! ### The balance record -/

/-- The record's figures depend on nothing but the record, and the resets give a record of zeros. -/
theorem closedEvent_balanceAgrees : ClosedEvent fun s => BalanceAgrees s.balance where
  free _ h := h
  links _ _ _ h := h
  polls _ _ _ _ h := h
  balance _ agrees h := agrees h
  bay _ _ h := h
  ride _ _ _ _ h := h
  seq _ _ h := h
  restart _ _ h := h
  rideOn _ _ _ _ h := h
  clock _ _ h := h
  tables _ h := h
  rx _ _ h := h
  pend _ h := h
  reset kind _ := by
    have zeros : BalanceAgrees resetBalance := by decide
    cases kind <;> exact zeros

/-- Settles O13: only the seven stages give a record, and their figures agree (`balanceAgrees_balanceNow`); every other
change of the record touches no figure that others are computed from. -/
theorem balanceKept : Obligations.BalanceKept := fun c _ _ agrees next =>
  closedEvent_balanceAgrees.exec c agrees next

end Sys2Proof.Machine
end

section
/-! PROOF. The stages of the balance (O47, O48, O49): the reserve, the committed load and the recomputation, and the
measured load. -/

namespace Sys2Proof.Machine

/-! ### The reserve and the admission capacity (R32, R33) -/

/-- The largest of some figures and a start value is that value or one of the figures. -/
theorem foldl_max_mem : ∀ (g : List Nat) (m : Nat), g.foldl max m = m ∨ g.foldl max m ∈ g
  | [], _ => .inl rfl
  | a :: g, m => by
    rw [List.foldl_cons]
    obtain same | one := foldl_max_mem g (max m a)
    · rw [same]
      obtain h | h := max_choice m a
      · exact .inl h
      · exact .inr (by simp [h])
    · exact .inr (List.mem_cons_of_mem _ one)

/-- The largest of some figures and a start value is at least each of them. -/
theorem le_foldl_max : ∀ (g : List Nat) (m v : Nat), v = m ∨ v ∈ g → v ≤ g.foldl max m
  | [], m, v, h => by simpa using (h.resolve_right List.not_mem_nil).le
  | a :: g, m, v, h => by
    rw [List.foldl_cons]
    have start := le_foldl_max g (max m a) (max m a) (.inl rfl)
    obtain rfl | h := h
    · omega
    · obtain rfl | h := List.mem_cons.mp h
      · omega
      · exact le_foldl_max g _ v (.inr h)

/-- Under N+1 with two capacities above 0 the reserve is the largest of them (R33). -/
theorem reserveOf_largest {g : List Nat} (two : 2 ≤ (g.filter fun v => 0 < v).length) :
    reserveOf true g ∈ g ∧ ∀ v ∈ g, v ≤ reserveOf true g := by
  have kept : reserveOf true g = g.foldl max 0 := if_pos (by simpa using two)
  have upper : ∀ v ∈ g, v ≤ g.foldl max 0 := fun v hv => le_foldl_max g 0 v (.inr hv)
  rw [kept]
  refine ⟨?_, upper⟩
  obtain zero | one := foldl_max_mem g 0
  · obtain ⟨v, hv⟩ := List.exists_mem_of_length_pos (by omega : 0 < (g.filter fun v => 0 < v).length)
    obtain ⟨mem, pos⟩ := List.mem_filter.mp hv
    have := upper v mem
    have : 0 < v := by simpa using pos
    omega
  · exact one

/-- Without N+1, or with fewer than two capacities above 0, nothing is held in reserve (R33). -/
theorem reserveOf_none {redundant : Bool} {g : List Nat}
    (h : redundant = false ∨ (g.filter fun v => 0 < v).length < 2) : reserveOf redundant g = 0 :=
  if_neg (by
    obtain rfl | few := h
    · simp
    · simp only [Bool.and_eq_true, decide_eq_true_eq, not_and]
      omega)

/-- A capacity of the record is that of Stage 3 (R32). -/
theorem vget_g_balanceNow (x : Shelf) (causes : List Cause) {i : Nat} (hi : i < 6) :
    vget (balanceNow x causes).g i = stageCapacity x i := vget_ofFn _ hi

/-- The capacities of the record, one after another, are those of Stage 3. -/
theorem map_g_balanceNow (x : Shelf) (causes : List Cause) :
    ((List.range 6).map fun i => vget (balanceNow x causes).g i) = capacities x none :=
  List.map_congr_left fun _ hi => vget_g_balanceNow x causes (List.mem_range.mp hi)

/-- As many PSMs as there are capacities have one above 0. -/
theorem length_above (x : Shelf) (causes : List Cause) :
    ((List.range 6).filter fun i => 0 < vget (balanceNow x causes).g i).length =
      ((capacities x none).filter fun v => 0 < v).length := by
  rw [← map_g_balanceNow x causes, List.filter_map, List.length_map]
  rfl

/-- The capacity of a PSM by its state and temperature band (R32). -/
theorem stageCapacity_of_entry {x : Shelf} {i : Nat} {e : PsmEntry} (h : psmAt x i = some e) :
    stageCapacity x i = capacityOf (vget x.psms i).state (vget x.signals e.temperature).band e.rated e.derate := by
  simp only [stageCapacity, h]

/-- An entry not in use has no capacity (R32). -/
theorem stageCapacity_of_none {x : Shelf} {i : Nat} (h : psmAt x i = none) : stageCapacity x i = 0 := by
  simp only [stageCapacity, h]

/-- Settles O47, by the record's capacities as a list and the two cases of the reserve. -/
theorem reserveStage : Obligations.ReserveStage := by
  refine ⟨fun x causes i hi => ?_, fun x causes => ?_⟩
  · dsimp only
    rw [vget_g_balanceNow x causes hi]
    refine ⟨stageCapacity_of_none, fun e he => ?_⟩
    rw [stageCapacity_of_entry he]
    refine ⟨fun ok cool => ?_, fun ok warm => ?_, fun out => ?_⟩
    · obtain h | h := cool <;> rw [ok, h] <;> rfl
    · obtain h | h | h := warm <;> rw [ok, h] <;> rfl
    · obtain h | h | h := out <;> rw [h] <;> rfl
  · dsimp only
    have q : (balanceNow x causes).q = reserveOf (policy x).redundant (capacities x none) := rfl
    have sum : (balanceNow x causes).sGrid = (capacities x none).sum := rfl
    have adm : (balanceNow x causes).sAdm = (balanceNow x causes).sGrid - (balanceNow x causes).q := rfl
    have within : (balanceNow x causes).q ≤ (balanceNow x causes).sGrid := reserveOf_le_sum _ _
    rw [length_above x causes]
    refine ⟨by rw [map_g_balanceNow, sum], fun redundant two => ?_, fun _ few => ?_, fun alone => ?_, within,
      by omega⟩
    · rw [q, redundant]
      obtain ⟨mem, upper⟩ := reserveOf_largest two
      rw [← map_g_balanceNow x causes] at mem upper ⊢
      refine ⟨?_, fun i hi => upper _ (List.mem_map.mpr ⟨i, List.mem_range.mpr hi, rfl⟩)⟩
      obtain ⟨i, hi, same⟩ := List.mem_map.mp mem
      exact ⟨i, List.mem_range.mp hi, same.symm⟩
    · exact q.trans (reserveOf_none (.inr few))
    · exact q.trans (reserveOf_none (.inl alone))

/-! ### The committed load, the recomputation and the trial headroom (R34 to R40) -/

/-- The commitment of an in-use tray; one not in use has none (R34). -/
theorem stageCommitment_eq (x : Shelf) (t : Nat) :
    stageCommitment x t = ((trayAt x t).map fun e =>
      commitmentOf (vget x.bay.trays t).state (vget x.bay.trays t).seen e.allocation e.inrush).getD 0 := by
  unfold stageCommitment
  cases trayAt x t <;> rfl

/-- A sum over the items that satisfy a test is one over all items, each other item giving 0. -/
theorem sum_map_filter (p : Nat → Bool) (f : Nat → Nat) (is : List Nat) :
    ((is.filter p).map f).sum = (is.map fun i => if p i then f i else 0).sum := by
  induction is with
  | nil => rfl
  | cons i is ih => cases h : p i <;> simp [h, ih]

/-- Nothing is recomputed where no cause is left, or within the side effects of an apply (R27, R39). -/
theorem performBalance_idle {x : Shelf} (h : x.causes = [] ∨ x.applying ≠ none) : performBalance x = x :=
  if_pos (by simpa [Option.isSome_iff_ne_none] using h)

/-- A change that is left is one recomputation (R27). -/
theorem performBalance_handed {x : Shelf} (left : x.causes ≠ []) (free : x.applying = none) :
    BalanceHanded x.causes x (performBalance x) := by
  have run : performBalance x = recompute x.causes { x with causes := x.causes, applying := none } := by
    rw [← free]
    exact if_neg (by simp [left, free])
  rw [run]
  exact recompute_handed x.causes x.causes x

/-- One more cause, once. -/
theorem causes_addCause (x : Shelf) (c : Cause) :
    (addCause x c).causes = if c ∈ x.causes then x.causes else x.causes ++ [c] := by
  unfold addCause
  split <;> simp_all

/-- An apply whose side effects and own cause give no cause just ends (R39). -/
theorem endApply_none {x : Shelf} (h : x.applying = some []) (empty : x.causes = []) :
    endApply x = { x with applying := none } := by
  simp [endApply, h, empty]

/-- The end of an apply with a cause is one recomputation for all of them (R39, R40). -/
theorem endApply_handed {x : Shelf} {own cs : List Cause} (h : x.applying = some own)
    (all : (own.foldl addCause { x with applying := none }).causes = cs) (any : cs ≠ []) :
    BalanceHanded cs x (endApply x) := by
  have run : endApply x = recompute cs { x with causes := cs, applying := none } := by
    unfold endApply
    rw [h]
    dsimp only
    rw [all, if_neg any]
    have same := foldl_addCause_eq own { x with applying := none }
    rw [all] at same
    rw [same]
  rw [run]
  exact recompute_handed cs cs x

/-- Settles O49, by the recomputation said once (`recompute_handed`) and the reserve over the capacities without
the PSM of the trial. -/
theorem commitmentAndHeadroom : Obligations.CommitmentAndHeadroom := by
  refine ⟨fun st seen a i => ?_, fun x causes => ?_, fun x => ?_, fun x => ?_, fun x j => ?_⟩
  · refine ⟨fun h => by rw [h]; rfl, fun h => ?_, fun h => ?_, fun h => ?_⟩
    · obtain h | h | h | h := h <;> rw [h] <;> rfl
    · obtain h | h | h := h <;> rw [h] <;> cases seen <;> rfl
    · obtain h | h := h <;> rw [h] <;> cases seen <;> rfl
  · refine ⟨?_, ?_, rfl, rfl, rfl, ?_, decide_eq_true_iff, rfl, rfl⟩
    · exact congrArg List.sum (List.map_congr_left fun t _ => stageCommitment_eq x t)
    · exact sum_map_filter _ _ _
    · have h0 : (balanceNow x causes).h0 = (balanceNow x causes).h + (balanceNow x causes).k := rfl
      have h : (balanceNow x causes).h = (balanceNow x causes).sAdm - ((balanceNow x causes).c : Int) := rfl
      have c : (balanceNow x causes).c = trayCommitment x + (balanceNow x causes).k := rfl
      omega
  · exact ⟨performBalance_idle, performBalance_handed⟩
  · refine ⟨fun h => ?_, endApply_none, fun h any => endApply_handed h rfl any, fun c h => ?_⟩
    · simp [perform, endApply, h]
    · refine endApply_handed h (causes_addCause _ c) ?_
      split
      · exact List.ne_nil_of_mem ‹_›
      · simp
  · have caps : ((List.range 6).map fun i => if i = j then 0 else vget (balanceNow x []).g i) =
        capacities x (some j) := by
      refine List.map_congr_left fun i hi => ?_
      rw [vget_g_balanceNow x [] (List.mem_range.mp hi)]
      simp only [Option.some.injEq, eq_comm]
    have same : trialHeadroom x j = ((capacities x (some j)).sum : Int) -
        reserveOf (policy x).redundant (capacities x (some j)) - (balanceNow x []).c := by
      have within := reserveOf_le_sum (policy x).redundant (capacities x (some j))
      have c : (balanceNow x []).c = trayCommitment x + chargeAllocation x := rfl
      rw [c]
      unfold trialHeadroom admissionCapacity
      omega
    dsimp only
    rw [caps]
    refine ⟨⟨_, same, fun redundant two => ?_, reserveOf_none⟩, fun hj zero => ?_⟩
    · rw [redundant]
      exact reserveOf_largest two
    · have without : capacities x (some j) = capacities x none := by
        refine List.map_congr_left fun i hi => ?_
        rw [vget_g_balanceNow x [] hj] at zero
        by_cases at_ : j = i
        · subst at_
          simp [zero]
        · simp [at_]
      unfold trialHeadroom
      rw [without]
      rfl

/-! ### The measured load and the deficit (R29 to R31, R36, R39) -/

/-- A band is known where it is not UNKNOWN. -/
theorem bandKnown_iff {x : Shelf} {n : Nat} : bandKnown x n = true ↔ (vget x.signals n).band ≠ .unknown :=
  decide_eq_true_iff

/-- The output of a PSM that is not ABSENT is V times I while both bands are known, and held and marked where one is
not (R29, R30). -/
theorem stageOutput_present {x : Shelf} {i : Nat} {e : PsmEntry} (he : psmAt x i = some e)
    (present : (vget x.psms i).state ≠ .absent) :
    stageOutput x i =
      if (vget x.signals e.voltage).band ≠ .unknown ∧ (vget x.signals e.current).band ≠ .unknown then
        (wattsOf (vget x.signals e.voltage).value (vget x.signals e.current).value, false)
      else (vget x.balance.p i, true) := by
  simp only [stageOutput, he, if_neg present, Bool.and_eq_true, bandKnown_iff]

/-- A BBM is DISCHARGING where it is in use and its record says so. -/
theorem discharging_of_entry {x : Shelf} {k : Nat} {e : BbmEntry} (he : bbmAt x k = some e) :
    discharging x k = decide ((vget x.bbms k).state = .discharging) := by
  simp [discharging, he]

/-- A discharge signal is still unread where its mark stands and its band is not known (R39). -/
theorem stillUnread_of_entry {x : Shelf} {k : Nat} {e : BbmEntry} (he : bbmAt x k = some e) :
    stillUnread x k = (vget x.balance.bUnread k && !bandKnown x e.discharge) := by
  simp [stillUnread, he]

/-- The discharge of a BBM that is DISCHARGING (R31, R39). -/
theorem stageDischarge_discharging {x : Shelf} {k : Nat} {e : BbmEntry} (he : bbmAt x k = some e)
    (on : (vget x.bbms k).state = .discharging) :
    stageDischarge x k =
      if (vget x.signals e.discharge).band ≠ .unknown then ((vget x.signals e.discharge).value, false)
      else if vget x.balance.bUnread k = true then (0, true)
      else if vget x.balance.bDischarging k = true then (vget x.balance.b k, true)
      else ((vget x.signals e.discharge).value, true) := by
  simp only [stageDischarge, he, on, stillUnread_of_entry he, ← bandKnown_iff]
  cases bandKnown x e.discharge <;> simp

/-- The Policy's threshold has 16 bits (R172). -/
theorem deficitThreshold_lt (x : Shelf) : (policy x).deficitThreshold < 65536 := by
  unfold policy decodePolicy
  split
  · exact field16_lt _ _
  · decide

/-- Leaving a reaction for later leaves the balance record. -/
@[simp] theorem balance_postpone (t : Task) (x : Shelf) : (postpone t x).balance = x.balance := by
  rw [postpone_eq]

/-- A change handed on leaves the balance record as it is until the recomputation. -/
@[simp] theorem balance_changed (cs : List Cause) (x : Shelf) : (changed cs x).balance = x.balance := by
  rw [changed_eq]

/-- A battery's change leaves the balance record. -/
@[simp] theorem balance_putBbm (k : Nat) (reason : BbmReason) (f : Bbm → Bbm) (x : Shelf) :
    (putBbm k reason f x).balance = x.balance := by
  have told : ∀ (old new : BbmState) (y : Shelf), (tellBbmState k old new reason y).balance = y.balance := by
    intro old new y
    rw [tellBbmState, balance_postpone, (rideBattery_eq _ _ _ _).1]
    exact balance_changed _ _
  unfold putBbm
  simp only [apply_ite Shelf.balance, told, balance_postpone, balance_changed, ite_self]

/-- An apply that leaves a BBM's discharge signal leaves the balance record (R39). -/
theorem balance_applyBbm_same {old : List Record} {k : Nat} {x : Shelf} {before e : BbmEntry}
    (he : bbmAt x k = some e) (was : decodeBbm (recordOf old k) = some before)
    (same : before.discharge = e.discharge) : (applyBbm old k x).balance = x.balance := by
  simp [applyBbm, he, was, same]

/-- An apply that names a discharge signal marks it unread (R39; log entry 31). -/
theorem balance_applyBbm_named {old : List Record} {k : Nat} {x : Shelf} {e : BbmEntry} (he : bbmAt x k = some e)
    (named : ∀ before, decodeBbm (recordOf old k) = some before → before.discharge ≠ e.discharge) :
    (applyBbm old k x).balance = { x.balance with bUnread := vset x.balance.bUnread k true } := by
  unfold applyBbm
  cases was : decodeBbm (recordOf old k) with
  | none => simp [he, markUnread]
  | some before => simp [he, named before was, markUnread]

/-- Settles O48, by the record's figures read back from its stages. -/
theorem measuredLoadAndDeficit : Obligations.MeasuredLoadAndDeficit := by
  refine ⟨fun x causes => ?_, deficitThreshold_lt, rfl, fun old k x e _ he =>
    ⟨fun before was => balance_applyBbm_same he was, balance_applyBbm_named he⟩⟩
  have p : ∀ i < 6, vget (balanceNow x causes).p i = (stageOutput x i).1 := fun i hi => vget_ofFn _ hi
  have pHeld : ∀ i < 6, vget (balanceNow x causes).pHeld i = (stageOutput x i).2 := fun i hi => vget_ofFn _ hi
  have b : ∀ k < 6, vget (balanceNow x causes).b k = (stageDischarge x k).1 := fun k hk => vget_ofFn _ hk
  have bHeld : ∀ k < 6, vget (balanceNow x causes).bHeld k = (stageDischarge x k).2 := fun k hk => vget_ofFn _ hk
  have bOn : ∀ k < 6, vget (balanceNow x causes).bDischarging k = discharging x k := fun k hk => vget_ofFn _ hk
  have bUnread : ∀ k < 6, vget (balanceNow x causes).bUnread k = stillUnread x k := fun k hk => vget_ofFn _ hk
  refine ⟨fun i hi => ?_, fun k hk => ?_, ?_, ?_, ?_, Nat.sub_le _ _, decide_eq_true_iff⟩
  · rw [p i hi, pHeld i hi]
    refine ⟨fun out => ?_, fun e he => ⟨fun absent => ?_, fun present => ?_⟩⟩
    · simp [stageOutput, out]
    · simp [stageOutput, he, absent]
    · rw [stageOutput_present he present]
      refine ⟨fun hv hc => ?_, fun unknown => ?_⟩
      · rw [if_pos ⟨hv, hc⟩]
        exact ⟨rfl, rfl⟩
      · rw [if_neg (not_and_or.mpr unknown)]
        exact ⟨rfl, rfl⟩
  · rw [b k hk, bHeld k hk, bOn k hk, bUnread k hk]
    refine ⟨fun out => ?_, fun e he => ⟨fun off => ?_, fun on => ?_, ?_⟩⟩
    · simp [stageDischarge, discharging, out]
    · simp [stageDischarge, discharging, he, off]
    · rw [stageDischarge_discharging he on, discharging_of_entry he, on]
      refine ⟨rfl, fun known => ?_, fun unknown => ?_⟩
      · rw [if_pos known]
        exact ⟨rfl, rfl⟩
      · rw [if_neg unknown]
        split_ifs <;> exact ⟨rfl, rfl⟩
    · rw [stillUnread_of_entry he, Bool.and_eq_true, Bool.not_eq_true', ← Bool.not_eq_true, bandKnown_iff]
  · rw [List.map_congr_left fun i hi => p i (List.mem_range.mp hi),
      List.map_congr_left fun k hk => b k (List.mem_range.mp hk)]
    rfl
  · have held : (balanceNow x causes).held = true ↔
        (∃ i < 6, (stageOutput x i).2 = true) ∨ ∃ k < 6, (stageDischarge x k).2 = true := by
      change ((List.range 6).any _ || (List.range 6).any _) = true ↔ _
      simp only [Bool.or_eq_true, List.any_eq_true, List.mem_range]
    constructor
    · intro h
      obtain ⟨i, hi, marked⟩ | ⟨k, hk, marked⟩ := held.mp h
      · exact ⟨i, hi, .inl ((pHeld i hi).trans marked)⟩
      · exact ⟨k, hk, .inr ((bHeld k hk).trans marked)⟩
    · rintro ⟨i, hi, marked | marked⟩
      · exact held.mpr (.inl ⟨i, hi, (pHeld i hi).symm.trans marked⟩)
      · exact held.mpr (.inr ⟨i, hi, (bHeld i hi).symm.trans marked⟩)
  · have d : (balanceNow x causes).d = (balanceNow x causes).m - (balanceNow x causes).sGrid := rfl
    rw [d]
    omega

end Sys2Proof.Machine
end

section
/-! PROOF. The states of the power supply modules (O50). -/

namespace Sys2Proof.Machine

/-! ### The tests of R45 -/

/-- The input is present where neither the line nor the hold says otherwise and a status word has said so (R45). -/
theorem inputPresent_iff {r : Psm} :
    inputPresent r = true ↔
      r.lineActive = false ∧ r.inputHold = false ∧ ∃ c, r.status = some c ∧ c.inputOk = true := by
  simp [inputPresent, Option.any_eq_true, and_assoc]

/-- The fault test (R45). -/
theorem anyFault_iff {r : Psm} : (r.status.any (·.fault)) = true ↔ ∃ c, r.status = some c ∧ c.fault = true :=
  Option.any_eq_true _ _

/-- The output test: it applies with the input present alone (R45). -/
theorem outputFails_iff {r : Psm} :
    (inputPresent r && r.status.any fun c => !c.outputOk) = true ↔
      inputPresent r = true ∧ ∃ c, r.status = some c ∧ c.outputOk = false := by
  simp [Option.any_eq_true]

/-- The voltage test: CRIT-HIGH, or CRIT-LOW with the input present (R45). -/
theorem voltageFails_iff {r : Psm} {voltage : Band} :
    (voltage = .critHigh || (inputPresent r && voltage = .critLow)) = true ↔
      voltage = .critHigh ∨ (inputPresent r = true ∧ voltage = .critLow) := by
  simp

/-- The first FAILED test that holds gives the reason (R45, R48). -/
theorem failedReason_eq (r : Psm) (temperature voltage : Band) :
    failedReason r temperature voltage =
      if ∃ c, r.status = some c ∧ c.fault = true then some .fault
      else if inputPresent r = true ∧ ∃ c, r.status = some c ∧ c.outputOk = false then some .output
      else if temperature = .critHigh then some .temperature
      else if voltage = .critHigh ∨ (inputPresent r = true ∧ voltage = .critLow) then some .voltage
      else none := by
  unfold failedReason
  simp only [anyFault_iff, outputFails_iff, voltageFails_iff]

/-- No FAILED test holds where none of R45's tests does. -/
theorem failedReason_eq_none {r : Psm} {temperature voltage : Band} :
    failedReason r temperature voltage = none ↔
      ¬((∃ c, r.status = some c ∧ c.fault = true) ∨ temperature = .critHigh ∨ voltage = .critHigh ∨
        (inputPresent r = true ∧ ∃ c, r.status = some c ∧ c.outputOk = false) ∨
        (inputPresent r = true ∧ voltage = .critLow)) := by
  rw [failedReason_eq]
  split_ifs with fault output hot volts
  · simp [fault]
  · simp [output]
  · simp [hot]
  · obtain h | h := volts <;> simp [h]
  · refine iff_of_true rfl ?_
    rintro (h | h | h | h | h)
    exacts [fault h, hot h, volts (.inl h), output h, volts (.inr h)]

/-- The reason of a FAILED test is that of the first that holds (R48). -/
theorem failedReason_eq_some {r : Psm} {temperature voltage : Band} {x : PsmReason}
    (h : failedReason r temperature voltage = some x) :
    let fault := ∃ c, r.status = some c ∧ c.fault = true
    let output := inputPresent r = true ∧ ∃ c, r.status = some c ∧ c.outputOk = false
    (fault → x = .fault) ∧ (¬fault → output → x = .output) ∧
      (¬fault → ¬output → temperature = .critHigh → x = .temperature) ∧
      (¬fault → ¬output → temperature ≠ .critHigh → x = .voltage) := by
  rw [failedReason_eq] at h
  refine ⟨fun a => ?_, fun a b => ?_, fun a b c => ?_, fun a b c => ?_⟩
  · simpa [a] using h.symm
  · rw [if_neg a, if_pos b] at h
    simpa using h.symm
  · rw [if_neg a, if_neg b, if_pos c] at h
    simpa using h.symm
  · rw [if_neg a, if_neg b, if_neg c] at h
    split at h <;> simp_all

/-- A PSM whose module is ABSENT is ABSENT (R45). -/
theorem evaluatePsm_absent (r : Psm) (temperature voltage : Band) (trigger : PsmTrigger) :
    evaluatePsm .absent r temperature voltage trigger =
      (.absent, if trigger = .apply then .apply else .presence) := rfl

/-- A FAILED test that holds makes a PSM whose module answers FAILED (R45). -/
theorem evaluatePsm_failed {presence : Presence} (there : presence ≠ .absent) {r : Psm} {temperature voltage : Band}
    {x : PsmReason} (h : failedReason r temperature voltage = some x) (trigger : PsmTrigger) :
    evaluatePsm presence r temperature voltage trigger = (.failed, if trigger = .apply then .apply else x) := by
  simp only [evaluatePsm, if_neg there, h]

/-- Where no FAILED test holds, the input decides (R45). -/
theorem evaluatePsm_good {presence : Presence} (there : presence ≠ .absent) {r : Psm} {temperature voltage : Band}
    (h : failedReason r temperature voltage = none) (trigger : PsmTrigger) :
    evaluatePsm presence r temperature voltage trigger =
      if inputPresent r = true then (.ok, triggerReason trigger true)
      else (.inputLost, triggerReason trigger false) := by
  simp only [evaluatePsm, if_neg there, h]

/-! ### A change of state (R48) -/

/-- One cause handed on to the Balance Unit. -/
theorem changed_one (c : Cause) (x : Shelf) :
    changed [c] x = { x with
      causes := if c ∈ x.causes then x.causes else x.causes ++ [c], raised := x.raised ++ [.balance] } := by
  by_cases h : c ∈ x.causes <;> simp [changed, addCause, emit, h]

/-- A PSM's change: the record, the notice and the hand-on. -/
theorem psmTo_shelf (i : Nat) (new : PsmState) (reason : PsmReason) (cause : Cause) (x : Shelf) :
    psmTo i new reason cause x = { x with
      psms := vset x.psms i { vget x.psms i with state := new, reason := reason, stateTime := x.shelfTime }
      notices := offerNotice
        { time := x.shelfTime, source := 3, index := i, code := 2, more := false
          word1 := twoItems (psmStateNumber (vget x.psms i).state) (psmStateNumber new)
          word2 := psmReasonNumber reason } x.notices
      causes := if cause ∈ x.causes then x.causes else x.causes ++ [cause]
      raised := x.raised ++ [.balance] } :=
  changed_one cause _

/-- An evaluation that gives the state a PSM has changes nothing; one that gives another is its change (R48). -/
theorem checkPsm_of_entry {x : Shelf} {i : Nat} {e : PsmEntry} (he : psmAt x i = some e) (trigger : PsmTrigger) :
    let judged := evaluatePsm (ownedPresence x e.roster .psm i) (vget x.psms i)
      (vget x.signals e.temperature).band (vget x.signals e.voltage).band trigger
    checkPsm i trigger x = if judged.1 = (vget x.psms i).state then x
      else psmTo i judged.1 judged.2 (if trigger = .line then .psmLine else .psmState) x := by
  simp only [checkPsm, he]

/-- A PSM taken out of use (R60). -/
theorem dropPsm_eq (i : Nat) (x : Shelf) :
    dropPsm i x = { (if (vget x.psms i).state = .absent then x else psmTo i .absent .apply .psmState x) with
      psms := vset x.psms i resetPsm } := by
  unfold dropPsm
  split
  · rfl
  · rw [psmTo_shelf]
    simp only [editPsm, vmod, vset_vset]

/-- Settles O50, by the first FAILED test as a chain of choices and a PSM's change said once. -/
theorem suppliesJudged : Obligations.SuppliesJudged := by
  refine ⟨fun x r i kind => ?_, fun presence r temperature voltage trigger => ?_, fun i trigger x entry _ he => ?_,
    fun i x _ inUse => ?_, fun i x _ => ?_, fun old i x _ => ?_⟩
  · refine ⟨rosterIs_iff, fun mine => if_pos (rosterIs_iff.mpr mine), fun other => if_neg ?_⟩
    exact fun mine => other (rosterIs_iff.mp mine)
  · by_cases absent : presence = .absent
    · subst absent
      rw [evaluatePsm_absent]
      simp +contextual
    · dsimp only
      simp only [← inputPresent_iff]
      cases hf : failedReason r temperature voltage with
      | some x =>
        have holds := not_imp_comm.mp failedReason_eq_none.mpr (hf ▸ Option.some_ne_none x)
        rw [evaluatePsm_failed absent hf]
        refine ⟨fun h => absurd h absent, fun _ _ => rfl, fun _ good => absurd holds good,
          fun _ good => absurd holds good, fun h => if_pos h, fun h => ⟨nofun, fun _ => ?_, nofun, nofun⟩⟩
        rw [if_neg h]
        exact failedReason_eq_some hf
      | none =>
        have good := failedReason_eq_none.mp hf
        rw [evaluatePsm_good absent hf]
        by_cases present : inputPresent r = true
        · rw [if_pos present]
          refine ⟨fun h => absurd h absent, fun _ bad => absurd bad good, fun _ _ out => absurd present out,
            fun _ _ _ => rfl, fun h => by rw [h]; rfl, fun _ => ⟨nofun, nofun, nofun, fun _ => ⟨?_, ?_⟩⟩⟩
          · exact fun h => by rw [h]; rfl
          · exact fun h => by rw [h]; rfl
        · rw [if_neg present]
          refine ⟨fun h => absurd h absent, fun _ bad => absurd bad good, fun _ _ _ => rfl,
            fun _ _ there => absurd there present, fun h => by rw [h]; rfl,
            fun h => ⟨nofun, nofun, fun _ => ?_, nofun⟩⟩
          cases trigger with
          | apply => exact absurd rfl h
          | report | band | line | presence => rfl
  · rw [checkPsm_of_entry he, psmTo_shelf]
    exact ⟨fun same => if_pos same, fun other => if_neg other⟩
  · have listed : ¬(psmAt x i).isNone = true := by simp [Option.isSome_iff_ne_none.mp inUse]
    unfold psmLine
    simp only [if_neg listed]
    refine ⟨fun kept => ?_, fun judged => ?_, ?_⟩
    · have stays : keptByLine (vget x.psms i).state = true := by
        obtain h | h := kept <;> rw [h] <;> rfl
      simp [stays, editPsm, vmod]
    · have moves : keptByLine (vget x.psms i).state = false := by
        obtain h | h := judged <;> rw [h] <;> rfl
      simp [moves, editPsm, vmod]
    · simp [editPsm, vmod]
  · unfold psmAbsent
    refine ⟨fun out => by simp [out], fun inUse => ?_⟩
    rw [if_neg (by simp [Option.isSome_iff_ne_none.mp inUse])]
    rfl
  · refine ⟨fun out => ⟨fun none => ?_, fun was absent => ?_, fun was other => ?_⟩,
      fun e he => ⟨fun new => ?_, fun a was => ⟨fun moved => ?_, fun h1 h2 h3 => ?_⟩⟩⟩
    · simp [applyPsm, out, none]
    · obtain ⟨a, ha⟩ := Option.isSome_iff_exists.mp was
      simp only [applyPsm, out, ha, dropPsm_eq, if_pos absent]
    · obtain ⟨a, ha⟩ := Option.isSome_iff_exists.mp was
      simp only [applyPsm, out, ha, dropPsm_eq, if_neg other, psmTo_shelf]
      rfl
    · simp only [applyPsm, new, he]
      rfl
    · simp only [applyPsm, was, he, if_pos moved]
      split <;> rfl
    · simp only [applyPsm, was, he, h1, h2, h3, ne_eq, not_true_eq_false, or_self, if_false]
      rfl

end Sys2Proof.Machine
end

section
/-! PROOF. The layout of READ-BALANCE and the numbers of listed values (O19). -/

namespace Sys2Proof.Machine

/-! ### Fields within a string of blocks -/

/-- A field after some bytes is read from what follows them. -/
theorem field_drop (r : List Byte) (k : Nat) :
    (∀ j, field8 (r.drop k) j = field8 r (k + j)) ∧ (∀ j, field16 (r.drop k) j = field16 r (k + j)) ∧
      ∀ j, field32 (r.drop k) j = field32 r (k + j) := by
  have one : ∀ j, field8 (r.drop k) j = field8 r (k + j) := fun j => by simp [field8]
  have two : ∀ j, field16 (r.drop k) j = field16 r (k + j) := fun j => by
    simp only [field16, one, Nat.add_assoc]
  exact ⟨one, two, fun j => by simp only [field32, two, Nat.add_assoc]⟩

/-- A two-byte field holds the number laid out there, as far as it fits. -/
theorem field16_be16_append (n : Nat) (r : List Byte) : field16 (be16 n ++ r) 0 = n % 65536 := by
  simp only [be16, laid_out, field16, field8_cons_succ, field8_cons_zero, BitVec.toNat_ofNat, Nat.zero_add]
  omega

/-- A four-byte field holds the number laid out there, as far as it fits. -/
theorem field32_be32_append (n : Nat) (r : List Byte) : field32 (be32 n ++ r) 0 = n % 2 ^ 32 := by
  have high : field16 (be32 n ++ r) 0 = n / 65536 % 65536 := field16_be16_append (n / 65536) (be16 n ++ r)
  have low : field16 (be32 n ++ r) 2 = n % 65536 := field16_be16_append n r
  rw [field32, high, low]
  omega

/-- A flag is laid out as 1 or 0. -/
theorem field8_beFlag_append (b : Bool) (r : List Byte) : field8 (beFlag b ++ r) 0 = if b = true then 1 else 0 := by
  cases b <;> rfl

/-- The flag after a two-byte field. -/
theorem field8_be16_flag (n : Nat) (b : Bool) (r : List Byte) :
    field8 (be16 n ++ beFlag b ++ r) 2 = if b = true then 1 else 0 := by
  cases b <;> rfl

/-- A string of blocks of one width is as long as their widths together. -/
theorem length_blocks {f : Nat → List Byte} {w : Nat} (width : ∀ i, (f i).length = w) (n : Nat) :
    ((List.range n).flatMap f).length = w * n := by
  simp [List.length_flatMap, width, Nat.mul_comm]

/-- In a string of blocks of one width, the block of an index stands at as many widths as the index says. -/
theorem drop_blocks {f : Nat → List Byte} {w : Nat} (width : ∀ i, (f i).length = w) {i n : Nat} (hi : i < n)
    (head rest : List Byte) :
    ∃ more, (head ++ ((List.range n).flatMap f ++ rest)).drop (head.length + w * i) = f i ++ more := by
  obtain ⟨m, rfl⟩ := Nat.exists_eq_add_of_lt hi
  refine ⟨((List.range m).flatMap fun j => f (i + 1 + j)) ++ rest, ?_⟩
  have split : (List.range (i + m + 1)).flatMap f =
      (List.range i).flatMap f ++ (f i ++ (List.range m).flatMap fun j => f (i + 1 + j)) := by
    rw [show i + m + 1 = i + 1 + m by omega, List.range_add, List.range_succ]
    simp [List.flatMap_append, List.flatMap_map]
  have whole : head ++ ((List.range (i + m + 1)).flatMap f ++ rest) =
      (head ++ (List.range i).flatMap f) ++ (f i ++ ((List.range m).flatMap (fun j => f (i + 1 + j)) ++ rest)) := by
    rw [split]
    simp only [List.append_assoc]
  rw [whole]
  exact List.drop_left' (by rw [List.length_append, length_blocks width])

/-- A two-byte figure where it stands. -/
theorem field16_of_drop {r more : List Byte} {k n : Nat} (h : r.drop k = be16 n ++ more) :
    field16 r k = n % 65536 := by
  rw [← Nat.add_zero k, ← (field_drop r k).2.1, h, field16_be16_append]

/-- A four-byte figure where it stands. -/
theorem field32_of_drop {r more : List Byte} {k n : Nat} (h : r.drop k = be32 n ++ more) :
    field32 r k = n % 2 ^ 32 := by
  rw [← Nat.add_zero k, ← (field_drop r k).2.2, h, field32_be32_append]

/-- A four-byte figure that a word holds whole. -/
theorem field32_of_drop_word {r more : List Byte} {k : Nat} {v : BitVec 32} (h : r.drop k = be32 v.toNat ++ more) :
    field32 r k = v.toNat := (field32_of_drop h).trans (Nat.mod_eq_of_lt v.isLt)

/-- A mark where it stands. -/
theorem flag_of_drop {r more : List Byte} {k : Nat} {b : Bool} (h : r.drop k = beFlag b ++ more) :
    field8 r k = if b = true then 1 else 0 := by
  rw [← Nat.add_zero k, ← (field_drop r k).1, h, field8_beFlag_append]

/-- The mark after a two-byte figure where it stands. -/
theorem field8_of_drop {r more : List Byte} {k n : Nat} {held : Bool} (h : r.drop k = be16 n ++ beFlag held ++ more) :
    field8 r (k + 2) = if held = true then 1 else 0 := by
  rw [← (field_drop r k).1, h, field8_be16_flag]

/-- The watts of a PSM and their mark, at 0 for an entry not in use (R41). -/
def outputBlock (s : Shelf) (i : Nat) : List Byte :=
  be16 (if (psmAt s i).isSome then vget s.balance.p i else 0) ++ beFlag ((psmAt s i).isSome && vget s.balance.pHeld i)

/-- The watts of a BBM and their mark, at 0 for an entry not in use (R41). -/
def dischargeBlock (s : Shelf) (k : Nat) : List Byte :=
  be16 (if (bbmAt s k).isSome then vget s.balance.b k else 0) ++ beFlag ((bbmAt s k).isSome && vget s.balance.bHeld k)

/-- The capacity of a PSM, at 0 for an entry not in use (R41). -/
def capacityBlock (s : Shelf) (i : Nat) : List Byte :=
  be16 (if (psmAt s i).isSome then vget s.balance.g i else 0)

/-- The figures of the record for the shelf as a whole, with its causes, its time and its number (R41). -/
def shelfFigures (b : Balance) : List Byte :=
  be32 b.m ++ (be32 b.sGrid ++ (be16 b.q ++ (be32 b.sAdm ++ (be32 b.k ++ (be32 b.c ++ (beInt32 b.h0 ++ (beInt32 b.h ++
    (be32 b.d ++ (beFlag b.held ++ (beFlag b.overcommit ++ (beFlag b.deficit ++
      (be16 (bitSet (b.causes.map causeNumber)) ++ (beTime b.time ++ be16 b.count)))))))))))))

/-- READ-BALANCE's answer is a block per PSM, a block per BBM, a capacity per PSM and the shelf's figures. -/
theorem balanceData_eq (s : Shelf) :
    balanceData s = (List.range 6).flatMap (outputBlock s) ++ ((List.range 6).flatMap (dischargeBlock s) ++
      ((List.range 6).flatMap (capacityBlock s) ++ shelfFigures s.balance)) := by
  have marked : ∀ (used : Bool) (n : Nat) (held : Bool), be16 (if used then n else 0) ++ beFlag (used && held) =
      if used then be16 n ++ beFlag held else [0, 0, 0]
    | false, n, held => by simp only [Bool.false_and, Bool.false_eq_true, if_false]; rfl
    | true, _, _ => rfl
  have plain : ∀ (used : Bool) (n : Nat), be16 (if used then n else 0) = if used then be16 n else [0, 0]
    | false, n => by simp only [Bool.false_eq_true, if_false]; rfl
    | true, _ => rfl
  have output : outputBlock s = fun i =>
      if (psmAt s i).isSome then be16 (vget s.balance.p i) ++ beFlag (vget s.balance.pHeld i) else [0, 0, 0] :=
    funext fun _ => marked _ _ _
  have discharge : dischargeBlock s = fun k =>
      if (bbmAt s k).isSome then be16 (vget s.balance.b k) ++ beFlag (vget s.balance.bHeld k) else [0, 0, 0] :=
    funext fun _ => marked _ _ _
  have capacity : capacityBlock s = fun i => if (psmAt s i).isSome then be16 (vget s.balance.g i) else [0, 0] :=
    funext fun _ => plain _ _
  rw [output, discharge, capacity]
  unfold balanceData shelfFigures
  dsimp only
  simp only [List.flatMap, ← List.append_assoc]
  rfl

/-- The shelf's figures at their places (R41; log entry 24). -/
theorem shelfFigures_fields (b : Balance) :
    let d := shelfFigures b
    d.length = 45 ∧ field32 d 0 = b.m % 2 ^ 32 ∧ field32 d 4 = b.sGrid % 2 ^ 32 ∧
      field16 d 8 = b.q % 2 ^ 16 ∧ field32 d 10 = b.sAdm % 2 ^ 32 ∧
      field32 d 14 = b.k % 2 ^ 32 ∧ field32 d 18 = b.c % 2 ^ 32 ∧
      field32 d 22 = (BitVec.ofInt 32 b.h0).toNat ∧ field32 d 26 = (BitVec.ofInt 32 b.h).toNat ∧
      field32 d 30 = b.d % 2 ^ 32 ∧
      field8 d 34 = (if b.held then 1 else 0) ∧ field8 d 35 = (if b.overcommit then 1 else 0) ∧
      field8 d 36 = (if b.deficit then 1 else 0) ∧
      field16 d 37 = bitSet (b.causes.map causeNumber) % 2 ^ 16 ∧ field32 d 39 = b.time.toNat ∧
      field16 d 43 = b.count % 2 ^ 16 :=
  ⟨rfl, field32_of_drop rfl, field32_of_drop rfl, field16_of_drop rfl, field32_of_drop rfl, field32_of_drop rfl,
    field32_of_drop rfl, field32_of_drop_word rfl, field32_of_drop_word rfl, field32_of_drop rfl, flag_of_drop rfl,
    flag_of_drop rfl, flag_of_drop rfl, field16_of_drop rfl, field32_of_drop_word rfl,
    field16_of_drop (more := []) rfl⟩

/-- The kinds of input change in the order of their list (R28). -/
def causeList : List Cause :=
  [.psmState, .psmLine, .psmTemperature, .psmReading, .bbmState, .bbmReading, .tray, .charge, .apply, .start]

/-- A kind of change is numbered by its place in the list (R28, R164). -/
theorem causeNumber_eq (c : Cause) : causeNumber c = causeList.idxOf c := by cases c <;> rfl

theorem mem_causeList (c : Cause) : c ∈ causeList := by cases c <;> decide

theorem causeNumber_injective : Function.Injective causeNumber := fun a b h =>
  (List.idxOf_inj (mem_causeList a)).mp ((causeNumber_eq a).symm.trans (h.trans (causeNumber_eq b)))

theorem causeNumber_lt (c : Cause) : causeNumber c < 10 :=
  causeNumber_eq c ▸ List.idxOf_lt_length_of_mem (mem_causeList c)

/-- Settles O19, by the answer as blocks of one width and the shelf's figures after them. -/
theorem balanceAnswerLayout : Obligations.BalanceAnswerLayout := by
  refine ⟨causeNumber_eq, fun x => by cases x <;> rfl, ?_, ?_,
    fun x => by cases x <;> rfl, fun x => by cases x <;> rfl, fun x => by cases x <;> rfl,
    fun x => by cases x <;> rfl, fun x => by cases x <;> rfl, fun x => by cases x <;> rfl,
    fun x => by cases x <;> rfl, fun x => by cases x <;> rfl, fun x => by cases x <;> rfl,
    fun x => by cases x <;> rfl, fun x => by cases x <;> rfl, fun x => by cases x <;> rfl,
    fun x => by cases x <;> rfl, fun x => by cases x <;> rfl, fun x => by cases x <;> rfl,
    fun x => by cases x <;> rfl, fun x => by cases x <;> rfl, fun x => by cases x <;> rfl,
    fun x => by cases x <;> rfl, fun x => by cases x <;> rfl, fun x => by cases x <;> rfl,
    fun x => by cases x <;> rfl, fun x => by cases x <;> rfl, fun s => ?_⟩
  · rintro (_ | _ | _) <;> rfl
  · rintro (_ | _ | _) <;> rfl
  obtain ⟨len, m, sGrid, q, sAdm, k, c, h0, h, d, held, overcommit, deficit, causes, time, count⟩ :=
    shelfFigures_fields s.balance
  have outputs : ∀ i, (outputBlock s i).length = 3 := fun _ => rfl
  have discharges : ∀ i, (dischargeBlock s i).length = 3 := fun _ => rfl
  have capacities : ∀ i, (capacityBlock s i).length = 2 := fun _ => rfl
  have psm : ∀ i < 6, ∃ more, (balanceData s).drop (3 * i) = outputBlock s i ++ more := fun i hi => by
    rw [balanceData_eq]
    simpa using drop_blocks outputs hi [] _
  have bbm : ∀ k < 6, ∃ more, (balanceData s).drop (18 + 3 * k) = dischargeBlock s k ++ more := fun k hk => by
    have before : ((List.range 6).flatMap (outputBlock s)).length = 18 := length_blocks outputs 6
    rw [balanceData_eq, ← before]
    exact drop_blocks discharges hk _ _
  have cap : ∀ i < 6, ∃ more, (balanceData s).drop (36 + 2 * i) = capacityBlock s i ++ more := fun i hi => by
    have before : ((List.range 6).flatMap (outputBlock s) ++ (List.range 6).flatMap (dischargeBlock s)).length =
        36 := by rw [List.length_append, length_blocks outputs, length_blocks discharges]
    rw [balanceData_eq, ← List.append_assoc, ← before]
    exact drop_blocks capacities hi _ _
  have rest : (balanceData s).drop 48 = shelfFigures s.balance := by
    rw [balanceData_eq, ← List.append_assoc, ← List.append_assoc]
    refine List.drop_left' ?_
    simp only [List.length_append, length_blocks outputs, length_blocks discharges, length_blocks capacities]
  obtain ⟨f8, f16, f32⟩ := field_drop (balanceData s) 48
  rw [rest] at f8 f16 f32
  refine ⟨?_, fun i hi used => ?_, fun i hi out => ?_, fun k hk used => ?_, fun k hk out => ?_, f32 0 ▸ m,
    f32 4 ▸ sGrid, f16 8 ▸ q, f32 10 ▸ sAdm, f32 14 ▸ k, f32 18 ▸ c, ?_, ?_, f32 30 ▸ d, f8 34 ▸ held,
    f8 35 ▸ overcommit, f8 36 ▸ deficit, fun cause => ?_, fun n high => ?_, f32 39 ▸ time, f16 43 ▸ count⟩
  · rw [balanceData_eq]
    simp only [List.length_append, length_blocks outputs, length_blocks discharges, length_blocks capacities, len]
  · obtain ⟨_, output⟩ := psm i hi
    obtain ⟨_, capacity⟩ := cap i hi
    simp only [outputBlock, capacityBlock, used, if_true, Bool.true_and] at output capacity
    exact ⟨field16_of_drop (output.trans (List.append_assoc _ _ _)), field8_of_drop output,
      field16_of_drop capacity⟩
  · obtain ⟨_, output⟩ := psm i hi
    obtain ⟨_, capacity⟩ := cap i hi
    simp only [outputBlock, capacityBlock, out, Option.isSome_none, Bool.false_eq_true, if_false,
      Bool.false_and] at output capacity
    exact ⟨field16_of_drop (output.trans (List.append_assoc _ _ _)), field8_of_drop output,
      field16_of_drop capacity⟩
  · obtain ⟨_, discharge⟩ := bbm k hk
    simp only [dischargeBlock, used, if_true, Bool.true_and] at discharge
    exact ⟨field16_of_drop (discharge.trans (List.append_assoc _ _ _)),
      (congrArg (field8 _) (by omega)).trans (field8_of_drop discharge)⟩
  · obtain ⟨_, discharge⟩ := bbm k hk
    simp only [dischargeBlock, out, Option.isSome_none, Bool.false_eq_true, if_false, Bool.false_and] at discharge
    exact ⟨field16_of_drop (discharge.trans (List.append_assoc _ _ _)),
      (congrArg (field8 _) (by omega)).trans (field8_of_drop discharge)⟩
  · rw [← f32 22, h0, BitVec.ofNat_toNat, BitVec.setWidth_eq]
  · rw [← f32 26, h, BitVec.ofNat_toNat, BitVec.setWidth_eq]
  · have low : causeNumber cause < 16 := (causeNumber_lt cause).trans (by decide)
    rw [← f16 37, causes, Nat.testBit_mod_two_pow, decide_eq_true low, Bool.true_and, testBit_bitSet,
      List.mem_map_of_injective causeNumber_injective]
  · have absent : (bitSet (s.balance.causes.map causeNumber)).testBit n ≠ true := by
      rw [ne_eq, testBit_bitSet, List.mem_map]
      rintro ⟨c, -, rfl⟩
      have := causeNumber_lt c
      omega
    rw [← f16 37, causes, Nat.testBit_mod_two_pow, Bool.eq_false_iff.mpr absent, Bool.and_false]

end Sys2Proof.Machine
end

section
/-! PROOF. The end of an event (O20): commands that only wait, the reactions in their order, and the arbiters. -/

namespace Sys2Proof.Machine

/-! ### Commands that only wait (log entry 6) -/

/-- Nothing is changed where the blocks are left as they are. -/
theorem onShelf_same {f : Shelf → Shelf} {s : State} (same : f s.toShelf = s.toShelf) : onShelf f s = s := by
  unfold onShelf
  rw [same]

/-- A part at rest that is left as it is ends the event with the arbiters. -/
theorem closing_still {s : State} (still : Still s) : closing s = settled id s := by
  have ends := closing_onShelf_quiet id s still.1 still.2
  rwa [onShelf_same rfl] at ends

/-- An event that does nothing to a part at rest ends with the arbiters. -/
theorem event_waits {e : Ambient} {s : State} (still : Still s) {f : Shelf → Shelf}
    (same : f (opening e s).toShelf = (opening e s).toShelf) : event e f s = settled id (opening e s) := by
  have rest : Still (opening e s) := still
  rw [event, onShelf_same same, closing_still rest]

/-- The same for an event that may act on the store. -/
theorem wholeEvent_waits {e : Ambient} {s : State} (still : Still s) {f : State → State}
    (same : f (opening e s) = opening e s) : wholeEvent e f s = settled id (opening e s) := by
  have rest : Still (opening e s) := still
  rw [wholeEvent, same, closing_still rest]

/-! ### Timers that are not due -/

theorem emptyPassExpiry_waits {p : Port} {x : Shelf}
    (h : expired x.shelfTime (pollEngine x p).emptyTimer = false) : emptyPassExpiry p x = x :=
  if_neg (by simp [h])

theorem replyExpiry_waits {p : Port} {x : Shelf}
    (h : ∀ tx, (pollEngine x p).inFlight = some tx → expired x.shelfTime tx.timer = false) :
    replyExpiry p x = x := by
  unfold replyExpiry
  cases flight : (pollEngine x p).inFlight with
  | none => rfl
  | some tx => exact if_neg (by simp [h tx flight])

theorem forwardExpiry_waits {r : Nat} {x : Shelf}
    (h : rosterAt x r = none ∨ ∃ entry t, rosterAt x r = some entry ∧ (vget x.modules r).lastCopy = some t ∧
      reached x.shelfTime (t + BitVec.ofNat 32 (1000 * entry.interval)) = false) : forwardExpiry r x = x := by
  refine if_neg ?_
  obtain none | ⟨entry, t, found, last, early⟩ := h
  · simp [none]
  · rw [Nat.mul_comm] at early
    simp [found, forwardDue, last, msTime, early]

theorem tickDue_waits {x : Shelf}
    (h : x.ride.state ≠ .ride ∨ ∀ t, x.ride.tick = some t → reached x.shelfTime t = false) :
    tickDue x = false := by
  unfold tickDue
  obtain other | early := h
  · simp [other]
  · cases tick : x.ride.tick with
    | none => simp
    | some t => simp [early t tick]

theorem qualifyDue_waits {x : Shelf}
    (h : x.ride.state ≠ .ride ∧ x.ride.state ≠ .depleted ∨ ∀ t, x.ride.qualify = some t →
      reached x.shelfTime (t + BitVec.ofNat 32 (1000 * (policy x).qualifyTime)) = false) : qualifyDue x = false := by
  unfold qualifyDue
  obtain ⟨ride, depleted⟩ | early := h
  · simp [ride, depleted]
  · cases qualify : x.ride.qualify with
    | none => simp
    | some t =>
      have early := early t qualify
      rw [Nat.mul_comm] at early
      simp [msTime, early]

theorem startExpiry_waits {t : Nat} {x : Shelf}
    (h : trayState x t ≠ .starting ∨ expired x.shelfTime (vget x.bay.trays t).startTimer = false) :
    startExpiry t x = x := by
  refine if_neg ?_
  obtain other | early := h
  · simp [other]
  · simp [early]

theorem confirmDue_waits {z : Nat} {x : Shelf}
    (h : (vget x.zones z).state ≠ .suspect ∨ expired x.shelfTime (vget x.zones z).timer = false) :
    confirmDue z x = false := by
  unfold confirmDue
  obtain other | early := h
  · simp [other]
  · simp [early]

theorem idleExpired_waits {x : Shelf} (h : ∀ w, x.window = some w → expired x.shelfTime w.idle = false) :
    idleExpired x = false := by
  unfold idleExpired
  cases window : x.window with
  | none => rfl
  | some w => exact h w window

/-! ### Lines that take nothing -/

/-- Neither a first acceptance nor a later one comes of a line that is not watched and whose sample, if one is due,
does not complete it (R4). -/
theorem acceptance_waits {first : Bool} {l : Nat} {level : Level} {x : Shelf}
    (h : watched x l = false ∧ (sampleDue x l = false ∨ completes (vget x.lines l) level = false)) :
    acceptance first l level x = x := by
  obtain ⟨off, none⟩ := h
  have idle : (sampleDue x l && completes (vget x.lines l) level) = false := by
    obtain h | h := none <;> simp [h]
  simp [acceptance, off, idle]

/-- A line that has an accepted level takes no first one (R4). -/
theorem firstAcceptance_waits {l : Nat} {level : Level} {x : Shelf} (h : (vget x.lines l).accepted ≠ none) :
    acceptance true l level x = x := if_pos (by simpa [Option.isSome_iff_ne_none] using h)

/-- A line that has no accepted level, or has this one, changes to it by no edge (R6). -/
theorem lineEdge_waits {l : Nat} {level : Level} {x : Shelf}
    (h : (vget x.lines l).accepted = none ∨ (vget x.lines l).accepted = some level) :
    acceptance false l level x = x := by
  obtain none | same := h
  · simp [acceptance, none]
  · simp [acceptance, same, completes]

/-! ### Transmitters that are not at an end (R162, R170) -/

theorem endUp_waits {s : State} (h : s.engUp.shifter = none ∨ s.engUp.buffer ≠ none) : endUp s = s := by
  refine if_neg ?_
  obtain h | h := h <;> simp [upEnds, h]

theorem endDown_waits {p : Port} {x : Shelf} (h : (engine x p).shifter = none ∨ (engine x p).buffer ≠ none) :
    endDown p x = x := by
  refine if_neg ?_
  obtain h | h := h <;> simp [h]

theorem shiftUp_waits {x : Shelf} (h : x.engUp.shifter = none ∨ x.engUp.buffer = none) : shiftUp x = x := by
  unfold shiftUp
  obtain h | h := h
  · rw [h]
  · rw [h]
    cases x.engUp.shifter <;> rfl

/-! ### The arbiters and the UP receive queue -/

theorem engUp_setEngine {p : Port} (down : p ≠ .up) (e : PortEngine) (x : Shelf) :
    (setEngine p e x).engUp = x.engUp := by
  cases p
  · exact absurd rfl down
  · rfl
  · rfl

theorem engUp_setPoll (p : Port) (e : PollEngine) (x : Shelf) : (setPoll p e x).engUp = x.engUp := by
  cases p <;> rfl

theorem engUp_beginTx {p : Port} (down : p ≠ .up) (tx : Transaction) (f : Frame) (x : Shelf) :
    (beginTx p tx f x).engUp = x.engUp :=
  (engUp_setEngine down _ _).trans (engUp_setPoll p _ x)

theorem engUp_tryPoll {p : Port} (down : p ≠ .up) (x : Shelf) : (tryPoll p x).2.engUp = x.engUp := by
  unfold tryPoll
  split
  · dsimp only
    split
    · exact (engUp_beginTx down _ _ _).trans (engUp_setPoll p _ x)
    · exact engUp_setPoll p _ x
  · rfl

theorem engUp_arbitrateOrders {p : Port} (down : p ≠ .up) (x : Shelf) :
    (arbitrateOrders p x).engUp = x.engUp := by
  unfold arbitrateOrders
  dsimp only
  split
  · exact (engUp_beginTx down _ _ _).trans (engUp_setPoll p _ x)
  · exact ((engUp_beginTx down _ _ _).trans (engUp_setPoll p _ _)).trans (engUp_setPoll p _ x)
  · exact (engUp_beginTx down _ _ _).trans (engUp_setPoll p _ x)
  · exact engUp_tryPoll down x

/-- A downstream arbiter leaves UP's Port Engine. -/
theorem engUp_arbitrate {p : Port} (down : p ≠ .up) (x : Shelf) : (arbitrate p x).engUp = x.engUp := by
  unfold arbitrate
  dsimp only
  split
  · split
    · split
      case h_1 y polled => simpa [polled] using engUp_tryPoll down x
      case h_2 y polled =>
        have tried : y.engUp = x.engUp := by simpa [polled] using engUp_tryPoll down x
        exact (engUp_arbitrateOrders down y).trans tried
    · exact engUp_arbitrateOrders down x
  · rfl

/-- The arbiters leave what UP has received. -/
theorem rx_sendOff (x : Shelf) : (sendOff x).engUp.rx = x.engUp.rx := by
  unfold sendOff
  rw [engUp_arbitrate (by decide), engUp_arbitrate (by decide), arbitrateUp_rx]

/-! ### The reactions in their order (R37, R65, R93; log entries 4 and 5) -/

/-- The first of the raised reactions is the next, before those that waited. -/
theorem nextReaction_task {x : Shelf} {task : Task} {rest : List Task} (h : x.raised ++ x.agenda = task :: rest) :
    nextReaction x = some (perform task { x with raised := [], agenda := rest }) := by
  simp [nextReaction, h]

/-- With none of these and no apply in progress an admission evaluation that is due is the next. -/
theorem nextReaction_admission {x : Shelf} (raised : x.raised = []) (agenda : x.agenda = [])
    (due : x.admitDue = true) (free : x.applying = none) : nextReaction x = some (admissionTry x) := by
  simp [nextReaction, raised, agenda, due, free]

/-- No admission evaluation is the next where none is due or an apply is in progress. -/
theorem admission_waits {x : Shelf} (h : x.admitDue = false ∨ x.applying ≠ none) :
    (x.admitDue && x.applying.isNone) = false := by
  obtain h | h := h
  · simp [h]
  · simp [Option.isSome_iff_ne_none.mpr h]

/-- Then those of the Module Monitor and the Program Sequencer. -/
theorem nextReaction_deferred {x : Shelf} (raised : x.raised = []) (agenda : x.agenda = [])
    (admission : x.admitDue = false ∨ x.applying ≠ none) {task : Task} {rest : List Task}
    (h : x.deferred = task :: rest) : nextReaction x = some (perform task { x with deferred := rest }) := by
  simp [nextReaction, raised, agenda, admission_waits admission, h]

/-- And then none is left. -/
theorem nextReaction_none {x : Shelf} (raised : x.raised = []) (agenda : x.agenda = [])
    (admission : x.admitDue = false ∨ x.applying ≠ none) (h : x.deferred = []) : nextReaction x = none := by
  simp [nextReaction, raised, agenda, admission_waits admission, h]

/-- At most so many reactions are carried out, one after another, and fewer where none is left before. -/
theorem runReactions_iterate (m : Nat) (x : Shelf) : ∃ n ≤ m,
    (fun y : Option Shelf => y.bind nextReaction)^[n] (some x) = some (runReactions m x) ∧
      (n < m → nextReaction (runReactions m x) = none) := by
  induction m generalizing x with
  | zero => exact ⟨0, le_rfl, rfl, nofun⟩
  | succ m ih =>
    cases next : nextReaction x with
    | none =>
      have stays : runReactions (m + 1) x = x := by simp only [runReactions, next]
      exact ⟨0, Nat.zero_le _, by rw [stays]; rfl, fun _ => by rw [stays, next]⟩
    | some y =>
      obtain ⟨n, low, run, done⟩ := ih y
      have goes : runReactions (m + 1) x = runReactions m y := by simp only [runReactions, next]
      refine ⟨n + 1, Nat.succ_le_succ low, ?_, fun h => ?_⟩
      · rw [Function.iterate_succ_apply, Option.bind_some, next, goes, run]
      · rw [goes]
        exact done (Nat.lt_of_succ_lt_succ h)

/-- A single reaction that leaves no other is all that is carried out. -/
theorem react_single {x : Shelf} {task : Task} (h : x.raised ++ x.agenda = [task])
    (quiet : Quiet (perform task { x with raised := [], agenda := [] })) :
    react x = perform task { x with raised := [], agenda := [] } := by
  have first : ∀ n, runReactions (n + 1) x = perform task { x with raised := [], agenda := [] } := by
    intro n
    simp only [runReactions, nextReaction_task h]
    exact runReactions_quiet quiet n
  exact first 9999

/-- Settles O20, by one lemma for each command that only waits and the reactions as iterated steps. -/
theorem quietEventsEnd : Obligations.QuietEventsEnd := by
  refine ⟨fun e s still => ?_, fun s still => ?_, fun s code status data still => closing_told code status data still,
    fun s => ⟨linksOnly_sendOff s, ?_, ?_, rx_sendOff s⟩, fun x => ?_, runReactions_iterate Config.reactionBound,
    fun s rx => closing_empty rx, fun s task only quiet rx => ?_, fun x ok line d => ?_,
    fun x n trays cause word => ?_, fun x n a code o b ns old fs kind => ?_⟩
  · have on : ∀ {c : Instr} {f : Shelf → Shelf}, exec c s = .next (event e f s) →
        f (opening e s).toShelf = (opening e s).toShelf → exec c s = .next (settled id (opening e s)) :=
      fun acts same => acts.trans (congrArg Host.Outcome.next (event_waits still same))
    have onWhole : ∀ {c : Instr} {f : State → State}, exec c s = .next (wholeEvent e f s) →
        f (opening e s) = opening e s → exec c s = .next (settled id (opening e s)) :=
      fun acts same => acts.trans (congrArg Host.Outcome.next (wholeEvent_waits still same))
    have idle : ∀ {b : Bool} {x y : Shelf}, b = false → (if b = true then y else x) = x :=
      fun no => if_neg (by simp [no])
    refine ⟨fun p h => on rfl (emptyPassExpiry_waits h), fun p h => on rfl (replyExpiry_waits h),
      fun r h => on rfl (forwardExpiry_waits h), fun n h => on rfl (idle h),
      fun h => on rfl (idle (tickDue_waits h)), fun h => on rfl (idle (qualifyDue_waits h)),
      fun t h => on rfl (startExpiry_waits h), fun z h => on rfl (idle (confirmDue_waits h)),
      fun h => on rfl (idle h), fun h => on rfl (idle h), fun h => on rfl (idle (idleExpired_waits h)),
      fun l level => ⟨fun h => on rfl (idle h), fun h => on rfl ?_, fun h => on rfl ?_⟩, fun p h => ?_,
      fun h => on rfl (shiftUp_waits h), fun h => onWhole rfl ?_⟩
    · exact h.elim firstAcceptance_waits acceptance_waits
    · obtain none | same | none := h
      · exact lineEdge_waits (.inl none)
      · exact lineEdge_waits (.inr same)
      · exact acceptance_waits none
    · refine onWhole rfl ?_
      cases p with
      | up => exact endUp_waits h
      | sp => exact onShelf_same (endDown_waits h)
      | tp => exact onShelf_same (endDown_waits h)
    · obtain none | held | early := h
      · split
        · exact endUp_waits (.inl none)
        · rfl
      · split
        · exact endUp_waits (.inr held)
        · rfl
      · exact if_neg (by simp [early])
  · exact closing_still still
  · simp [sendOff]
  · simp [sendOff]
  · exact ⟨fun task rest => nextReaction_task, fun raised agenda => ⟨nextReaction_admission raised agenda,
      fun admission => ⟨fun task rest => nextReaction_deferred raised agenda admission,
        nextReaction_none raised agenda admission⟩⟩⟩
  · have single := react_single only quiet
    rw [closing_empty (single ▸ rx)]
    exact congrArg (fun y => onShelf (fun _ => sendOff y) s) single
  · exact ⟨rfl, rfl, rfl, rfl, rfl, rfl, rfl, rfl, rfl, rfl, rfl, rfl, rfl⟩
  · exact ⟨rfl, rfl, rfl, rfl, rfl, rfl, rfl, rfl, rfl, rfl, rfl, rfl, rfl⟩
  · exact ⟨rfl, rfl, rfl, rfl, rfl, rfl, rfl, rfl⟩

end Sys2Proof.Machine
end

section
/-! PROOF. The Module Monitor's battery records (O51, R51 to R60): what one replaced record tells is said in
`putBbm_told`; here it is read off for each report, absence, order outcome and apply. -/

namespace Sys2Proof.Machine

/-! ### A record that becomes another -/

/-- Battery `k`'s record becomes `new`, stamped where its state changes, and the change is told with this reason. -/
abbrev BbmBecomes (k : Nat) (new : Bbm) (reason : BbmReason) (x y : Shelf) : Prop :=
  vget y.bbms k = { new with
    stateTime := if new.state = (vget x.bbms k).state then (vget x.bbms k).stateTime else x.shelfTime } ∧
  BbmTold k reason x y

/-- A record put with its state time kept becomes what is put. -/
theorem putBbm_becomes {k : Nat} (hk : k < 6) (reason : BbmReason) {f : Bbm → Bbm} {x : Shelf} {new : Bbm}
    (gives : f (vget x.bbms k) = new) (kept : new.stateTime = (vget x.bbms k).stateTime) :
    BbmBecomes k new reason x (putBbm k reason f x) := by
  obtain ⟨told, record⟩ := putBbm_told hk reason f x
  rw [gives, kept] at record
  exact ⟨record, told⟩

/-- Where the state stays, only the figures are replaced. -/
theorem putBbm_eq_putFigures {k : Nat} {reason : BbmReason} {f : Bbm → Bbm} {x : Shelf}
    (same : (f (vget x.bbms k)).state = (vget x.bbms k).state) :
    putBbm k reason f x = putFigures k (f (vget x.bbms k)) x := by
  unfold putBbm putFigures
  simp [same]

/-- A change of battery `k` that follows is told alike from either of two states: they agree on what it is told from,
on the other batteries, and on this one's state, its time and the acknowledged rate. -/
structure BbmUntold (k : Nat) (x s : Shelf) : Prop where
  time : s.shelfTime = x.shelfTime
  tables : s.tables = x.tables
  signals : s.signals = x.signals
  engSp : s.engSp = x.engSp
  pollSp : s.pollSp = x.pollSp
  ride : s.ride = x.ride
  notices : s.notices = x.notices
  others : ∀ j, j ≠ k → vget s.bbms j = vget x.bbms j
  state : (vget s.bbms k).state = (vget x.bbms k).state
  acknowledged : (vget s.bbms k).acknowledged = (vget x.bbms k).acknowledged
  stateTime : (vget s.bbms k).stateTime = (vget x.bbms k).stateTime

/-- The orders that follow a battery's entry are read from the ride state, the tables and SP. -/
theorem RideOrdered.after {k : Nat} {x s y : Shelf} (untold : BbmUntold k x s) {st : BbmState}
    (ordered : RideOrdered k st s y) : RideOrdered k st x y := by
  have entries : bbmAt s = bbmAt x := funext (bbmAt_congr untold.tables)
  have roster : ∀ r, rosterIs s r .bbm k = rosterIs x r .bbm k := fun r => rosterIs_congr (untold.tables ▸ rfl) r .bbm k
  have placed : ∀ code, isPlaced s (.bbm k) code = isPlaced x (.bbm k) code := fun code => by
    simp only [isPlaced, isQueued, isInFlight, targetPort, pollEngine, untold.pollSp]
  simpa only [RideOrdered, OrderedOnce, BbmOrdered, OnlyOrdered, entries, roster, placed, untold.engSp,
    untold.pollSp, untold.ride] using ordered

/-- What is told after an untold change is told from before it; a changed FULL gives a charge evaluation by itself
or with the change of state. -/
theorem BbmTold.after {k : Nat} {reason : BbmReason} {x s y : Shelf} (untold : BbmUntold k x s)
    (full : (vget s.bbms k).full = (vget x.bbms k).full ∨ (vget y.bbms k).state ≠ (vget x.bbms k).state)
    (told : BbmTold k reason s y) : BbmTold k reason x y := by
  obtain ⟨others, stays, changes, rate, filled⟩ := told
  rw [untold.state] at stays changes
  rw [untold.acknowledged] at rate
  refine ⟨fun j hj => (others j hj).trans (untold.others j hj), fun same => ?_, fun differs => ?_, rate,
    fun differs => ?_⟩
  · rw [← untold.notices, ← untold.ride, ← untold.pollSp]
    exact stays same
  · obtain ⟨posted, balance, cause, charge, account, ordered⟩ := changes differs
    refine ⟨?_, balance, cause, charge, account.trans ?_, ordered.after untold⟩
    · rw [posted, untold.time, untold.notices]
    · exact rideBattery_ride_congr k _ _ untold.tables rfl untold.signals untold.ride
  · obtain same | turned := full
    · exact filled (same ▸ differs)
    · obtain ⟨-, -, -, charge, -⟩ := changes turned.symm
      exact charge

/-- So a record that becomes another after an untold change becomes it from before. -/
theorem BbmBecomes.after {k : Nat} {new : Bbm} {reason : BbmReason} {x s y : Shelf} (untold : BbmUntold k x s)
    (full : (vget s.bbms k).full = (vget x.bbms k).full ∨ new.state ≠ (vget x.bbms k).state)
    (becomes : BbmBecomes k new reason s y) : BbmBecomes k new reason x y := by
  obtain ⟨record, told⟩ := becomes
  rw [untold.state, untold.stateTime, untold.time] at record
  have entered : (vget y.bbms k).state = new.state := by rw [record]
  exact ⟨record, told.after untold (entered ▸ full)⟩

/-- Where the state stays nothing is posted, whatever the reason. -/
theorem BbmTold.unposted {k : Nat} {reason other : BbmReason} {x y : Shelf} (told : BbmTold k reason x y)
    (same : (vget y.bbms k).state = (vget x.bbms k).state) : BbmTold k other x y := by
  obtain ⟨others, stays, -, rate, filled⟩ := told
  exact ⟨others, stays, fun differs => absurd same.symm differs, rate, filled⟩

/-- Figures replaced without a change of the state, its time or the acknowledged rate are untold. -/
theorem putBbm_untold {k : Nat} (hk : k < 6) (reason : BbmReason) {f : Bbm → Bbm} {x : Shelf}
    (state : (f (vget x.bbms k)).state = (vget x.bbms k).state)
    (acknowledged : (f (vget x.bbms k)).acknowledged = (vget x.bbms k).acknowledged)
    (stateTime : (f (vget x.bbms k)).stateTime = (vget x.bbms k).stateTime) :
    BbmUntold k x (putBbm k reason f x) := by
  rw [putBbm_eq_putFigures state, (putFigures_spec k (f (vget x.bbms k)) x).1]
  have record : vget (vset x.bbms k (f (vget x.bbms k))) k = f (vget x.bbms k) := vget_vset_self _ _ _ hk
  exact ⟨rfl, rfl, rfl, rfl, rfl, rfl, rfl, fun j hj => vget_vset_ne _ _ hj.symm,
    (congrArg Bbm.state record).trans state, (congrArg Bbm.acknowledged record).trans acknowledged,
    (congrArg Bbm.stateTime record).trans stateTime⟩

/-- A discharge signal newly named is untold (R39). -/
theorem markUnread_untold (k : Nat) (x : Shelf) : BbmUntold k x (markUnread k x) :=
  ⟨rfl, rfl, rfl, rfl, rfl, rfl, rfl, fun _ _ => rfl, rfl, rfl, rfl⟩

/-! ### Adoption (R51) -/

/-- The record that an adoption gives, with the discharge signal as it then is (R51). -/
def adoptedBbm (x : Shelf) (entry : BbmEntry) (fault full : Bool) (r : Bbm) : Bbm :=
  { r with
    state := if fault then .fault
      else if (vget x.signals entry.discharge).band ≠ .unknown ∧ 0 < (vget x.signals entry.discharge).value then
        .discharging
      else .idle
    fault := if fault then some .status else none
    seen := true, full := full, acknowledged := 0, ordered := none }

theorem adoptedState_eq {x : Shelf} {k : Nat} {entry : BbmEntry} (used : bbmAt x k = some entry) (fault : Bool)
    (full : Bool) (r : Bbm) : adoptedState x k fault = (adoptedBbm x entry fault full r).state := by
  simp [adoptedState, adoptedBbm, used, bandKnown]

/-- An adoption keeps nothing of the record but its state time. -/
theorem adoptedBbm_congr {x s : Shelf} {r q : Bbm} (signals : s.signals = x.signals)
    (stateTime : q.stateTime = r.stateTime) (entry : BbmEntry) (fault full : Bool) :
    adoptedBbm s entry fault full q = adoptedBbm x entry fault full r := by
  simp only [adoptedBbm, signals, stateTime]

/-- An adoption without FAULT leaves a FAULT. -/
theorem state_adoptedBbm_clear (x : Shelf) (entry : BbmEntry) (full : Bool) (r : Bbm) :
    (adoptedBbm x entry false full r).state ≠ .fault := by
  simp only [adoptedBbm, Bool.false_eq_true, if_false]
  split <;> simp

/-- An adoption makes the record the adopted one and posts ADOPTED (log entries 40 and 51). -/
theorem adoptBbm_becomes {k : Nat} (hk : k < 6) {x : Shelf} {entry : BbmEntry} (used : bbmAt x k = some entry)
    (word : Option Nat) :
    BbmBecomes k
      (adoptedBbm x entry (word.any bitFault) ((word.map bitFull).getD (vget x.bbms k).full) (vget x.bbms k))
      .adopted x (adoptBbm k word x) := by
  refine putBbm_becomes hk _ ?_ rfl
  rw [adoptedState_eq used _ ((word.map bitFull).getD (vget x.bbms k).full) (vget x.bbms k)]
  rfl

/-- A report while seen is clear adopts by its first status word, or without one (R51). -/
theorem bbmReport_unseen {k : Nat} {x : Shelf} {entry : BbmEntry} (used : bbmAt x k = some entry)
    (unseen : (vget x.bbms k).seen = false) (words : List Nat) :
    bbmReport k words x =
      words.tail.foldl (fun s w => bbmStatusWord k w s) (adoptBbm k words.head? x) := by
  simp [bbmReport, used, unseen]

/-! ### Status words (R52) -/

/-- The record after the FULL of a status word, before its FAULT (R52; log entry 50). -/
def filledBbm (full : Bool) (r : Bbm) : Bbm :=
  if r.state = .charging && full then { r with full, state := .idle, acknowledged := 0 } else { r with full }

/-- The FULL of a status word is put first. -/
def fillBbm (k : Nat) (full : Bool) (x : Shelf) : Shelf := putBbm k .full (filledBbm full) x

/-- A status word is its FULL, then its FAULT or, in a FAULT that a status word made, an adoption. -/
theorem bbmStatusWord_eq (k w : Nat) (x : Shelf) :
    bbmStatusWord k w x =
      let s := fillBbm k (w.testBit 3) x
      if w.testBit 2 then
        if (vget s.bbms k).state = .fault then s
        else putBbm k .status (fun r => { r with state := .fault, fault := some .status }) s
      else if (vget s.bbms k).state = .fault ∧ (vget s.bbms k).fault = some .status then adoptBbm k (some w) s
      else s := rfl

section Filled

variable (full : Bool) (r : Bbm)

theorem filledBbm_eq : filledBbm full r =
    if r.state = .charging ∧ full then { r with full, state := .idle, acknowledged := 0 } else { r with full } := by
  simp [filledBbm]

theorem stateTime_filledBbm : (filledBbm full r).stateTime = r.stateTime := by unfold filledBbm; split <;> rfl

theorem fault_filledBbm : (filledBbm full r).fault = r.fault := by unfold filledBbm; split <;> rfl

/-- FULL takes no battery to FAULT and none out of it. -/
theorem state_filledBbm_fault : (filledBbm full r).state = .fault ↔ r.state = .fault := by
  rw [filledBbm_eq]
  split
  next stops => simp [stops.1]
  next => rfl

/-- FULL stops a charging battery alone. -/
theorem filledBbm_stays {full : Bool} {r : Bbm} (other : r.state ≠ .charging ∨ full = false) :
    filledBbm full r = { r with full } := by
  rw [filledBbm_eq, if_neg]
  rintro ⟨charging, set⟩
  exact other.elim (· charging) fun clear => by simp [clear] at set

end Filled

section StatusWord

variable {k w : Nat} (hk : k < 6) {full : Bool} {x : Shelf}
include hk

theorem fillBbm_becomes (full : Bool) (x : Shelf) :
    BbmBecomes k (filledBbm full (vget x.bbms k)) .full x (fillBbm k full x) :=
  putBbm_becomes hk _ rfl (stateTime_filledBbm _ _)

theorem state_fillBbm_fault : (vget (fillBbm k full x).bbms k).state = .fault ↔ (vget x.bbms k).state = .fault := by
  rw [(fillBbm_becomes hk full x).1]
  exact state_filledBbm_fault _ _

theorem fault_fillBbm : (vget (fillBbm k full x).bbms k).fault = (vget x.bbms k).fault := by
  rw [(fillBbm_becomes hk full x).1]
  exact fault_filledBbm _ _

/-- A FULL that stops no charging is untold. -/
theorem fillBbm_untold (other : (vget x.bbms k).state ≠ .charging ∨ full = false) :
    BbmUntold k x (fillBbm k full x) :=
  putBbm_untold hk _ (by rw [filledBbm_stays other]) (by rw [filledBbm_stays other])
    (stateTime_filledBbm _ _)

theorem bbmStatusWord_clear (clear : w.testBit 2 = false)
    (other : ¬((vget x.bbms k).state = .fault ∧ (vget x.bbms k).fault = some .status)) :
    bbmStatusWord k w x = fillBbm k (w.testBit 3) x := by
  simp [bbmStatusWord_eq, state_fillBbm_fault hk, fault_fillBbm hk, clear, other]

theorem bbmStatusWord_recovers (clear : w.testBit 2 = false) (failed : (vget x.bbms k).state = .fault)
    (cause : (vget x.bbms k).fault = some .status) :
    bbmStatusWord k w x = adoptBbm k (some w) (fillBbm k (w.testBit 3) x) := by
  simp [bbmStatusWord_eq, state_fillBbm_fault hk, fault_fillBbm hk, clear, failed, cause]

theorem bbmStatusWord_failed (fault : w.testBit 2 = true) (failed : (vget x.bbms k).state = .fault) :
    bbmStatusWord k w x = fillBbm k (w.testBit 3) x := by
  simp [bbmStatusWord_eq, state_fillBbm_fault hk, fault, failed]

theorem bbmStatusWord_fails (fault : w.testBit 2 = true) (other : (vget x.bbms k).state ≠ .fault) :
    bbmStatusWord k w x = putBbm k .status (fun r => { r with state := .fault, fault := some .status })
      (fillBbm k (w.testBit 3) x) := by
  simp [bbmStatusWord_eq, state_fillBbm_fault hk, fault, other]

/-- A FAULT that a status word made is left by an adoption, told as from the record before the word. -/
theorem bbmStatusWord_recovers_becomes {entry : BbmEntry} (used : bbmAt x k = some entry)
    (clear : w.testBit 2 = false) (failed : (vget x.bbms k).state = .fault)
    (cause : (vget x.bbms k).fault = some .status) :
    BbmBecomes k (adoptedBbm x entry false (w.testBit 3) (vget x.bbms k)) .adopted x (bbmStatusWord k w x) := by
  have untold : BbmUntold k x (fillBbm k (w.testBit 3) x) := fillBbm_untold hk (.inl (by simp [failed]))
  have entries : bbmAt (fillBbm k (w.testBit 3) x) k = some entry := (bbmAt_congr untold.tables k).trans used
  have adopted := adoptBbm_becomes hk entries (some w)
  have word : (some w).any bitFault = false := by simpa [bitFault] using clear
  rw [word, adoptedBbm_congr untold.signals untold.stateTime] at adopted
  rw [bbmStatusWord_recovers hk clear failed cause]
  exact adopted.after untold (.inr (failed ▸ state_adoptedBbm_clear _ _ _ _))

/-- A status word with FAULT takes a battery to FAULT, its FULL kept: a change from the record that FULL leaves. -/
theorem bbmStatusWord_fails_becomes (fault : w.testBit 2 = true) (other : (vget x.bbms k).state ≠ .fault) :
    vget (bbmStatusWord k w x).bbms k = { filledBbm (w.testBit 3) (vget x.bbms k) with
      state := .fault, fault := some .status, stateTime := x.shelfTime } ∧
    BbmTold k .status (fillBbm k (w.testBit 3) x) (bbmStatusWord k w x) := by
  have filled := (fillBbm_becomes hk (w.testBit 3) x).1
  have unfailed : BbmState.fault ≠ (filledBbm (w.testBit 3) (vget x.bbms k)).state :=
    fun failed => other ((state_filledBbm_fault _ _).mp failed.symm)
  have time : (fillBbm k (w.testBit 3) x).shelfTime = x.shelfTime := (sameClock_putBbm k _ _ x).1
  rw [bbmStatusWord_fails hk fault other]
  obtain ⟨record, told⟩ := putBbm_becomes hk .status
    (f := fun r => { r with state := .fault, fault := some .status }) (x := fillBbm k (w.testBit 3) x) rfl rfl
  refine ⟨?_, told⟩
  rw [record, filled, time]
  simp [unfailed]

end StatusWord

/-! ### Outcomes of orders (R53) -/

section Outcome

variable {k : Nat} {x : Shelf}

section Present

variable (used : (bbmAt x k).isSome = true) (present : (vget x.bbms k).state ≠ .absent)
include used present

/-- An order's outcome acts on a battery in use that is not ABSENT. -/
theorem bbmOutcome_acts : ¬((bbmAt x k).isNone = true ∨ (vget x.bbms k).state = .absent) := by
  simp [Option.isSome_iff_ne_none.mp used, present]

theorem bbmOutcome_ok (hk : k < 6) (code : Byte) (a : Nat) {new : Bbm}
    (gives : acknowledgedBbm (rideNormal x) code a (vget x.bbms k) = new)
    (kept : new.stateTime = (vget x.bbms k).stateTime) :
    BbmBecomes k new .orderOk x (bbmOutcome k code a (.ack 0x00) x) := by
  rw [bbmOutcome, if_neg (bbmOutcome_acts used present)]
  exact putBbm_becomes hk _ gives kept

theorem bbmOutcome_portOff (code : Byte) (a : Nat) : bbmOutcome k code a .portOff x = x :=
  if_neg (bbmOutcome_acts used present)

theorem bbmOutcome_noAnswer (code : Byte) (a : Nat) :
    bbmOutcome k code a .noAnswer x = failBbm k .noAnswer .noAnswer x :=
  if_neg (bbmOutcome_acts used present)

theorem bbmOutcome_refused (code : Byte) (a : Nat) {status : Byte} (refused : status ≠ 0) :
    bbmOutcome k code a (.ack status) x = failBbm k .refused .refused x :=
  (if_neg (bbmOutcome_acts used present)).trans (if_neg refused)

end Present

theorem failBbm_stays (cause : BbmFault) (reason : BbmReason) (failed : (vget x.bbms k).state = .fault) :
    failBbm k cause reason x = x := if_pos failed

theorem failBbm_becomes (hk : k < 6) (cause : BbmFault) (reason : BbmReason)
    (other : (vget x.bbms k).state ≠ .fault) :
    BbmBecomes k { vget x.bbms k with state := .fault, fault := some cause } reason x (failBbm k cause reason x) := by
  rw [failBbm, if_neg other]
  exact putBbm_becomes hk _ rfl rfl

end Outcome

/-! ### The ride state leaves NORMAL (R59) -/

theorem vget_map {α : Type} [Inhabited α] {n : Nat} (f : α → α) (v : Vector α n) {i : Nat} (h : i < n) :
    vget (v.map f) i = f (vget v i) := by
  simp [vget, h]

/-- The batteries' records with every rate 0. -/
def ratesCleared (x : Shelf) : Shelf :=
  { x with bbms := x.bbms.map fun r => { r with acknowledged := 0, ordered := some 0 } }

theorem chargeZero_eq (x : Shelf) :
    chargeZero x = if chargeAllocation x = 0 then ratesCleared x else changed [.charge] (ratesCleared x) := rfl

theorem bbms_chargeZero (x : Shelf) : (chargeZero x).bbms = (ratesCleared x).bbms := by
  rw [chargeZero_eq]
  split <;> simp

/-- With every rate 0 the charge allocation is 0 (R58). -/
theorem chargeAllocation_chargeZero (x : Shelf) : chargeAllocation (chargeZero x) = 0 := by
  refine List.sum_eq_zero fun rate mem => ?_
  obtain ⟨k, used, rfl⟩ := List.mem_map.mp mem
  have hk : k < 6 := List.mem_range.mp (List.mem_filter.mp used).1
  rw [bbms_chargeZero]
  exact congrArg Bbm.acknowledged (vget_map _ _ hk)

/-! ### Applies (R60) -/

/-- Where nothing else follows an entry's change in NORMAL, SP's queue stays. -/
theorem BbmTold.pollSp_normal {k : Nat} {reason : BbmReason} {x y : Shelf} (told : BbmTold k reason x y)
    (normal : x.ride.state = .normal) : y.pollSp = x.pollSp := by
  obtain ⟨-, stays, changes, -, -⟩ := told
  by_cases same : (vget x.bbms k).state = (vget y.bbms k).state
  · exact (stays same).2.2
  · obtain ⟨-, -, -, -, -, ordered⟩ := changes same
    obtain ⟨-, -, none⟩ := ordered
    exact none (by simp [normal]) (by simp [normal])

/-- Battery `k`'s record starts afresh in a state, its time that of a reset where the state stays, and the change is
told with reason APPLY, in NORMAL without an order (R60; log entry 32). -/
abbrev BbmFresh (k : Nat) (st : BbmState) (x y : Shelf) : Prop :=
  vget y.bbms k = { resetBbm with
    state := st, stateTime := if st = (vget x.bbms k).state then 0 else x.shelfTime } ∧
  BbmTold k .apply x y ∧ (x.ride.state = .normal → y.pollSp = x.pollSp)

/-- The state of a record that an apply starts afresh: ABSENT where its module is (R60). -/
def appliedState (x : Shelf) (e : BbmEntry) (k : Nat) : BbmState :=
  if ownedPresence x e.roster .bbm k = .absent then .absent else .idle

section Apply

variable {k : Nat} (hk : k < 6) {x : Shelf}
include hk

theorem putBbm_fresh (st : BbmState) (x : Shelf) :
    BbmFresh k st x (putBbm k .apply (fun _ => { resetBbm with state := st }) x) := by
  obtain ⟨told, record⟩ := putBbm_told hk .apply (fun _ => { resetBbm with state := st }) x
  exact ⟨record, told, told.pollSp_normal⟩

/-- The same with a discharge signal that is newly named (R39). -/
theorem putBbm_fresh_unread (st : BbmState) (x : Shelf) :
    BbmFresh k st x (putBbm k .apply (fun _ => { resetBbm with state := st }) (markUnread k x)) := by
  obtain ⟨record, told, quiet⟩ := putBbm_fresh hk st (markUnread k x)
  exact ⟨record, told.after (markUnread_untold k x) (.inl rfl), quiet⟩

variable {old : List Record}

/-- An entry taken out of use: the record becomes ABSENT and is dropped. -/
theorem applyBbm_dropped {a : BbmEntry} (was : decodeBbm (recordOf old k) = some a) (unused : bbmAt x k = none) :
    ∃ z, BbmFresh k .absent x z ∧ applyBbm old k x = { z with bbms := vset z.bbms k resetBbm } :=
  ⟨_, putBbm_fresh hk .absent x, by simp only [applyBbm, was, unused]⟩

variable {e : BbmEntry} (used : bbmAt x k = some e)
include used

theorem applyBbm_added (was : decodeBbm (recordOf old k) = none) :
    BbmFresh k (appliedState x e k) { x with bbms := vset x.bbms k resetBbm } (applyBbm old k x) := by
  have acts : applyBbm old k x = putBbm k .apply (fun _ => { resetBbm with state := appliedState x e k })
      (markUnread k { x with bbms := vset x.bbms k resetBbm }) := by
    simp only [applyBbm, was, used]
    rfl
  rw [acts]
  exact putBbm_fresh_unread hk _ _

theorem applyBbm_rewritten {a : BbmEntry} (was : decodeBbm (recordOf old k) = some a) :
    BbmFresh k (appliedState x e k) x (applyBbm old k x) := by
  have acts : applyBbm old k x = putBbm k .apply (fun _ => { resetBbm with state := appliedState x e k })
      (if a.discharge ≠ e.discharge then markUnread k x else x) := by
    simp only [applyBbm, was, used]
    split <;> rfl
  rw [acts]
  split
  · exact putBbm_fresh_unread hk _ _
  · exact putBbm_fresh hk _ _

end Apply

/-! ### O51 -/

/-- Settles O51: each report, absence, outcome and apply puts one record, or one after an untold FULL. -/
theorem batteriesJudged : Obligations.BatteriesJudged := by
  refine ⟨fun x k entry hk used => ?_, fun x => ?_, fun old k x hk => ?_⟩
  · have isSome : (bbmAt x k).isSome = true := by simp [used]
    have isNone : ¬(bbmAt x k).isNone = true := by simp [used]
    refine ⟨fun unseen => ?_, fun seen words => (if_neg isNone).trans (if_pos seen), fun w => ?_, ?_,
      fun absent code a o => if_pos (.inr absent), fun present => ?_⟩
    · simp only [bbmReport_unseen used unseen]
      exact ⟨adoptBbm_becomes hk used none, fun w rest => ⟨adoptBbm_becomes hk used (some w), rfl⟩⟩
    · refine ⟨fun clear other => ?_, bbmStatusWord_recovers_becomes hk used, fun fault failed => ?_,
        fun fault other => ?_⟩
      · rw [← filledBbm_eq, bbmStatusWord_clear hk clear other]
        exact fillBbm_becomes hk _ x
      · rw [← filledBbm_eq, bbmStatusWord_failed hk fault failed]
        obtain ⟨record, told⟩ := fillBbm_becomes hk (w.testBit 3) x
        exact ⟨record, told.unposted (((state_fillBbm_fault hk).mpr failed).trans failed.symm)⟩
      · obtain ⟨record, told⟩ := bbmStatusWord_fails_becomes hk fault other
        refine ⟨?_, fun kept => told.after (fillBbm_untold hk kept) (.inr (record ▸ other.symm)),
          fun charging full => ?_⟩
        · dsimp only
          rw [← filledBbm_eq, record, if_neg other.symm]
        · have eight : bbmStatusWord k 8 x = fillBbm k (w.testBit 3) x := by
            rw [bbmStatusWord_clear hk (by decide) (by simp [charging]), full]
            rfl
          rwa [eight]
    · rw [bbmAbsent, if_neg isNone]
      exact putBbm_becomes hk _ rfl rfl
    · refine ⟨fun a => bbmOutcome_ok isSome present hk 0x11 a rfl rfl,
        fun a => bbmOutcome_ok isSome present hk 0x12 a rfl rfl, bbmOutcome_ok isSome present hk 0x10 0 rfl rfl,
        fun a positive => bbmOutcome_ok isSome present hk 0x10 a ?_ rfl, fun code a => ?_⟩
      · simp [acknowledgedBbm, codeDischarge, codeHold, positive.ne', rideNormal]
      · rw [bbmOutcome_noAnswer isSome present]
        refine ⟨bbmOutcome_portOff isSome present code a, fun failed => ⟨failBbm_stays _ _ failed, fun st refused => ?_⟩,
          fun other => ⟨failBbm_becomes hk _ _ other, fun st refused => ?_⟩⟩
        · rw [bbmOutcome_refused isSome present code a refused, failBbm_stays _ _ failed]
        · rw [bbmOutcome_refused isSome present code a refused]
          exact failBbm_becomes hk _ _ other
  · refine ⟨fun k hk => ?_, chargeAllocation_chargeZero x, ?_, fun unallocated => ?_, fun allocated => ?_⟩
    · rw [bbms_chargeZero]
      exact vget_map _ _ hk
    · rw [chargeZero_eq]
      split <;> simp [ratesCleared]
    · rw [chargeZero_eq, if_pos unallocated]
      rfl
    · rw [bbms_chargeZero, chargeZero_eq, if_neg allocated, changed_one]
      rfl
  · refine ⟨fun unused => ⟨fun was => ?_, fun was => ?_⟩, fun e used => ⟨fun was => ?_, fun was => ?_⟩⟩
    · simp [applyBbm, was, unused]
    · obtain ⟨a, was⟩ := Option.isSome_iff_exists.mp was
      exact applyBbm_dropped hk was unused
    · exact applyBbm_added hk used was
    · obtain ⟨a, was⟩ := Option.isSome_iff_exists.mp was
      exact applyBbm_rewritten hk used was

end Sys2Proof.Machine
end

section
/-! PROOF. The charge evaluation (O52, R55 to R57): the rates that are new, the orders of one battery among those of
the others, and the evaluation's two passes. -/

namespace Sys2Proof.Machine

/-! ### The new rates (R56) -/

/-- A battery takes part in charging: in use, seen, and IDLE or CHARGING (R56). -/
def takesCharge (x : Shelf) (k : Nat) : Bool :=
  (bbmAt x k).isSome && (vget x.bbms k).seen &&
    ((vget x.bbms k).state = .idle || (vget x.bbms k).state = .charging)

theorem chargeEligible_eq (x : Shelf) (k : Nat) :
    chargeEligible x k = (takesCharge x k && !(vget x.bbms k).full) := rfl

theorem newRate_eq_some {x : Shelf} {k rate : Nat} : newRate x k = some rate ↔
    takesCharge x k = true ∧ rate = if (vget x.bbms k).full = true then 0
      else min (maxChargeOf x k) (chargeBudgetOf x / (eligibleBbms x).length) := by
  have acts : newRate x k = if chargeEligible x k then
      some (min (maxChargeOf x k) (chargeBudgetOf x / (eligibleBbms x).length))
    else if takesCharge x k then some 0 else none := rfl
  rw [acts, chargeEligible_eq]
  cases takesCharge x k <;> cases (vget x.bbms k).full <;> simp [eq_comm]

theorem mem_newRates {x : Shelf} {k rate : Nat} :
    (k, rate) ∈ newRates x ↔ k < 6 ∧ newRate x k = some rate := by
  simp [newRates, Config.bbmCount]

/-- No battery has two rates. -/
theorem nodup_newRates (x : Shelf) : ((newRates x).map Prod.fst).Nodup := by
  rw [newRates, List.map_filterMap]
  refine List.Nodup.filterMap (fun a b k ha hb => ?_) List.nodup_range
  simp only [Option.mem_def, Option.map_map, Option.map_eq_some_iff, Function.comp] at ha hb
  obtain ⟨-, -, rfl⟩ := ha
  obtain ⟨-, -, rfl⟩ := hb
  rfl

/-- A battery that is not eligible is given nothing. -/
theorem newRate_not_eligible {x : Shelf} {k : Nat} (other : chargeEligible x k = false) :
    newRate x k = some 0 ∨ newRate x k = none := by
  cases rate : newRate x k with
  | none => exact .inr rfl
  | some value =>
    obtain ⟨takes, rfl⟩ := newRate_eq_some.mp rate
    have full : (vget x.bbms k).full = true := by simpa [chargeEligible_eq, takes] using other
    simp [full]

/-- Each eligible battery's rate is within its equal share, and the others are given nothing. -/
theorem sum_newRate_le (x : Shelf) (l : List Nat) :
    (l.filterMap (newRate x)).sum ≤
      (l.filter (chargeEligible x)).length * (chargeBudgetOf x / (eligibleBbms x).length) := by
  induction l with
  | nil => simp
  | cons k l ih =>
    cases eligible : chargeEligible x k with
    | true =>
      have rate : newRate x k = some (min (maxChargeOf x k) (chargeBudgetOf x / (eligibleBbms x).length)) :=
        if_pos eligible
      rw [List.filterMap_cons_some rate, List.filter_cons_of_pos eligible, List.sum_cons, List.length_cons,
        Nat.succ_mul, Nat.add_comm]
      exact Nat.add_le_add ih (min_le_right _ _)
    | false =>
      obtain rate | rate := newRate_not_eligible eligible <;> simpa [rate, eligible] using ih

/-- The rates stay within the budget. -/
theorem sum_newRates_le (x : Shelf) : ((newRates x).map Prod.snd).sum ≤ chargeBudgetOf x := by
  have rates : (newRates x).map Prod.snd = (List.range 6).filterMap (newRate x) := by
    simp [newRates, List.map_filterMap, Function.comp_def, Config.bbmCount]
  rw [rates]
  exact (sum_newRate_le x _).trans (Nat.mul_div_le _ _)

theorem chargeBudgetOf_eq (x : Shelf) : (chargeBudgetOf x : Int) =
    min (total (eligibleBbms x) (maxChargeOf x) : Int)
      (max 0 (x.balance.h0 - ((policy x).chargeFloor : Int) - (headNeed x : Int))) := by
  rw [chargeBudgetOf, Nat.cast_min, Int.toNat_eq_max, max_comm]

/-- A rate is ordered where it has moved by the charge step, where it becomes 0, and where none is known (R57). -/
theorem rateOrdered_iff (step rate : Nat) (last : Option Nat) : rateOrdered step rate last = true ↔
    last = none ∨ ∃ old, last = some old ∧
      ((rate ≠ old ∧ (step ≤ rate - old ∨ step ≤ old - rate)) ∨ (rate = 0 ∧ old ≠ 0)) := by
  cases last with
  | none => simp [rateOrdered]
  | some old =>
    simp only [rateOrdered, Bool.or_eq_true, Bool.and_eq_true, decide_eq_true_eq, reduceCtorEq, false_or,
      Option.some.injEq, exists_eq_left']
    unfold distance
    omega

/-! ### Orders to one battery among others -/

/-- Between two states only SP's control queue, the reactions and the batteries' records differ. -/
abbrev OrdersOnly (x y : Shelf) : Prop :=
  y = { x with bbms := y.bbms, pollSp := { x.pollSp with control := y.pollSp.control }, raised := y.raised }

theorem OrdersOnly.refl (x : Shelf) : OrdersOnly x x := rfl

theorem OrdersOnly.trans {x y z : Shelf} (first : OrdersOnly x y) (second : OrdersOnly y z) : OrdersOnly x z := by
  rw [second, first]

theorem ordersOnly_placeBbm (k : Nat) (code : Byte) (a : Nat) (x : Shelf) : OrdersOnly x (placeBbm k code a x) := by
  rw [placeBbm_eq]

/-- Between two states only orders to other batteries than `k` were placed and only other records changed, so that
`k`'s own orders are those of before, and those under its Roster entry still wait. -/
structure Spares (k : Nat) (x y : Shelf) : Prop where
  only : OrdersOnly x y
  record : vget y.bbms k = vget x.bbms k
  waits : ∀ o ∈ x.pollSp.control, rosterIs x o.roster .bbm k = true → o ∈ y.pollSp.control
  own : ∀ o ∈ y.pollSp.control, o.target = .bbm k → o ∈ x.pollSp.control

theorem OrdersOnly.tables {x y : Shelf} (h : OrdersOnly x y) : y.tables = x.tables := (congrArg Shelf.tables h :)

theorem OrdersOnly.engSp {x y : Shelf} (h : OrdersOnly x y) : y.engSp = x.engSp := (congrArg Shelf.engSp h :)

theorem OrdersOnly.bbmAt {x y : Shelf} (h : OrdersOnly x y) (k : Nat) : bbmAt y k = bbmAt x k :=
  bbmAt_congr h.tables k

theorem OrdersOnly.rosterIs {x y : Shelf} (h : OrdersOnly x y) (r : Nat) (kind : ModuleKind) (i : Nat) :
    rosterIs y r kind i = rosterIs x r kind i :=
  rosterIs_congr (congrArg (fun t => vget t 2) h.tables) r kind i

theorem policy_congr {x y : Shelf} (h : y.tables = x.tables) : policy y = policy x := by
  simp only [policy, recordAt, h]

section Spares

variable {k j : Nat} {x y z : Shelf}

theorem Spares.refl (k : Nat) (x : Shelf) : Spares k x x := ⟨rfl, rfl, fun _ h _ => h, fun _ h _ => h⟩

theorem Spares.trans (first : Spares k x y) (second : Spares k y z) : Spares k x z where
  only := first.only.trans second.only
  record := second.record.trans first.record
  waits o ho mine := second.waits o (first.waits o ho mine) ((first.only.rosterIs _ _ _).trans mine)
  own o ho mine := first.own o (second.own o ho mine) mine

/-- A Roster entry is one battery's alone. -/
theorem rosterIs_bbm_unique {r : Nat} (hk : rosterIs x r .bbm k = true) (hj : rosterIs x r .bbm j = true) : j = k := by
  obtain ⟨m, at_, -, index⟩ := rosterIs_iff.mp hk
  obtain ⟨n, also, -, other⟩ := rosterIs_iff.mp hj
  obtain rfl : m = n := Option.some.inj (at_.symm.trans also)
  exact other.symm.trans index

/-- Ordering a battery gains at most that order. -/
theorem mem_control_placeBbm {code : Byte} {a : Nat} {o : ControlOrder}
    (ho : o ∈ (placeBbm k code a x).pollSp.control) :
    o ∈ x.pollSp.control ∨ o.target = .bbm k ∧ o.code = code ∧ o.argument = a := by
  rw [control_placeBbm] at ho
  cases placed : batteryControl x k code a with
  | none => exact .inl (by rwa [placed] at ho)
  | some p =>
    rw [placed] at ho
    obtain ⟨-, e, m, -, -, -, rfl⟩ := batteryControl_eq_some.mp placed
    obtain rfl | ⟨before, -⟩ := mem_queueOrder.mp ho
    · exact .inr ⟨rfl, rfl, rfl⟩
    · exact .inl before

/-- An order to another battery spares this one's. -/
theorem spares_placeBbm (other : j ≠ k) (code : Byte) (a : Nat) (x : Shelf) : Spares k x (placeBbm j code a x) where
  only := ordersOnly_placeBbm j code a x
  record := by rw [placeBbm_eq]
  waits o ho mine := by
    rw [control_placeBbm]
    cases placed : batteryControl x j code a with
    | none => exact ho
    | some p =>
      obtain ⟨-, e, m, -, -, owns, rfl⟩ := batteryControl_eq_some.mp placed
      refine mem_queueOrder.mpr (.inr ⟨ho, fun same => other ?_⟩)
      exact rosterIs_bbm_unique mine (same ▸ owns)
  own o ho mine := by
    obtain before | ⟨target, -, -⟩ := mem_control_placeBbm ho
    · exact before
    · exact absurd (Target.bbm.inj (target.symm.trans mine)) other

/-- A list of operations, each of which spares a battery. -/
theorem spares_foldl {α : Type} {f : Shelf → α → Shelf} (l : List α)
    (each : ∀ a ∈ l, ∀ x, Spares k x (f x a)) (x : Shelf) : Spares k x (l.foldl f x) :=
  l.foldlRecOn f (Spares.refl k x) fun y spared a ha => spared.trans (each a ha y)

end Spares

/-! ### The passes of an evaluation -/

/-- One battery's turn in the pass of the HOLDs (R55). -/
def holdStep (s : Shelf) (k : Nat) : Shelf :=
  if (vget s.bbms k).state = .discharging then placeBbmOnce k codeHold s else s

theorem holdDischarging_eq (s : Shelf) : holdDischarging s = (bbmsInUse s).foldl holdStep s := rfl

/-- One battery's turn in the pass of the CHARGEs (R57). -/
def rateStep (s : Shelf) (p : Nat × Nat) : Shelf :=
  if rateOrdered (policy s).chargeStep p.2 (vget s.bbms p.1).ordered then
    placeBbm p.1 codeCharge p.2 { s with bbms := vmod s.bbms p.1 fun r => { r with ordered := some p.2 } }
  else s

theorem orderRate_eq (rates : List (Nat × Nat)) (s : Shelf) : orderRate rates s = rates.foldl rateStep s := rfl

theorem holdStep_cases (s : Shelf) (k : Nat) :
    holdStep s k = s ∨ (vget s.bbms k).state = .discharging ∧ holdStep s k = placeBbm k codeHold 0 s := by
  unfold holdStep placeBbmOnce
  split
  · split
    · exact .inl rfl
    · exact .inr ⟨‹_›, rfl⟩
  · exact .inl rfl

theorem spares_holdStep {k j : Nat} (other : j ≠ k) (x : Shelf) : Spares k x (holdStep x j) := by
  obtain same | ⟨-, placed⟩ := holdStep_cases x j
  · rw [same]
    exact Spares.refl k x
  · rw [placed]
    exact spares_placeBbm other _ _ x

theorem spares_vmod {k j : Nat} (other : j ≠ k) (f : Bbm → Bbm) (x : Shelf) :
    Spares k x { x with bbms := vmod x.bbms j f } :=
  ⟨rfl, vget_vset_ne _ _ other, fun _ h _ => h, fun _ h _ => h⟩

theorem spares_rateStep {k : Nat} {p : Nat × Nat} (other : p.1 ≠ k) (x : Shelf) : Spares k x (rateStep x p) := by
  unfold rateStep
  split
  · exact (spares_vmod other _ x).trans (spares_placeBbm other _ _ _)
  · exact Spares.refl k x

/-- The pass of the HOLDs leaves every record. -/
theorem bbms_holdDischarging (x : Shelf) : (holdDischarging x).bbms = x.bbms :=
  keep_foldl (P := fun y => y.bbms = x.bbms) (f := holdStep)
    (fun s k same => by
      obtain stays | ⟨-, placed⟩ := holdStep_cases s k
      · rwa [stays]
      · rwa [placed, placeBbm_eq]) _ rfl

theorem ordersOnly_holdDischarging (x : Shelf) : OrdersOnly x (holdDischarging x) :=
  keep_foldl (P := OrdersOnly x) (f := holdStep)
    (fun s k only => by
      obtain stays | ⟨-, placed⟩ := holdStep_cases s k
      · rwa [stays]
      · rw [placed]
        exact only.trans (ordersOnly_placeBbm k _ _ s)) _ (OrdersOnly.refl x)

theorem ordersOnly_rateStep (s : Shelf) (p : Nat × Nat) : OrdersOnly s (rateStep s p) := by
  unfold rateStep
  split
  · exact OrdersOnly.trans rfl (ordersOnly_placeBbm _ _ _ _)
  · exact OrdersOnly.refl s

theorem ordersOnly_orderRate (rates : List (Nat × Nat)) (x : Shelf) : OrdersOnly x (orderRate rates x) :=
  keep_foldl (P := OrdersOnly x) (f := rateStep) (fun s p only => only.trans (ordersOnly_rateStep s p)) rates
    (OrdersOnly.refl x)

/-- The state between the two passes: the HOLDs placed, and the budget kept. -/
def heldFor (x : Shelf) : Shelf := { holdDischarging x with chargeBudget := chargeBudgetOf x }

/-- The HOLDs touch nothing that the rates are read from. -/
theorem heldFor_eq (x : Shelf) : heldFor x = { x with
    pollSp := { x.pollSp with control := (holdDischarging x).pollSp.control }, raised := (holdDischarging x).raised
    chargeBudget := chargeBudgetOf x } := by
  unfold heldFor
  rw [ordersOnly_holdDischarging x, bbms_holdDischarging x]

/-- In NORMAL without DEFICIT the CHARGEs follow the HOLDs, at the rates of before (R55). -/
theorem chargeEvaluation_acts {x : Shelf} (normal : x.ride.state = .normal) (covered : x.balance.deficit = false) :
    chargeEvaluation x = orderRate (newRates x) (heldFor x) := by
  have acts : chargeEvaluation x = orderRate (newRates (holdDischarging x))
      { holdDischarging x with chargeBudget := chargeBudgetOf (holdDischarging x) } :=
    if_pos (by simp [rideNormal, normal, covered])
  have rates : newRates (holdDischarging x) = newRates x ∧ chargeBudgetOf (holdDischarging x) = chargeBudgetOf x := by
    rw [ordersOnly_holdDischarging x, bbms_holdDischarging x]
    exact ⟨rfl, rfl⟩
  rw [acts, rates.1, rates.2]
  rfl

/-- Outside NORMAL and with DEFICIT nothing is done (R55). -/
theorem chargeEvaluation_rests {x : Shelf} (h : x.ride.state ≠ .normal ∨ x.balance.deficit = true) :
    chargeEvaluation x = x := by
  refine if_neg ?_
  obtain other | deficit := h
  · simp [rideNormal, other]
  · simp [deficit]

/-! ### One battery's order -/

/-- An order to this battery with this code and argument waits under this Roster entry. -/
def Waits (y : Shelf) (k : Nat) (code : Byte) (a roster : Nat) : Prop :=
  ∃ o ∈ y.pollSp.control, o.target = .bbm k ∧ o.code = code ∧ o.argument = a ∧ o.roster = roster

section One

variable {k : Nat} {x y : Shelf} {e : BbmEntry}

/-- An order to a battery that can be ordered waits (R53, R147). -/
theorem waits_placeBbm (used : bbmAt x k = some e) (mine : rosterIs x e.roster .bbm k = true)
    (on : x.engSp.enabled = true) (code : Byte) (a : Nat) : Waits (placeBbm k code a x) k code a e.roster := by
  obtain ⟨m, at_, -⟩ := rosterIs_iff.mp mine
  let o : ControlOrder := ⟨e.roster, BitVec.ofNat 8 m.address, code, a, .bbm k⟩
  have placed : batteryControl x k code a = some o :=
    batteryControl_eq_some.mpr ⟨on, e, m, used, at_, mine, rfl⟩
  refine ⟨o, ?_, rfl, rfl, rfl, rfl⟩
  rw [control_placeBbm, placed]
  exact mem_queueOrder.mpr (.inl rfl)

/-- A waiting order is spared. -/
theorem Spares.waiting (spared : Spares k x y) {code : Byte} {a roster : Nat}
    (mine : rosterIs x roster .bbm k = true) (waiting : Waits x k code a roster) : Waits y k code a roster := by
  obtain ⟨o, ho, target, rest, argument, rfl⟩ := waiting
  exact ⟨o, spared.waits o ho mine, target, rest, argument, rfl⟩

theorem Spares.inProgress (spared : Spares k x y) : y.pollSp.inProgress = x.pollSp.inProgress :=
  (congrArg (fun s => s.pollSp.inProgress) spared.only :)

end One

/-- A member of a list without repeats stands between two parts that do not hold it. -/
theorem split_of_nodup {α : Type} {l : List α} {a : α} (nodup : l.Nodup) (h : a ∈ l) :
    ∃ front back, l = front ++ a :: back ∧ a ∉ front ∧ a ∉ back := by
  obtain ⟨front, back, rfl⟩ := List.append_of_mem h
  obtain ⟨-, rest, disjoint⟩ := List.nodup_append.mp nodup
  exact ⟨front, back, rfl, fun mem => disjoint _ mem _ List.mem_cons_self rfl, (List.nodup_cons.mp rest).1⟩

/-- The pass of the HOLDs is one battery's turn among turns that spare it. -/
theorem holdDischarging_turn {k : Nat} (hk : k < 6) {x : Shelf} (used : (bbmAt x k).isSome = true) :
    ∃ u, Spares k x u ∧ Spares k (holdStep u k) (holdDischarging x) := by
  have inUse : k ∈ bbmsInUse x := List.mem_filter.mpr ⟨List.mem_range.mpr hk, used⟩
  obtain ⟨front, back, split, before, after⟩ := split_of_nodup (List.nodup_range.filter _) inUse
  have acts : holdDischarging x = back.foldl holdStep (holdStep (front.foldl holdStep x) k) := by
    rw [holdDischarging_eq, bbmsInUse, split, List.foldl_append, List.foldl_cons]
  rw [acts]
  exact ⟨_, spares_foldl front (fun j hj => spares_holdStep (ne_of_mem_of_not_mem hj before)) x,
    spares_foldl back (fun j hj => spares_holdStep (ne_of_mem_of_not_mem hj after)) _⟩

/-- A battery without a rate is spared by the pass of the CHARGEs. -/
theorem spares_orderRate {k : Nat} {rates : List (Nat × Nat)} (unrated : ∀ rate, (k, rate) ∉ rates) (x : Shelf) :
    Spares k x (orderRate rates x) :=
  spares_foldl rates (fun p hp => spares_rateStep fun same : p.1 = k => unrated p.2 (same ▸ hp)) x

/-- The pass of the CHARGEs is a rate's turn among turns that spare its battery. -/
theorem orderRate_turn {k rate : Nat} {rates : List (Nat × Nat)} (nodup : (rates.map Prod.fst).Nodup)
    (h : (k, rate) ∈ rates) (x : Shelf) :
    ∃ u, Spares k x u ∧ Spares k (rateStep u (k, rate)) (orderRate rates x) := by
  obtain ⟨front, back, rfl⟩ := List.append_of_mem h
  rw [List.map_append, List.map_cons] at nodup
  obtain ⟨-, rest, disjoint⟩ := List.nodup_append.mp nodup
  have acts : orderRate (front ++ (k, rate) :: back) x =
      back.foldl rateStep (rateStep (front.foldl rateStep x) (k, rate)) := by
    rw [orderRate_eq, List.foldl_append, List.foldl_cons]
  rw [acts]
  have after : k ∉ back.map Prod.fst := (List.nodup_cons.mp rest).1
  exact ⟨_, spares_foldl front (fun p hp => spares_rateStep
      (disjoint p.1 (List.mem_map_of_mem hp) k List.mem_cons_self)) x,
    spares_foldl back (fun p hp => spares_rateStep (ne_of_mem_of_not_mem (List.mem_map_of_mem hp) after)) _⟩

/-- At its turn a DISCHARGING battery has a HOLD waiting or in flight (R55). -/
theorem holdStep_placed {k : Nat} {x : Shelf} {e : BbmEntry} (discharging : (vget x.bbms k).state = .discharging)
    (used : bbmAt x k = some e) (mine : rosterIs x e.roster .bbm k = true) (on : x.engSp.enabled = true)
    (own : ∀ o ∈ x.pollSp.control, o.target = .bbm k → o.code = 0x12 → o.roster = e.roster) :
    (∃ a, Waits (holdStep x k) k 0x12 a e.roster) ∨ isInFlight x (.bbm k) 0x12 = true := by
  unfold holdStep placeBbmOnce
  rw [if_pos discharging]
  split
  next placed =>
    obtain queued | flight := Bool.or_eq_true_iff.mp placed
    · obtain ⟨o, ho, is⟩ := List.any_eq_true.mp queued
      obtain ⟨target, code⟩ : o.target = .bbm k ∧ o.code = codeHold := by simpa using is
      exact .inl ⟨o.argument, o, ho, target, code, rfl, own o ho target code⟩
    · exact .inr flight
  next => exact .inl ⟨0, waits_placeBbm used mine on _ _⟩

/-- An order that waits under any Roster entry, or is in flight, is placed. -/
theorem isPlaced_of {x : Shelf} {k : Nat} {code : Byte}
    (h : (∃ a roster, Waits x k code a roster) ∨ isInFlight x (.bbm k) code = true) :
    isPlaced x (.bbm k) code = true := by
  refine Bool.or_eq_true_iff.mpr (h.imp_left ?_)
  rintro ⟨a, roster, o, ho, target, is, -⟩
  exact List.any_eq_true.mpr ⟨o, ho, by simp [target, is]⟩

/-- Every DISCHARGING battery has a HOLD queued or in flight after the evaluation (R55). -/
theorem holdOrdered_chargeEvaluation {k : Nat} (hk : k < 6) {x : Shelf} (normal : x.ride.state = .normal)
    (covered : x.balance.deficit = false) (discharging : (vget x.bbms k).state = .discharging) :
    BbmOrdered k 0x12 x (chargeEvaluation x) := by
  intro e used mine on own
  obtain ⟨u, before, after⟩ := holdDischarging_turn hk (Option.isSome_iff_exists.mpr ⟨e, used⟩)
  have unrated : ∀ rate, (k, rate) ∉ newRates x := fun rate h => by
    obtain ⟨takes, -⟩ := newRate_eq_some.mp (mem_newRates.mp h).2
    simp [takesCharge, discharging] at takes
  have last : Spares k (heldFor x) (chargeEvaluation x) :=
    chargeEvaluation_acts normal covered ▸ spares_orderRate unrated (heldFor x)
  have step := holdStep_placed (x := u) (before.record ▸ discharging) ((before.only.bbmAt k).trans used)
    ((before.only.rosterIs _ _ _).trans mine) (before.only.engSp ▸ on)
    fun o ho target => own o (before.own o ho target) target
  have mineHeld : rosterIs (heldFor x) e.roster .bbm k = true :=
    ((ordersOnly_holdDischarging x).rosterIs e.roster .bbm k).trans mine
  have mineStep : rosterIs (holdStep u k) e.roster .bbm k = true :=
    (after.only.rosterIs e.roster .bbm k).symm.trans mineHeld
  obtain ⟨a, waiting⟩ | flight := step
  · have held : Waits (heldFor x) k 0x12 a e.roster := after.waiting mineStep waiting
    exact isPlaced_of (.inl ⟨a, e.roster, last.waiting mineHeld held⟩)
  · refine isPlaced_of (.inr ?_)
    have progress : (chargeEvaluation x).pollSp.inProgress = u.pollSp.inProgress := by
      rw [last.inProgress, before.inProgress, heldFor_eq]
    unfold isInFlight at flight ⊢
    simpa only [targetPort, pollEngine, progress] using flight

/-! ### Nothing else is ordered -/

/-- A HOLD to a DISCHARGING battery (R55). -/
abbrev IsHold (x : Shelf) (k : Nat) (o : ControlOrder) : Prop :=
  o.code = 0x12 ∧ o.argument = 0 ∧ (vget x.bbms k).state = .discharging

/-- The pass of the HOLDs gains HOLDs alone. -/
theorem mem_control_holdDischarging {x : Shelf} {o : ControlOrder} (ho : o ∈ (holdDischarging x).pollSp.control) :
    o ∈ x.pollSp.control ∨ ∃ k < 6, o.target = .bbm k ∧ IsHold x k o := by
  let Gained := o ∈ x.pollSp.control ∨ ∃ k < 6, o.target = .bbm k ∧ IsHold x k o
  refine (List.foldlRecOn (motive := fun y => y.bbms = x.bbms ∧ (o ∈ y.pollSp.control → Gained)) (bbmsInUse x)
    holdStep ⟨rfl, .inl⟩ fun y ⟨same, gained⟩ k hk => ?_).2 ho
  obtain stays | ⟨discharging, placed⟩ := holdStep_cases y k
  · rw [stays]
    exact ⟨same, gained⟩
  · rw [placed]
    refine ⟨by rw [placeBbm_eq, same], fun ho => ?_⟩
    obtain before | ⟨target, code, argument⟩ := mem_control_placeBbm ho
    · exact gained before
    · exact .inr ⟨k, List.mem_range.mp (List.mem_filter.mp hk).1, target, code, argument, same ▸ discharging⟩

theorem rateStep_orders {x : Shelf} {k rate : Nat}
    (orders : rateOrdered (policy x).chargeStep rate (vget x.bbms k).ordered = true) :
    rateStep x (k, rate) =
      placeBbm k codeCharge rate { x with bbms := vmod x.bbms k fun r => { r with ordered := some rate } } :=
  if_pos orders

theorem rateStep_rests {x : Shelf} {k rate : Nat}
    (rests : rateOrdered (policy x).chargeStep rate (vget x.bbms k).ordered = false) : rateStep x (k, rate) = x :=
  if_neg (by simp [rests])

/-- The pass of the CHARGEs gains CHARGEs at new rates alone. -/
theorem mem_control_orderRate {rates : List (Nat × Nat)} {x : Shelf} {o : ControlOrder}
    (ho : o ∈ (orderRate rates x).pollSp.control) :
    o ∈ x.pollSp.control ∨ ∃ k, o.target = .bbm k ∧ o.code = 0x10 ∧ (k, o.argument) ∈ rates := by
  let Gained := o ∈ x.pollSp.control ∨ ∃ k, o.target = .bbm k ∧ o.code = 0x10 ∧ (k, o.argument) ∈ rates
  refine List.foldlRecOn (motive := fun y => o ∈ y.pollSp.control → Gained) rates rateStep .inl
    (fun y gained ⟨k, rate⟩ rated ho => ?_) ho
  cases orders : rateOrdered (policy y).chargeStep rate (vget y.bbms k).ordered with
  | false => exact gained (rateStep_rests orders ▸ ho)
  | true =>
    rw [rateStep_orders orders] at ho
    obtain before | ⟨target, code, rfl⟩ := mem_control_placeBbm ho
    · exact gained before
    · exact .inr ⟨k, target, code, rated⟩

/-- Beside the orders of before the evaluation places HOLDs and CHARGEs at new rates (R55, R57). -/
theorem mem_control_chargeEvaluation {x : Shelf} (normal : x.ride.state = .normal)
    (covered : x.balance.deficit = false) {o : ControlOrder} (ho : o ∈ (chargeEvaluation x).pollSp.control) :
    o ∈ x.pollSp.control ∨ ∃ k < 6, o.target = .bbm k ∧
      (IsHold x k o ∨ o.code = 0x10 ∧ (k, o.argument) ∈ newRates x) := by
  rw [chargeEvaluation_acts normal covered] at ho
  obtain held | ⟨k, target, code, rated⟩ := mem_control_orderRate ho
  · exact (mem_control_holdDischarging held).imp_right fun ⟨k, hk, target, hold⟩ => ⟨k, hk, target, .inl hold⟩
  · exact .inr ⟨k, (mem_newRates.mp rated).1, target, .inr ⟨code, rated⟩⟩

/-! ### A new rate is ordered (R57) -/

/-- The evaluation is a rate's turn among turns that spare its battery: at its turn the record, the tables and SP are
those of before. -/
theorem chargeEvaluation_turn {k rate : Nat} {x : Shelf} (normal : x.ride.state = .normal)
    (covered : x.balance.deficit = false) (rated : (k, rate) ∈ newRates x) :
    ∃ u, vget u.bbms k = vget x.bbms k ∧ u.tables = x.tables ∧ u.engSp = x.engSp ∧
      Spares k (rateStep u (k, rate)) (chargeEvaluation x) := by
  obtain ⟨u, before, after⟩ := orderRate_turn (nodup_newRates x) rated (heldFor x)
  rw [← chargeEvaluation_acts normal covered] at after
  have held := heldFor_eq x
  exact ⟨u, before.record.trans (congrArg (fun s => vget s.bbms k) held :),
    before.only.tables.trans (congrArg Shelf.tables held :), before.only.engSp.trans (congrArg Shelf.engSp held :),
    after⟩

/-- An ordered rate's CHARGE waits, where the battery can be ordered. -/
theorem charge_waits {k rate : Nat} {u y : Shelf} {e : BbmEntry} (after : Spares k (rateStep u (k, rate)) y)
    (orders : rateOrdered (policy u).chargeStep rate (vget u.bbms k).ordered = true) (used : bbmAt u k = some e)
    (mine : rosterIs u e.roster .bbm k = true) (on : u.engSp.enabled = true) : Waits y k 0x10 rate e.roster := by
  refine after.waiting (((ordersOnly_rateStep u (k, rate)).rosterIs _ _ _).trans mine) ?_
  rw [rateStep_orders orders]
  exact waits_placeBbm (x := { u with bbms := vmod u.bbms k fun r => { r with ordered := some rate } }) used mine on _ _

/-! ### O52 -/

/-- Settles O52: the rates by cases of their definition, and the evaluation as the turn of one battery among turns that
spare it. -/
theorem chargeWithinBudget : Obligations.ChargeWithinBudget := by
  intro x
  refine ⟨rfl, chargeBudgetOf_eq x, fun k rate => ?_, nodup_newRates x, sum_newRates_le x, rateOrdered_iff,
    chargeEvaluation_rests, fun normal covered => ?_⟩
  · rw [mem_newRates, newRate_eq_some]
    rfl
  · have acts := chargeEvaluation_acts normal covered
    refine ⟨?_, fun k hk _ => holdOrdered_chargeEvaluation hk normal covered,
      fun o => mem_control_chargeEvaluation normal covered, fun k hk unrated => ?_, fun k rate rated => ?_⟩
    · rw [acts]
      exact (congrArg Shelf.chargeBudget (ordersOnly_orderRate (newRates x) (heldFor x)) :)
    · rw [acts, (spares_orderRate unrated (heldFor x)).record, heldFor_eq]
    · obtain ⟨u, record, tables, engSp, after⟩ := chargeEvaluation_turn normal covered rated
      dsimp only
      rw [← policy_congr tables, ← record]
      refine ⟨fun rests => ?_, fun orders => ?_, fun orders e used mine on => ?_⟩
      · rw [rateStep_rests rests] at after
        exact after.record
      · rw [after.record, rateStep_orders orders, placeBbm_eq]
        exact vget_vset_self _ _ _ (mem_newRates.mp rated).1
      · obtain ⟨o, ho, target, code, argument, -⟩ := charge_waits after orders ((bbmAt_congr tables k).trans used)
          ((rosterIs_congr (tables ▸ rfl) _ _ _).trans mine) (engSp ▸ on)
        exact ⟨o, ho, target, code, argument⟩

end Sys2Proof.Machine
end


section
/-! PROOF. What every command keeps of the trays' two lists and of a ride's account and marks (R62, R68, R70, R76, R79,
R83, R92): the operations of the blocks keep every such property (`ClosedEvent`), so the resets remain. -/

namespace Sys2Proof.Machine

/-! ### The start queue and the restore stack (R76, R92) -/

/-- After a reset every tray is UNKNOWN (R87). -/
theorem state_resetBay (t : Nat) : (vget resetBay.trays t).state = .unknown := by
  by_cases ht : t < Config.trayCount
  · exact congrArg Tray.state (vget_replicate resetTray ht)
  · exact congrArg Tray.state (vget_default resetBay.trays (Nat.not_lt.mp ht))

theorem bayExact_resetBay : BayExact resetBay :=
  ⟨.nil, .nil, fun t => by rw [state_resetBay]; simp [resetBay],
    fun t => by rw [state_resetBay]; simp [resetBay, onStack]⟩

/-- The two lists change by moves alone, and a reset empties them. -/
theorem closedEvent_bayExact : ClosedEvent fun s => BayExact s.bay where
  free _ h := h
  links _ _ _ h := h
  polls _ _ _ _ h := h
  balance _ _ h := h
  bay _ exact h := exact h
  ride _ _ _ _ h := h
  seq _ _ h := h
  restart _ _ h := h
  rideOn _ _ _ _ h := h
  clock _ _ h := h
  tables _ h := h
  rx _ _ h := h
  pend _ h := h
  reset kind _ := by cases kind <;> exact bayExact_resetBay

/-- Settles O8: a tray's move takes it out of the list of its old state and into that of its new one
(`bayExact_moveTray`), and nothing else changes the lists or a tray's state. -/
theorem bayKept : Obligations.BayKept := fun c _ _ exact next =>
  closedEvent_bayExact.exec c exact next

/-! ### The account and the marks of a ride (R62, R68, R70, R79, R83) -/

/-- A property of the account alone that holds after a reset, and that each change which keeps E_rem within E_cap and the
marks in agreement keeps. -/
theorem closedEvent_ofRide {Q : Ride → Prop}
    (kept : ∀ {a b : Ride}, (EnergyOk a → EnergyOk b) → (RideMarks a → RideMarks b) → Q a → Q b)
    (reset : ∀ summary, Q { resetRide with closedSummary := summary }) : ClosedEvent fun s => Q s.ride where
  free _ h := h
  links _ _ _ h := h
  polls _ _ _ _ h := h
  balance _ _ h := h
  bay _ _ h := h
  ride _ energy marks _ h := kept energy marks h
  seq _ _ h := h
  restart _ _ h := h
  rideOn _ _ energy marks h := kept energy marks h
  clock _ _ h := h
  tables _ h := h
  rx _ _ h := h
  pend _ h := h
  reset {s} kind _ := by
    cases kind with
    | powerOn => exact reset none
    | line => exact reset none
    | restart => exact reset s.ride.closedSummary

/-- Settles O10: each change of the account takes from E_rem, or takes the smaller of a figure and E_cap. -/
theorem energyKept : Obligations.EnergyKept := fun c _ _ ok next =>
  (closedEvent_ofRide (fun energy _ => energy) fun _ => Nat.le_refl 0).exec c ok next

/-- After a reset the marks are those of NORMAL (R62). -/
theorem rideMarks_resetRide (summary : Option Summary) : RideMarks { resetRide with closedSummary := summary } :=
  ⟨Nat.zero_le _, ⟨fun _ => rfl, fun _ => rfl⟩, ⟨nofun, fun stopped => absurd rfl stopped⟩,
    fun stopped => absurd rfl stopped⟩

/-- Settles O11: a change of the ride state sets its marks with it, and no other change touches them. -/
theorem rideMarksKept : Obligations.RideMarksKept := fun c _ _ marks next =>
  (closedEvent_ofRide (fun _ marks => marks) rideMarks_resetRide).exec c marks next

/-! ### After a reset -/

/-- Settles O6: the store is erased, no tray is in a list, no queue holds anything, and every figure is 0. -/
theorem resetMeetsTheInvariants : Obligations.ResetMeetsTheInvariants := by
  have poll : PollBounded resetPoll := by decide
  have store : StoreOk newStore :=
    ⟨rfl, fun row h => by rw [show newStore.counts = .replicate 64 0 from rfl, vget_replicate _ h]; exact Nat.zero_le _⟩
  have queues : QueuesBounded State.reset.toShelf :=
    ⟨by decide, Nat.zero_le _, Nat.zero_le _, Nat.zero_le _, Nat.zero_le _, poll, poll⟩
  have work : NormalWork State.reset.toShelf := ⟨fun _ => rfl, fun _ => rfl⟩
  have balance : BalanceAgrees resetBalance := by decide
  exact ⟨store, bayExact_resetBay, Nat.le_refl 0, rideMarks_resetRide none, queues, balance, work⟩

end Sys2Proof.Machine
end


section
/-! PROOF. The Ride-Through Controller (O53 to O56): what a change of the ride state does, the orders to all batteries, the
energy account, the tick, and the ways into and out of a ride. -/

namespace Sys2Proof.Machine

/-! ### A change of the ride state (R65) -/

/-- Leaving NORMAL touches the sequencer, a pending restart with its mark on UP's frames, and the reactions alone. -/
theorem leaveNormal_eq (s : Shelf) :
    leaveNormal s = { s with
      seq := (holdSequencer s).seq, restart := none, replies := (leaveNormal s).replies
      replyWait := (leaveNormal s).replyWait, engUp := (leaveNormal s).engUp, raised := s.raised ++ [.chargeZero] } := by
  by_cases waiting : s.seq.state = .waiting <;> simp [leaveNormal, holdSequencer, dropRestart, emit, waiting]

/-- Reaching NORMAL leaves reactions for after the admission evaluation, and touches nothing else. -/
theorem reachNormal_eq (s : Shelf) : reachNormal s = { s with deferred := (reachNormal s).deferred } := by
  unfold reachNormal
  rw [postpone_eq]
  dsimp only
  split <;> rw [postpone_eq, postpone_eq]

/-- The Module Monitor and the sequencer are told that NORMAL is reached, in either order. -/
theorem deferred_reachNormal (s : Shelf) :
    Task.charge ∈ (reachNormal s).deferred ∧ Task.seqResume ∈ (reachNormal s).deferred := by
  have both (a b : Task) : a ∈ (postpone .autostartTest (postpone b (postpone a s))).deferred ∧
      b ∈ (postpone .autostartTest (postpone b (postpone a s))).deferred :=
    ⟨mem_deferred_postpone_of (mem_deferred_postpone_of (mem_deferred_postpone a s)),
      mem_deferred_postpone_of (mem_deferred_postpone b _)⟩
  unfold reachNormal
  dsimp only
  split
  · exact both .charge .seqResume
  · exact (both .seqResume .charge).symm

/-- A change of the ride state touches the account, the drive lines, the sequencer, a pending restart with its mark on
UP's frames, and the reactions alone. -/
theorem rideTo_eq (new : RideState) (f : Ride → Ride) (s : Shelf) :
    let y := rideTo new f s
    y = { s with
      ride := { f s.ride with state := new }
      drives := y.drives, seq := y.seq, restart := y.restart, replies := y.replies, replyWait := y.replyWait
      engUp := y.engUp, deferred := y.deferred, admitDue := true
      raised := s.raised ++ if s.ride.state = .normal ∧ new ≠ .normal then [.chargeZero] else [] } := by
  unfold rideTo
  dsimp only
  have set := setRide_eq (fun r => { f r with state := new }) s
  by_cases leaves : s.ride.state = .normal ∧ new ≠ .normal
  · rw [if_neg fun x => x.1 leaves.1, if_pos leaves, if_pos leaves, leaveNormal_eq, set]
    rfl
  · rw [if_neg leaves, if_neg leaves, List.append_nil]
    split
    · rw [reachNormal_eq, set]
      rfl
    · rw [set]
      rfl

section RideTo

variable (new : RideState) (f : Ride → Ride) (s : Shelf)

@[simp] theorem ride_rideTo : (rideTo new f s).ride = { f s.ride with state := new } :=
  (congrArg Shelf.ride (rideTo_eq new f s) :)

@[simp] theorem raised_rideTo : (rideTo new f s).raised =
    s.raised ++ if s.ride.state = .normal ∧ new ≠ .normal then [.chargeZero] else [] :=
  (congrArg Shelf.raised (rideTo_eq new f s) :)

@[simp] theorem tables_rideTo : (rideTo new f s).tables = s.tables := (congrArg Shelf.tables (rideTo_eq new f s) :)

@[simp] theorem bay_rideTo : (rideTo new f s).bay = s.bay := (congrArg Shelf.bay (rideTo_eq new f s) :)

@[simp] theorem zones_rideTo : (rideTo new f s).zones = s.zones := (congrArg Shelf.zones (rideTo_eq new f s) :)

@[simp] theorem balance_rideTo : (rideTo new f s).balance = s.balance := (congrArg Shelf.balance (rideTo_eq new f s) :)

@[simp] theorem bbms_rideTo : (rideTo new f s).bbms = s.bbms := (congrArg Shelf.bbms (rideTo_eq new f s) :)

@[simp] theorem pollSp_rideTo : (rideTo new f s).pollSp = s.pollSp := (congrArg Shelf.pollSp (rideTo_eq new f s) :)

@[simp] theorem notices_rideTo : (rideTo new f s).notices = s.notices := (congrArg Shelf.notices (rideTo_eq new f s) :)

@[simp] theorem shelfTime_rideTo : (rideTo new f s).shelfTime = s.shelfTime := (congrArg Shelf.shelfTime (rideTo_eq new f s) :)

@[simp] theorem admitDue_rideTo : (rideTo new f s).admitDue = true := (congrArg Shelf.admitDue (rideTo_eq new f s) :)

/-- The drive lines follow the new ride state (R11). -/
theorem drives_rideTo (n : Nat) (hn : n < 8) :
    vget (rideTo new f s).drives n = driveLevel (rideTo new f s) n := by
  let told := setRide (fun r => { f r with state := new }) s
  have kept : (rideTo new f s).drives = (setDrives told).drives := by
    unfold rideTo
    dsimp only
    by_cases leaves : s.ride.state = .normal ∧ new ≠ .normal
    · rw [if_neg fun x => x.1 leaves.1, if_pos leaves, leaveNormal_eq]
      rfl
    · rw [if_neg leaves]
      split
      · rw [reachNormal_eq]
        rfl
      · rfl
  have moved : told = { s with ride := { f s.ride with state := new }, deferred := told.deferred } := setRide_eq _ s
  have level : vget (setDrives told).drives n = driveLevel told n := vget_ofFn _ hn
  rw [kept, level]
  exact (driveLevel_congr (by rw [rideTo_eq, moved]) (by rw [rideTo_eq, moved]) (by rw [rideTo_eq, moved]) n).symm

/-- The sequencer is held as NORMAL is left, and a pending restart dropped (R116, R170). -/
theorem rideTo_leaves (normal : s.ride.state = .normal) (ride : new ≠ .normal) :
    (rideTo new f s).seq = (holdSequencer s).seq ∧ (rideTo new f s).restart = none := by
  have held (x : Shelf) (seq : x.seq = s.seq) (time : x.shelfTime = s.shelfTime) :
      (leaveNormal x).seq = (holdSequencer s).seq ∧ (leaveNormal x).restart = none := by
    rw [leaveNormal_eq]
    refine ⟨?_, rfl⟩
    unfold holdSequencer
    rw [seq, time]
    split
    · rfl
    · exact seq
  unfold rideTo
  dsimp only
  rw [if_neg fun x => x.1 normal, if_pos ⟨normal, ride⟩]
  exact held _ (by rw [setRide_eq]; rfl) (by rw [setRide_eq]; rfl)

/-- No other change touches the sequencer. -/
theorem seq_rideTo (stays : s.ride.state ≠ .normal) : (rideTo new f s).seq = s.seq := by
  unfold rideTo
  dsimp only
  rw [if_neg (fun x => stays x.1 : ¬(s.ride.state = .normal ∧ new ≠ .normal))]
  split
  · rw [reachNormal_eq, setRide_eq]
    rfl
  · rw [setRide_eq]
    rfl

/-- As NORMAL is reached the Module Monitor and the sequencer are told (R65). -/
theorem deferred_rideTo (ride : s.ride.state ≠ .normal) :
    Task.charge ∈ (rideTo .normal f s).deferred ∧ Task.seqResume ∈ (rideTo .normal f s).deferred := by
  unfold rideTo
  dsimp only
  rw [if_neg (fun x => ride x.1 : ¬(s.ride.state = .normal ∧ RideState.normal ≠ .normal)), if_pos ⟨ride, rfl⟩]
  exact deferred_reachNormal _

end RideTo

/-! ### Orders to all batteries (R64, R75, R80) -/

/-- One battery's turn as the batteries are ordered to discharge (R64). -/
def dischargeStep (s : Shelf) (k : Nat) : Shelf :=
  if (vget s.bbms k).state = .idle ∨ (vget s.bbms k).state = .charging then placeBbmOnce k codeDischarge s else s

theorem dischargeBatteries_eq_foldl (s : Shelf) : dischargeBatteries s = (usableBbms s).foldl dischargeStep s := rfl

/-- One battery's turn as the batteries are ordered to hold (R75, R80). -/
def stopDischargeStep (s : Shelf) (k : Nat) : Shelf :=
  if (vget s.bbms k).state = .discharging ∨ isPlaced s (.bbm k) codeDischarge then placeBbm k codeHold 0 s else s

theorem holdBatteries_eq_foldl (s : Shelf) : holdBatteries s = (bbmsInUse s).foldl stopDischargeStep s := rfl

theorem placeBbmOnce_cases (k : Nat) (code : Byte) (s : Shelf) :
    placeBbmOnce k code s = s ∨ placeBbmOnce k code s = placeBbm k code 0 s := by
  unfold placeBbmOnce
  split
  · exact .inl rfl
  · exact .inr rfl

theorem dischargeStep_cases (s : Shelf) (k : Nat) : dischargeStep s k = s ∨
    ((vget s.bbms k).state = .idle ∨ (vget s.bbms k).state = .charging) ∧
      dischargeStep s k = placeBbm k codeDischarge 0 s := by
  unfold dischargeStep
  split
  · exact (placeBbmOnce_cases k codeDischarge s).imp_right fun placed => ⟨‹_›, placed⟩
  · exact .inl rfl

theorem stopDischargeStep_cases (s : Shelf) (k : Nat) : stopDischargeStep s k = s ∨
    ((vget s.bbms k).state = .discharging ∨ isPlaced s (.bbm k) codeDischarge = true) ∧
      stopDischargeStep s k = placeBbm k codeHold 0 s := by
  unfold stopDischargeStep
  split
  · exact .inr ⟨‹_›, rfl⟩
  · exact .inl rfl

/-- A pass over batteries in which each turn orders that battery, for a reason, or does nothing. -/
structure OrderPass (code : Byte) (why : Shelf → Nat → Prop) (f : Shelf → Nat → Shelf) : Prop where
  turn : ∀ s k, f s k = s ∨ why s k ∧ f s k = placeBbm k code 0 s

theorem orderPass_discharge : OrderPass codeDischarge
    (fun s k => (vget s.bbms k).state = .idle ∨ (vget s.bbms k).state = .charging) dischargeStep :=
  ⟨dischargeStep_cases⟩

theorem orderPass_hold : OrderPass codeHold
    (fun s k => (vget s.bbms k).state = .discharging ∨ isPlaced s (.bbm k) codeDischarge = true) stopDischargeStep :=
  ⟨stopDischargeStep_cases⟩

/-- Between two states orders were placed to batteries, and no record changed. -/
abbrev Ordered (x y : Shelf) : Prop := OrdersOnly x y ∧ y.bbms = x.bbms

section OrderPass

variable {code : Byte} {why : Shelf → Nat → Prop} {f : Shelf → Nat → Shelf} {k : Nat} {l : List Nat}

theorem OrderPass.ordered_turn (pass : OrderPass code why f) (s : Shelf) (k : Nat) : Ordered s (f s k) := by
  obtain same | ⟨-, placed⟩ := pass.turn s k
  · rw [same]
    exact ⟨OrdersOnly.refl s, rfl⟩
  · rw [placed]
    exact ⟨ordersOnly_placeBbm k _ _ s, by rw [placeBbm_eq]⟩

theorem OrderPass.ordered (pass : OrderPass code why f) (l : List Nat) (x : Shelf) : Ordered x (l.foldl f x) :=
  keep_foldl (P := Ordered x) (fun s j ⟨only, bbms⟩ =>
    have ⟨only', bbms'⟩ := pass.ordered_turn s j
    ⟨only.trans only', bbms'.trans bbms⟩) l ⟨OrdersOnly.refl x, rfl⟩

theorem OrderPass.spares_turn (pass : OrderPass code why f) {j : Nat} (other : j ≠ k) (x : Shelf) :
    Spares k x (f x j) := by
  obtain same | ⟨-, placed⟩ := pass.turn x j
  · rw [same]
    exact Spares.refl k x
  · rw [placed]
    exact spares_placeBbm other _ _ x

/-- A pass is one battery's turn among turns that spare it. -/
theorem OrderPass.among (pass : OrderPass code why f) (nodup : l.Nodup) (mem : k ∈ l) (x : Shelf) :
    ∃ u, Spares k x u ∧ Spares k (f u k) (l.foldl f x) := by
  obtain ⟨front, back, rfl, before, after⟩ := split_of_nodup nodup mem
  rw [List.foldl_append, List.foldl_cons]
  exact ⟨_, spares_foldl front (fun j hj => pass.spares_turn (ne_of_mem_of_not_mem hj before)) x,
    spares_foldl back (fun j hj => pass.spares_turn (ne_of_mem_of_not_mem hj after)) _⟩

/-- A pass gains orders with its code alone, to batteries that had a reason at their turn. -/
theorem OrderPass.gains (pass : OrderPass code why f) {who : Nat → Prop} {x : Shelf}
    (asked : ∀ j ∈ l, ∀ s, Ordered x s → OnlyOrdered code who x s → why s j → j < 6 ∧ who j) :
    OnlyOrdered code who x (l.foldl f x) := by
  refine (l.foldlRecOn (motive := fun s => Ordered x s ∧ OnlyOrdered code who x s) f
    ⟨⟨OrdersOnly.refl x, rfl⟩, fun o ho => .inl ho⟩ fun s ⟨ordered, only⟩ j hj => ?_).2
  obtain same | ⟨reason, placed⟩ := pass.turn s j
  · rw [same]
    exact ⟨ordered, only⟩
  · have ⟨first, bbms⟩ := ordered
    have ⟨second, bbms'⟩ := pass.ordered_turn s j
    refine ⟨⟨first.trans second, bbms'.trans bbms⟩, fun o ho => ?_⟩
    rw [placed] at ho
    obtain before | ⟨target, is, argument⟩ := mem_control_placeBbm ho
    · exact only o before
    · obtain ⟨hj, asks⟩ := asked j hj s ordered only reason
      exact .inr ⟨j, hj, asks, target, is, argument⟩

/-- An order that waits or is in flight after a battery's turn is placed when the pass is over. -/
theorem OrderPass.placed (pass : OrderPass code why f) {x u : Shelf} {roster : Nat} (before : Spares k x u)
    (after : Spares k (f u k) (l.foldl f x)) (mine : rosterIs x roster .bbm k = true)
    (turn : (∃ a, Waits (f u k) k code a roster) ∨ isInFlight u (.bbm k) code = true) :
    isPlaced (l.foldl f x) (.bbm k) code = true := by
  obtain ⟨only, -⟩ := pass.ordered_turn u k
  have mineTurn : rosterIs (f u k) roster .bbm k = true :=
    (only.rosterIs _ _ _).trans ((before.only.rosterIs _ _ _).trans mine)
  obtain ⟨a, waiting⟩ | flight := turn
  · exact isPlaced_of (.inl ⟨a, roster, after.waiting mineTurn waiting⟩)
  · refine isPlaced_of (.inr ?_)
    have progress : (l.foldl f x).pollSp.inProgress = u.pollSp.inProgress :=
      after.inProgress.trans (congrArg (fun s => s.pollSp.inProgress) only :)
    unfold isInFlight at flight ⊢
    simpa only [targetPort, pollEngine, progress] using flight

end OrderPass

/-- Where the queues of SP are the same, the same orders to batteries are queued or in flight. -/
theorem isPlaced_bbm_congr {x y : Shelf} (h : y.pollSp = x.pollSp) (k : Nat) (code : Byte) :
    isPlaced y (.bbm k) code = isPlaced x (.bbm k) code := by
  simp only [isPlaced, isQueued, isInFlight, targetPort, pollEngine, h]

/-- An order placed once waits, or one of its code is queued or in flight already. -/
theorem placeBbmOnce_placed {k : Nat} {x : Shelf} {e : BbmEntry} {code : Byte} (used : bbmAt x k = some e)
    (mine : rosterIs x e.roster .bbm k = true) (on : x.engSp.enabled = true)
    (own : ∀ o ∈ x.pollSp.control, o.target = .bbm k → o.code = code → o.roster = e.roster) :
    (∃ a, Waits (placeBbmOnce k code x) k code a e.roster) ∨ isInFlight x (.bbm k) code = true := by
  unfold placeBbmOnce
  split
  next placed =>
    obtain queued | flight := Bool.or_eq_true_iff.mp placed
    · obtain ⟨o, ho, is⟩ := List.any_eq_true.mp queued
      obtain ⟨target, same⟩ : o.target = .bbm k ∧ o.code = code := by simpa using is
      exact .inl ⟨o.argument, o, ho, target, same, rfl, own o ho target same⟩
    · exact .inr flight
  next => exact .inl ⟨0, waits_placeBbm used mine on _ _⟩

theorem mem_usableBbms {x : Shelf} {k : Nat} : k ∈ usableBbms x ↔ k < 6 ∧ usable x k = true := by
  simp [usableBbms, Config.bbmCount]

theorem mem_bbmsInUse_iff {x : Shelf} {k : Nat} : k ∈ bbmsInUse x ↔ k < 6 ∧ (bbmAt x k).isSome = true := by
  simp [bbmsInUse, Config.bbmCount]

/-- Ordering the batteries to discharge touches SP's control queue and the reactions alone. -/
theorem dischargeBatteries_eq (x : Shelf) : dischargeBatteries x =
    { x with pollSp := (dischargeBatteries x).pollSp, raised := (dischargeBatteries x).raised } := by
  obtain ⟨only, bbms⟩ := orderPass_discharge.ordered (usableBbms x) x
  rw [dischargeBatteries_eq_foldl, only, bbms]

/-- Ordering the batteries to hold touches SP's control queue and the reactions alone. -/
theorem holdBatteries_eq (x : Shelf) : holdBatteries x =
    { x with pollSp := (holdBatteries x).pollSp, raised := (holdBatteries x).raised } := by
  obtain ⟨only, bbms⟩ := orderPass_hold.ordered (bbmsInUse x) x
  rw [holdBatteries_eq_foldl, only, bbms]

/-- Every usable battery in IDLE or CHARGING is ordered to discharge, and no other (R64). -/
theorem dischargeOrdered {x y : Shelf} (queue : y.pollSp = (dischargeBatteries x).pollSp) : DischargeOrdered x y := by
  refine ⟨queue, fun k hk who e used mine on own => ?_, fun o ho => ?_⟩
  · obtain ⟨able, state⟩ := who
    obtain ⟨u, before, after⟩ := orderPass_discharge.among (List.nodup_range.filter _)
      (mem_usableBbms.mpr ⟨hk, able⟩) x
    rw [isPlaced_bbm_congr queue]
    refine orderPass_discharge.placed before after mine ?_
    rw [dischargeStep, if_pos (before.record ▸ state)]
    exact placeBbmOnce_placed ((before.only.bbmAt k).trans used) ((before.only.rosterIs _ _ _).trans mine)
      (before.only.engSp ▸ on) fun o ho target => own o (before.own o ho target) target
  · rw [queue, dischargeBatteries_eq_foldl] at ho
    refine orderPass_discharge.gains (fun j hj s ⟨_, bbms⟩ _ state => ?_) o ho
    obtain ⟨small, able⟩ := mem_usableBbms.mp hj
    exact ⟨small, able, bbms ▸ state⟩

/-- An order that waits for a battery under its Roster entry, or is in flight, is spared. -/
theorem Spares.isPlaced {k : Nat} {x y : Shelf} {code : Byte} {roster : Nat} (spared : Spares k x y)
    (mine : rosterIs x roster .bbm k = true) (placed : isPlaced x (.bbm k) code = true)
    (own : ∀ o ∈ x.pollSp.control, o.target = .bbm k → o.code = code → o.roster = roster) :
    isPlaced y (.bbm k) code = true := by
  obtain queued | flight := Bool.or_eq_true_iff.mp placed
  · obtain ⟨o, ho, is⟩ := List.any_eq_true.mp queued
    obtain ⟨target, same⟩ : o.target = .bbm k ∧ o.code = code := by simpa using is
    exact isPlaced_of (.inl ⟨o.argument, roster,
      spared.waiting mine ⟨o, ho, target, same, rfl, own o ho target same⟩⟩)
  · refine isPlaced_of (.inr ?_)
    unfold isInFlight at flight ⊢
    simpa only [targetPort, pollEngine, spared.inProgress] using flight

/-- Every battery in DISCHARGING or with a DISCHARGE queued or in flight is ordered to hold, and no other (R75, R80). -/
theorem holdOrdered {x y : Shelf} (queue : y.pollSp = (holdBatteries x).pollSp) : HoldOrdered x y := by
  have turn {k : Nat} {e : BbmEntry} (hk : k < 6) (used : bbmAt x k = some e)
      (mine : rosterIs x e.roster .bbm k = true) (on : x.engSp.enabled = true)
      (reason : ∀ u, Spares k x u →
        (vget u.bbms k).state = .discharging ∨ isPlaced u (.bbm k) codeDischarge = true) :
      isPlaced y (.bbm k) codeHold = true := by
    obtain ⟨u, before, after⟩ := orderPass_hold.among (List.nodup_range.filter _)
      (mem_bbmsInUse_iff.mpr ⟨hk, Option.isSome_iff_exists.mpr ⟨e, used⟩⟩) x
    rw [isPlaced_bbm_congr queue]
    refine orderPass_hold.placed before after mine (.inl ⟨0, ?_⟩)
    rw [stopDischargeStep, if_pos (reason u before)]
    exact waits_placeBbm ((before.only.bbmAt k).trans used) ((before.only.rosterIs _ _ _).trans mine)
      (before.only.engSp ▸ on) _ _
  refine ⟨queue, fun k hk state e used mine on _ => turn hk used mine on fun u spared => .inl (spared.record ▸ state),
    fun k hk placed own e used mine on _ => turn hk used mine on fun u spared =>
      .inr (spared.isPlaced mine placed (own e used)), fun o ho => ?_⟩
  rw [queue, holdBatteries_eq_foldl] at ho
  refine orderPass_hold.gains (fun j hj s ⟨only, bbms⟩ gained reason => ?_) o ho
  refine ⟨(mem_bbmsInUse_iff.mp hj).1, reason.imp (bbms ▸ ·) fun placed => ?_⟩
  refine Bool.or_eq_true_iff.mpr ((Bool.or_eq_true_iff.mp placed).imp (fun queued => ?_) fun flight => ?_)
  · obtain ⟨p, hp, is⟩ := List.any_eq_true.mp queued
    obtain before | ⟨_, -, -, -, hold, -⟩ := gained p hp
    · exact List.any_eq_true.mpr ⟨p, before, is⟩
    · simp [hold, codeHold, codeDischarge] at is
  · rw [only] at flight
    exact flight

/-! ### The ways into RIDE (R63, R64, R81) -/

/-- The reactions of an entry to RIDE: the batteries are ordered to discharge, the STARTING trays are to be shed in
ascending index, and RIDE-ENTER is to be posted (R64, R81). -/
def enteringRide (d : Nat) (x : Shelf) : Shelf := emit (.postRideEnter d) (shedStarting (dischargeBatteries x))

theorem enteringRide_eq (d : Nat) (x : Shelf) : enteringRide d x =
    { x with
      pollSp := (dischargeBatteries x).pollSp
      raised := (dischargeBatteries x).raised ++ (traysIn x .starting).map Task.shed ++ [.postRideEnter d] } := by
  unfold enteringRide shedStarting
  rw [dischargeBatteries_eq]
  rfl

/-- In NORMAL a record acts with DEFICIT alone (R63). -/
theorem rideRecord_normal {x : Shelf} (normal : x.ride.state = .normal) (deficit line ok : Bool) (d : Nat) :
    rideRecord deficit line ok d x = if deficit then enterRide line d x else x := by simp [rideRecord, normal]

/-- In RETURNING a record acts with DEFICIT alone (R81). -/
theorem rideRecord_returning {x : Shelf} (returning : x.ride.state = .returning) (deficit line ok : Bool) (d : Nat) :
    rideRecord deficit line ok d x = if deficit then secondLoss d x else x := by simp [rideRecord, returning]

/-- In RIDE and DEPLETED a record sets the qualify timer alone (R79). -/
theorem rideRecord_ride {x : Shelf} (ride : x.ride.state = .ride ∨ x.ride.state = .depleted) (deficit line ok : Bool)
    (d : Nat) : rideRecord deficit line ok d x = qualifyStep ok x := by
  obtain ride | depleted := ride
  · simp [rideRecord, ride]
  · simp [rideRecord, depleted]

/-- The trays in a state, each once in ascending index. -/
theorem traysIn_ascending (x : Shelf) (st : TrayState) : (traysIn x st).Pairwise (· < ·) :=
  (List.pairwise_lt_range.filter _).filter _

/-- A WAITING sequencer is HELD (R116). -/
theorem holdSequencer_cases (s : Shelf) :
    (s.seq.state = .waiting → (holdSequencer s).seq.state = .held) ∧
      (s.seq.state ≠ .waiting → (holdSequencer s).seq = s.seq) := by
  unfold holdSequencer
  exact ⟨fun waiting => by rw [if_pos waiting], fun other => by rw [if_neg other]⟩

section Entering

variable (d : Nat) (x : Shelf)

@[simp] theorem ride_enteringRide : (enteringRide d x).ride = x.ride := by rw [enteringRide_eq]

@[simp] theorem bay_enteringRide : (enteringRide d x).bay = x.bay := by rw [enteringRide_eq]

@[simp] theorem seq_enteringRide : (enteringRide d x).seq = x.seq := by rw [enteringRide_eq]

@[simp] theorem zones_enteringRide : (enteringRide d x).zones = x.zones := by rw [enteringRide_eq]

@[simp] theorem tables_enteringRide : (enteringRide d x).tables = x.tables := by rw [enteringRide_eq]

@[simp] theorem balance_enteringRide : (enteringRide d x).balance = x.balance := by rw [enteringRide_eq]

@[simp] theorem notices_enteringRide : (enteringRide d x).notices = x.notices := by rw [enteringRide_eq]

@[simp] theorem pollSp_enteringRide : (enteringRide d x).pollSp = (dischargeBatteries x).pollSp := by
  rw [enteringRide_eq]

@[simp] theorem raised_enteringRide : (enteringRide d x).raised =
    (dischargeBatteries x).raised ++ (traysIn x .starting).map Task.shed ++ [.postRideEnter d] := by
  rw [enteringRide_eq]

end Entering

/-- Settles O53: a record with DEFICIT in NORMAL enters RIDE, by one change of the ride state after the orders and the
reactions of the entry. -/
theorem rideBegins : Obligations.RideBegins := by
  intro x line ok d normal
  refine ⟨by rw [rideRecord_normal normal]; rfl, fun st => ⟨traysIn_ascending x st, fun t => mem_traysIn⟩, ?_⟩
  have enters : rideRecord true line ok d x = rideTo .ride _ (enteringRide d x) :=
    rideRecord_normal normal true line ok d
  have raised : (rideRecord true line ok d x).raised = (enteringRide d x).raised ++ [.chargeZero] := by
    rw [enters, raised_rideTo, ride_enteringRide, if_pos ⟨normal, by decide⟩]
  obtain ⟨seq, restart⟩ := rideTo_leaves .ride _ (enteringRide d x) (by rwa [ride_enteringRide]) (by decide)
  have waiting := holdSequencer_cases (enteringRide d x)
  rw [← seq, seq_enteringRide] at waiting
  rw [raised_enteringRide, List.append_assoc _ _ [Task.chargeZero]] at raised
  rw [← enters] at restart waiting
  dsimp only
  refine ⟨?_, raised, dischargeOrdered ?_, ?_, ?_, restart, waiting.1, waiting.2, ?_, ?_, ?_, ?_, fun z => rfl⟩
  all_goals rw [enters]
  · rw [ride_rideTo, ride_enteringRide]
    rfl
  · simp
  · simp
  · exact drives_rideTo .ride _ _
  all_goals simp

/-! ### The energy account (R62, R66, R67, R69, R70) -/

theorem rideNormal_iff (x : Shelf) : rideNormal x = true ↔ x.ride.state = .normal := decide_eq_true_iff

theorem usable_iff (x : Shelf) (k : Nat) : usable x k = true ↔
    (bbmAt x k).isSome = true ∧ (vget x.bbms k).state ≠ .absent ∧ (vget x.bbms k).state ≠ .fault := by
  simp [usable, and_assoc]

theorem unusableState_iff (st : BbmState) : unusableState st = true ↔ st = .absent ∨ st = .fault := by
  simp [unusableState]

/-- E_cap is formed anew and E_rem clamped to it; in NORMAL E_rem is what the energy signals hold, within E_cap (R67,
R70). -/
theorem ride_recomputeCapacity (x : Shelf) : (recomputeCapacity x).ride =
    if rideNormal x then
      { x.ride with eCap := energyCapacity x, eRem := min (energyCapacity x) (storedEnergy x), r := 0 }
    else { x.ride with eCap := energyCapacity x, eRem := min x.ride.eRem (energyCapacity x) } := by
  unfold recomputeCapacity
  rw [energyUpdate_ride, setRide_eq]
  rfl

/-- A battery lost outside NORMAL takes its share of what remains (R69). -/
theorem ride_batteryLost (k : Nat) (x : Shelf) : (batteryLost k x).ride =
    if rideNormal x then x.ride else lossOf k x.ride := by
  unfold batteryLost
  split
  · rfl
  · exact ride_setRide _ x

/-- The orders that follow a battery's change leave the account. -/
theorem ride_rideOrders (k : Nat) (x : Shelf) : (rideOrders k x).ride = x.ride := by rw [(rideOrders_eq k x).1]

/-- The account after a battery's change: the battery that goes takes its share, and one that goes or comes changes
E_cap (R67, R69). -/
theorem ride_rideBattery (k : Nat) (old new : BbmState) (x : Shelf) : (rideBattery k old new x).ride =
    if unusableState old then (recomputeCapacity x).ride
    else if unusableState new then (recomputeCapacity (batteryLost k x)).ride else x.ride := by
  unfold rideBattery
  rw [ride_rideOrders]
  cases unusableState old <;> cases unusableState new <;> rfl

/-- Settles O55. -/
theorem energyAccounted : Obligations.EnergyAccounted := by
  have lost (x : Shelf) (k : Nat) : _ := ride_batteryLost k x
  refine ⟨fun x => ⟨usable_iff x, fun _ => rfl, rfl, fun normal => ?_, fun ride => ?_⟩, fun x k hk =>
    ⟨fun normal => ?_, fun ride => ?_, fun old new => ⟨fun here gone => ?_, fun gone => ?_, fun here stays => ?_,
      rideBattery_ordered hk old new x x rfl rfl rfl rfl⟩⟩⟩
  · rw [energyUpdate_ride, ride_recomputeCapacity, if_pos ((rideNormal_iff x).mpr normal),
      if_pos ((rideNormal_iff x).mpr normal)]
    exact ⟨rfl, rfl⟩
  · have other : ¬rideNormal x = true := mt (rideNormal_iff x).mp ride
    rw [ride_recomputeCapacity, if_neg other]
    exact ⟨if_neg other, rfl⟩
  · exact if_pos ((rideNormal_iff x).mpr normal)
  · rw [ride_batteryLost, if_neg (mt (rideNormal_iff x).mp ride)]
    rfl
  · rw [ride_rideBattery, if_neg (mt (unusableState_iff old).mp here), if_pos ((unusableState_iff new).mpr gone)]
  · rw [ride_rideBattery, if_pos ((unusableState_iff old).mpr gone)]
  · rw [ride_rideBattery, if_neg (mt (unusableState_iff old).mp here), if_neg (mt (unusableState_iff new).mp stays)]

/-! ### The ways back to NORMAL (R79 to R82) -/

/-- A timer's event that is due acts on the state in which it has begun. -/
theorem event_acts {e : Ambient} {s : State} {f g : Shelf → Shelf}
    (acts : f (opening e s).toShelf = g (opening e s).toShelf) : event e f s = closing (onShelf g (opening e s)) := by
  unfold event onShelf
  rw [acts]

theorem qualifyDue_opening {e : Ambient} {s : State} {t : Time} (ride : s.ride.state = .ride ∨ s.ride.state = .depleted)
    (timer : s.ride.qualify = some t)
    (due : reached (s.shelfTime + e.elapsed) (t + BitVec.ofNat 32 (1000 * (policy s.toShelf).qualifyTime)) = true) :
    qualifyDue (opening e s).toShelf = true := by
  rw [Nat.mul_comm] at due
  refine Bool.and_eq_true_iff.mpr ⟨Bool.or_eq_true_iff.mpr (ride.imp decide_eq_true decide_eq_true), ?_⟩
  change s.ride.qualify.any _ = true
  rw [timer]
  exact due

section Holding

variable (x : Shelf)

@[simp] theorem bay_holdBatteries : (holdBatteries x).bay = x.bay := by rw [holdBatteries_eq]

@[simp] theorem seq_holdBatteries : (holdBatteries x).seq = x.seq := by rw [holdBatteries_eq]

@[simp] theorem balance_holdBatteries : (holdBatteries x).balance = x.balance := by rw [holdBatteries_eq]

@[simp] theorem notices_holdBatteries : (holdBatteries x).notices = x.notices := by rw [holdBatteries_eq]

end Holding

/-- RETURNING is entered by one change of the ride state, with the batteries ordered to hold (R80). -/
theorem enterReturning_spec {x : Shelf} (ride : x.ride.state = .ride ∨ x.ride.state = .depleted) :
    let y := enterReturning x
    y.ride = { x.ride with
      state := .returning, tick := none, qualify := none
      openSummary := x.ride.openSummary.map fun z => { z with returnTime := some x.shelfTime } } ∧
    y.notices = offerNotice
      { time := x.shelfTime, source := 5, index := 0, code := 5, more := false
        word1 := x.bay.stack.length, word2 := min (x.balance.sGrid - x.balance.m) 65535 }
      x.notices ∧
    y.raised = (holdBatteries x).raised ++ [.stackChanged] ∧ HoldOrdered x y ∧ y.admitDue = true ∧
    y.bay = x.bay ∧ y.seq = x.seq ∧ y.balance = x.balance := by
  have left : (holdBatteries x).ride.state ≠ .normal := by
    rw [ride_holdBatteries]
    obtain ride | depleted := ride
    · rw [ride]
      decide
    · rw [depleted]
      decide
  dsimp only
  unfold enterReturning
  refine ⟨?_, ?_, ?_, holdOrdered ?_, ?_, ?_, ?_, ?_⟩
  · simp [editSummary, ride_holdBatteries]
  · simp [post, emit, srcRide, ntRideReturn, sat16]
  · simp [emit, left]
  · simp
  · simp
  · simp
  · simp [seq_rideTo _ _ _ left]
  · simp

/-- A second loss is one change of the ride state after the orders and the reactions of an entry to RIDE (R81). -/
theorem secondLoss_spec {x : Shelf} (returning : x.ride.state = .returning) (d : Nat) :
    let y := secondLoss d x
    y.ride = { x.ride with
      state := .ride, tick := some (x.shelfTime + 10000)
      openSummary := x.ride.openSummary.map fun z => { z with returns := min (z.returns + 1) 65535 } } ∧
    y.raised = (dischargeBatteries x).raised ++ (traysIn x .starting).map Task.shed ++
      [.postRideEnter d] ∧ DischargeOrdered x y ∧
    y.bay = x.bay ∧ y.seq = x.seq ∧ y.balance = x.balance ∧ y.notices = x.notices := by
  have left : (enteringRide d x).ride.state ≠ .normal := by
    rw [ride_enteringRide, returning]
    decide
  have acts : secondLoss d x = rideTo .ride _ (enteringRide d x) := rfl
  dsimp only
  rw [acts]
  refine ⟨?_, ?_, dischargeOrdered ?_, ?_, ?_, ?_, ?_⟩
  · simp [editSummary, satInc, Config.tickPeriod]
  · simp [returning]
  · simp
  · simp
  · simp [seq_rideTo _ _ _ left]
  · simp
  · simp

/-- NORMAL is entered by one change of the ride state, which closes the summary and the account (R82). -/
theorem enterNormal_spec {x : Shelf} (returning : x.ride.state = .returning) :
    let y := enterNormal x
    let used := x.ride.eAnchor - x.ride.eRem
    y.ride = { x.ride with
      state := .normal
      closedSummary := x.ride.openSummary.map fun z =>
        { z with normalTime := some x.shelfTime, used := some used }
      openSummary := none
      eRem := min x.ride.eCap (storedEnergy x), r := 0, eAnchor := 0
      shares := Vector.replicate 6 0, qualify := none, tick := none } ∧
    y.notices = offerNotice
      { time := x.shelfTime, source := 5, index := 0, code := 6, more := false
        word1 := (x.ride.openSummary.map (·.shedCount)).getD 0
        word2 := min (used / 1000) 65535 } x.notices ∧
    y.admitDue = true ∧ Task.charge ∈ y.deferred ∧ Task.seqResume ∈ y.deferred ∧
    (∀ n < 8, vget y.drives n = driveLevel y n) ∧
    y.bay = x.bay ∧ y.seq = x.seq ∧ y.balance = x.balance ∧ y.bbms = x.bbms := by
  have left : x.ride.state ≠ .normal := by
    rw [returning]
    decide
  dsimp only
  unfold enterNormal
  dsimp only
  obtain ⟨charge, resume⟩ := deferred_rideTo (fun r => { r with
    closedSummary := r.openSummary.map fun z =>
      { z with normalTime := some x.shelfTime, used := some (x.ride.eAnchor - x.ride.eRem) }
    openSummary := none
    eRem := min r.eCap (storedEnergy x), r := 0, eAnchor := 0
    shares := Vector.replicate 6 0, qualify := none, tick := none }) x left
  refine ⟨?_, ?_, ?_, charge, resume, fun n hn => ?_, ?_, ?_, ?_, ?_⟩
  · simp
  · simp [post, srcRide, ntRideNormal, sat16]
  · simp
  · exact drives_rideTo .normal _ x n hn
  · simp
  · simp [seq_rideTo _ _ _ left]
  · simp
  · simp

/-- Settles O56: each of the three is one change of the ride state, and the qualify timer's expiry enters RETURNING. -/
theorem rideReturns : Obligations.RideReturns := by
  refine ⟨fun e s t ride timer due => ?_, fun x ride => enterReturning_spec ride, fun x line ok d returning => ?_,
    fun x => ⟨fun other => ?_, fun returning empty => ?_⟩, fun x ok d ride deficit line => ?_⟩
  · exact congrArg Host.Outcome.next (event_acts (if_pos (qualifyDue_opening ride timer due)))
  · rw [rideRecord_returning returning, rideRecord_returning returning]
    exact ⟨rfl, secondLoss_spec returning d⟩
  · refine if_neg fun both => ?_
    obtain ⟨returning, empty⟩ := both
    exact other.elim (· returning) (· empty)
  · rw [stackChanged, if_pos ⟨returning, empty⟩]
    exact enterNormal_spec returning
  · rw [rideRecord_ride ride]
    rfl

end Sys2Proof.Machine
end


section
/-! PROOF. The energy tick (O54): the debit, the trays in ascending shed rank, the overload shedding, and the two ways a tick
ends (R68, R71 to R75). -/

namespace Sys2Proof.Machine

/-! ### The debit (R68) -/

/-- A debit takes whole joules and keeps the hundredths that are left over, or takes what there is. -/
theorem debit_spec (d : Nat) (r : Ride) :
    let q := debit d r
    q.r ≤ 99 ∧
      ((r.r + d) / 100 ≤ r.eRem → 100 * (r.eRem - q.eRem) + q.r = r.r + d) ∧
      (r.eRem < (r.r + d) / 100 → q.eRem = 0) ∧ q = { r with eRem := q.eRem, r := q.r } := by
  simp only [debit]
  exact ⟨by omega, by omega, by omega, trivial⟩

/-! ### The trays in ascending shed rank (R72, R73) -/

/-- A tray's shed rank, 0 where it is not in use. -/
abbrev shedRankOf (x : Shelf) (t : Nat) : Nat := ((trayAt x t).map (·.shedRank)).getD 0

/-- The tray that a rank finds is an ON tray of that rank. -/
theorem found_by_rank {x : Shelf} {rank t : Nat}
    (found : (traysIn x .on).find? (fun t => (trayAt x t).any fun e => e.shedRank = rank) = some t) :
    t ∈ traysIn x .on ∧ shedRankOf x t = rank := by
  refine ⟨List.mem_of_find?_eq_some found, ?_⟩
  obtain ⟨e, entry, same⟩ := (Option.any_eq_true _ _).mp
    (List.find?_some (p := fun t => (trayAt x t).any fun e => e.shedRank = rank) found)
  rw [shedRankOf, entry]
  exact of_decide_eq_true same

theorem mem_onByRank {x : Shelf} {t : Nat} : t ∈ onByRank x ↔
    ∃ rank < 24, (traysIn x .on).find? (fun t => (trayAt x t).any fun e => e.shedRank = rank) = some t := by
  simp [onByRank, List.mem_filterMap, Config.trayCount]

theorem onByRank_ascending (x : Shelf) : (onByRank x).Pairwise fun a b => shedRankOf x a < shedRankOf x b := by
  refine List.pairwise_lt_range.filterMap _ fun r q less a ha b hb => ?_
  rw [(found_by_rank ha).2, (found_by_rank hb).2]
  exact less

/-- The shed rank of an in-use tray is below 24 (R86). -/
theorem shedRank_le {x : Shelf} {t : Nat} {e : TrayEntry} (entry : trayAt x t = some e) : e.shedRank ≤ 23 := by
  simp only [trayAt, decodeTray, Option.ite_none_right_eq_some, Option.some.injEq] at entry
  obtain ⟨⟨-, -, -, -, -, -, rank, -⟩, rfl⟩ := entry
  exact rank

/-- Where no two in-use trays share a rank, every ON tray is found. -/
theorem mem_onByRank_of_on {x : Shelf} {t : Nat}
    (unique : ∀ a b, (a < 24 ∧ (trayAt x a).isSome = true) → (b < 24 ∧ (trayAt x b).isSome = true) →
      shedRankOf x a = shedRankOf x b → a = b)
    (used : t < 24 ∧ (trayAt x t).isSome = true) (on : trayState x t = .on) : t ∈ onByRank x := by
  obtain ⟨e, entry⟩ := Option.isSome_iff_exists.mp used.2
  refine mem_onByRank.mpr ⟨e.shedRank, Nat.lt_succ_of_le (shedRank_le entry), ?_⟩
  obtain ⟨u, found⟩ : ∃ u, (traysIn x .on).find? (fun t => (trayAt x t).any fun a => a.shedRank = e.shedRank) = some u :=
    Option.isSome_iff_exists.mp (List.find?_isSome.mpr
      ⟨t, mem_traysIn.mpr ⟨used.1, used.2, on⟩, by simp [entry]⟩)
  obtain ⟨member, rank⟩ := found_by_rank found
  obtain ⟨small, inUse, -⟩ := mem_traysIn.mp member
  rw [found, unique u t ⟨small, inUse⟩ used (by rw [rank, shedRankOf, entry]; rfl)]

/-! ### The overload shedding (R72) -/

/-- Trays are shed from the front, one while the batteries cannot carry what is left, until they can or none is left. -/
theorem overloadShed_spec (x : Shelf) (bMax : Nat) : ∀ (trays : List Nat) (dProj : Nat),
    let shed := overloadShed x bMax trays dProj
    ∃ rest, trays = shed.1 ++ rest ∧ (rest = [] ∨ shed.2 ≤ bMax) ∧
      shed.2 = shed.1.foldl (fun d t => d - trayAllocation x t) dProj ∧
      ∀ front t back, shed.1 = front ++ t :: back →
        bMax < front.foldl (fun d t => d - trayAllocation x t) dProj
  | [], dProj => ⟨[], rfl, .inl rfl, rfl, fun front t back h => by simp [overloadShed] at h⟩
  | t :: trays, dProj => by
    dsimp only
    rw [overloadShed]
    split
    case isTrue heavy =>
      obtain ⟨rest, split, ends, left, each⟩ := overloadShed_spec x bMax trays (dProj - trayAllocation x t)
      refine ⟨rest, by rw [List.cons_append, ← split], ends, left, fun front u back h => ?_⟩
      cases front with
      | nil => exact heavy
      | cons v front =>
        obtain ⟨rfl, rest⟩ := List.cons.inj h
        exact each front u back rest
    case isFalse light =>
      exact ⟨t :: trays, rfl, .inr (Nat.not_lt.mp light), rfl, fun front u back h => by simp at h⟩

/-! ### The tick (R68, R71, R73, R75) -/

theorem tickDue_opening {e : Ambient} {s : State} {t : Time} (ride : s.ride.state = .ride) (timer : s.ride.tick = some t)
    (due : reached (s.shelfTime + e.elapsed) t = true) : tickDue (opening e s).toShelf = true := by
  refine Bool.and_eq_true_iff.mpr ⟨decide_eq_true ride, ?_⟩
  change s.ride.tick.any _ = true
  rw [timer]
  exact due

/-- The account after a tick's debit. -/
def debited (x : Shelf) : Ride := { debit x.balance.d x.ride with tick := x.ride.tick.map fun t => t + 10000 }

/-- The state between a tick's debit and what follows from it. -/
def ticked (x : Shelf) : Shelf := setRide (fun _ => debited x) x

theorem ticked_eq (x : Shelf) : ticked x = { x with ride := debited x, deferred := (ticked x).deferred } :=
  setRide_eq (fun _ => debited x) x

/-- A tick enters DEPLETED where no usable energy is left, and otherwise projects (R71, R75). -/
theorem energyTick_eq (x : Shelf) : energyTick x =
    let eUse := (debited x).eRem - (policy x).energyReserve
    if eUse = 0 then enterDepleted (setRide (fun r => { r with eUse := 0 }) (ticked x))
    else projectAndShed x.balance.d eUse (ticked x) := by
  have acts : energyTick x =
      let eUse := (ticked x).ride.eRem - (policy (ticked x)).energyReserve
      if eUse = 0 then enterDepleted (setRide (fun r => { r with eUse := 0 }) (ticked x))
      else projectAndShed x.balance.d eUse (ticked x) := rfl
  rw [acts, show (ticked x).ride = debited x by rw [ticked_eq], policy_congr (x := x) (by rw [ticked_eq])]

/-- A state with another account, and with what follows from it. -/
def withAccount (r : Ride) (ts : List Task) (s : Shelf) : Shelf := { s with ride := r, deferred := ts }

section Account

variable (r : Ride) (ts : List Task)

theorem placeControl_account (o : ControlOrder) (s : Shelf) :
    placeControl o (withAccount r ts s) = withAccount r ts (placeControl o s) := by
  unfold placeControl
  dsimp only
  rw [show engine (withAccount r ts s) (targetPort o.target) = engine s (targetPort o.target) by
      cases targetPort o.target <;> rfl,
    show pollEngine (withAccount r ts s) (targetPort o.target) = pollEngine s (targetPort o.target) by
      cases targetPort o.target <;> rfl]
  split
  · cases targetPort o.target <;> rfl
  · rfl

/-- Ordering a battery is read from nothing of the account. -/
theorem placeBbm_account (k : Nat) (code : Byte) (a : Nat) (s : Shelf) :
    placeBbm k code a (withAccount r ts s) = withAccount r ts (placeBbm k code a s) := by
  have entry : bbmAt (withAccount r ts s) k = bbmAt s k := rfl
  unfold placeBbm
  rw [entry]
  cases bbmAt s k with
  | none => rfl
  | some e =>
    have order : orderFor (withAccount r ts s) e.roster (.bbm k) code a = orderFor s e.roster (.bbm k) code a := rfl
    dsimp only [orderModule]
    rw [order]
    cases orderFor s e.roster (.bbm k) code a with
    | none => rfl
    | some o => exact placeControl_account r ts o s

theorem holdBatteries_account (s : Shelf) :
    holdBatteries (withAccount r ts s) = withAccount r ts (holdBatteries s) := by
  refine List.foldl_hom (withAccount r ts) fun u k => ?_
  have asked : ((vget (withAccount r ts u).bbms k).state = .discharging ∨
      isPlaced (withAccount r ts u) (.bbm k) codeDischarge = true) =
      ((vget u.bbms k).state = .discharging ∨ isPlaced u (.bbm k) codeDischarge = true) := rfl
  simp only [asked, placeBbm_account]
  split <;> rfl

/-- The overload shedding is read from nothing of the account. -/
theorem overloadShed_account (s : Shelf) (bMax : Nat) : ∀ (trays : List Nat) (dProj : Nat),
    overloadShed (withAccount r ts s) bMax trays dProj = overloadShed s bMax trays dProj
  | [], _ => rfl
  | t :: trays, dProj => by
    have allocation : trayAllocation (withAccount r ts s) t = trayAllocation s t := rfl
    rw [overloadShed, overloadShed, allocation, overloadShed_account s bMax trays]

end Account

/-- DEPLETED is entered by one change of the ride state, after the orders to hold, the sheds of every ON tray and
RIDE-DEPLETED (R75). -/
theorem enterDepleted_spec {x : Shelf} (ride : x.ride.state ≠ .normal) :
    let y := enterDepleted x
    y.ride = { x.ride with
      state := .depleted, tick := none
      openSummary := x.ride.openSummary.map fun z => { z with depleted := true } } ∧
    y.raised = (holdBatteries x).raised ++ (onByRank x).map Task.shed ++ [.postDepleted (onByRank x).length] ∧
    y.pollSp = (holdBatteries x).pollSp ∧ y.admitDue = true ∧ y.notices = x.notices ∧ y.bay = x.bay := by
  have left : (holdBatteries x).ride.state ≠ .normal := by rwa [ride_holdBatteries]
  dsimp only
  unfold enterDepleted
  refine ⟨?_, ?_, ?_, ?_, ?_, ?_⟩
  · simp [editSummary, ride_holdBatteries]
  · simp [left]
  all_goals simp

/-- With no usable energy left the ride is DEPLETED (R75). -/
theorem energyTick_depleted {x : Shelf} (ride : x.ride.state = .ride)
    (empty : (debited x).eRem - (policy x).energyReserve = 0) :
    let y := energyTick x
    y.ride = { debit x.balance.d x.ride with
      state := .depleted, tick := none, eUse := 0
      openSummary := x.ride.openSummary.map fun z => { z with depleted := true } } ∧
    y.raised = (holdBatteries x).raised ++ (onByRank x).map Task.shed ++ [.postDepleted (onByRank x).length] ∧
    HoldOrdered x y ∧ y.admitDue = true ∧ y.notices = x.notices ∧ y.bay = x.bay := by
  obtain ⟨ts, told⟩ : ∃ ts, setRide (fun r => { r with eUse := 0 }) (ticked x) =
      withAccount { debited x with eUse := 0 } ts x :=
    ⟨_, (setRide_eq _ _).trans (by rw [ticked_eq]; rfl)⟩
  have acts : energyTick x = enterDepleted (withAccount { debited x with eUse := 0 } ts x) := by
    rw [energyTick_eq, ← told]
    exact if_pos empty
  have left : (withAccount { debited x with eUse := 0 } ts x).ride.state ≠ .normal := by
    change x.ride.state ≠ .normal
    rw [ride]
    decide
  obtain ⟨account, raised, pollSp, due, notices, bay⟩ := enterDepleted_spec left
  rw [holdBatteries_account] at raised pollSp
  dsimp only
  rw [acts]
  exact ⟨account, raised, holdOrdered pollSp, due, notices, bay⟩

/-- What a projection records and sheds (R71 to R73). -/
theorem projectAndShed_spec (d eUse : Nat) (x : Shelf) :
    let dProj := d - total (traysIn x .shedding) (trayAllocation x)
    let t := projectT eUse dProj
    let heavy := overloadShed x (maxDischarge x) (onByRank x) dProj
    let y := projectAndShed d eUse x
    y.ride = editSummary (fun z => { z with smallestT := min z.smallestT t })
        { x.ride with eUse, dProj := heavy.2, bMax := maxDischarge x, t } ∧
      y.raised = x.raised ++ (if maxDischarge x < dProj then heavy.1 else keepTimeShed x t).map Task.shed ∧
      y.bay = x.bay := by
  dsimp only
  unfold projectAndShed
  dsimp only
  rw [setRide_eq]
  exact ⟨rfl, rfl, rfl⟩

/-- With energy left the ride goes on: the tick projects, and raises the sheds alone (R71 to R73). -/
theorem energyTick_projects {x : Shelf} {eUse : Nat} (left : (debited x).eRem - (policy x).energyReserve = eUse)
    (more : eUse ≠ 0) :
    let dProj := x.balance.d - total (traysIn x .shedding) (trayAllocation x)
    let t := projectT eUse dProj
    let heavy := overloadShed x (maxDischarge x) (onByRank x) dProj
    let y := energyTick x
    y.ride = editSummary (fun z => { z with smallestT := min z.smallestT t })
        { debited x with eUse, dProj := heavy.2, bMax := maxDischarge x, t } ∧
      y.raised = x.raised ++ (if maxDischarge x < dProj then heavy.1 else keepTimeShed x t).map Task.shed ∧
      y.bay = x.bay := by
  obtain ⟨ts, told⟩ : ∃ ts, ticked x = withAccount (debited x) ts x := ⟨_, ticked_eq x⟩
  have acts : energyTick x = projectAndShed x.balance.d eUse (withAccount (debited x) ts x) := by
    rw [energyTick_eq, ← told]
    dsimp only
    rw [left, if_neg more]
  have spec := projectAndShed_spec x.balance.d eUse (withAccount (debited x) ts x)
  dsimp only at spec
  rw [overloadShed_account] at spec
  rw [acts]
  exact spec

/-- The tray that the keep time asks for is the ON tray of lowest rank (R73). -/
theorem keepTimeShed_none {x : Shelf} (none : onByRank x = []) (t : Nat) : keepTimeShed x t = [] := by
  rw [keepTimeShed, none]

theorem keepTimeShed_first {x : Shelf} {tray : Nat} {rest : List Nat} {entry : TrayEntry}
    (first : onByRank x = tray :: rest) (used : trayAt x tray = some entry) (t : Nat) :
    keepTimeShed x t = if t < entry.keepTime ∨ entry.keepTime = 0 then [tray] else [] := by
  rw [keepTimeShed, first]
  simp [used, keepTimeFails]

/-- What a tick records and raises in RIDE (R68, R71 to R75). -/
theorem energyTick_acts {x : Shelf} (ride : x.ride.state = .ride) :
    let y := energyTick x
    let eUse := (debit x.balance.d x.ride).eRem - (policy x).energyReserve
    let on := onByRank x
    let dProj := x.balance.d - total (traysIn x .shedding) (trayAllocation x)
    let bMax := maxDischarge x
    let time := projectT eUse dProj
    let heavy := overloadShed x bMax on dProj
    y.bay = x.bay ∧
    (eUse = 0 →
      y.raised = (holdBatteries x).raised ++ on.map Task.shed ++ [.postDepleted on.length] ∧
        HoldOrdered x y ∧ y.admitDue = true ∧ y.notices = x.notices ∧
        y.ride = { debit x.balance.d x.ride with
          state := .depleted, tick := none, eUse := 0
          openSummary := x.ride.openSummary.map fun z => { z with depleted := true } }) ∧
    (0 < eUse →
      y.ride.eUse = eUse ∧ y.ride.bMax = bMax ∧ y.ride.t = time ∧ y.ride.dProj = heavy.2 ∧
      y.ride.openSummary = x.ride.openSummary.map (fun z =>
        { z with smallestT := min z.smallestT time }) ∧
      (bMax < dProj → y.raised = x.raised ++ heavy.1.map Task.shed) ∧
      (dProj ≤ bMax →
        (on = [] → y.raised = x.raised) ∧
        ∀ tray rest entry, on = tray :: rest → trayAt x tray = some entry →
          (time < entry.keepTime ∨ entry.keepTime = 0 → y.raised = x.raised ++ [.shed tray]) ∧
          (entry.keepTime ≤ time → entry.keepTime ≠ 0 → y.raised = x.raised))) := by
  dsimp only
  by_cases empty : (debit x.balance.d x.ride).eRem - (policy x).energyReserve = 0
  · obtain ⟨account, raised, hold, due, notices, bay⟩ := energyTick_depleted ride empty
    exact ⟨bay, fun _ => ⟨raised, hold, due, notices, account⟩, fun more => absurd empty more.ne'⟩
  · obtain ⟨account, raised, bay⟩ := energyTick_projects (x := x)
      (eUse := (debit x.balance.d x.ride).eRem - (policy x).energyReserve) rfl empty
    refine ⟨bay, fun none => absurd none empty, fun _ => ?_⟩
    refine ⟨by rw [account]; rfl, by rw [account]; rfl, by rw [account]; rfl, by rw [account]; rfl, by rw [account]; rfl,
      fun heavy => by rw [raised, if_pos heavy], fun light => ?_⟩
    rw [if_neg light.not_gt] at raised
    refine ⟨fun none => by rw [raised, keepTimeShed_none none]; simp, fun tray rest entry first used => ?_⟩
    rw [raised, keepTimeShed_first first used]
    refine ⟨fun fails => by rw [if_pos fails]; rfl, fun long some => ?_⟩
    rw [if_neg (fun fails => fails.elim long.not_gt some), List.map_nil, List.append_nil]

/-- Settles O54. -/
theorem energyDebited : Obligations.EnergyDebited := by
  refine ⟨fun e s t ride timer due => ?_, fun r d _ => debit_spec d r, fun x ride => ?_, fun x ride => ?_, fun x => ?_,
    fun _ _ => rfl, fun _ _ => rfl, fun x bMax dProj trays => overloadShed_spec x bMax trays dProj⟩
  · exact congrArg Host.Outcome.next (event_acts (if_pos (tickDue_opening ride timer due)))
  · have spent := energyTick_depleted ride
    have goes := energyTick_projects (x := x) rfl
    refine ⟨fun none => ?_, fun some => ?_, ?_⟩
    · obtain ⟨account, -⟩ := spent (Nat.sub_eq_zero_of_le none)
      rw [account]
      exact ⟨rfl, rfl⟩
    · obtain ⟨account, -⟩ := goes (Nat.sub_ne_zero_of_lt some)
      rw [account]
      exact ⟨ride, rfl⟩
    · by_cases empty : (debited x).eRem - (policy x).energyReserve = 0
      · exact (congrArg Ride.eRem (spent empty).1 :)
      · exact (congrArg Ride.eRem (goes empty).1 :)
  · have acts := energyTick_acts ride
    dsimp only at acts ⊢
    simp only [traysIn_eq] at acts
    exact acts
  · refine ⟨onByRank_ascending x, fun t ht => ?_, fun unique t used on => mem_onByRank_of_on unique used on⟩
    obtain ⟨rank, -, found⟩ := mem_onByRank.mp ht
    obtain ⟨small, used, on⟩ := mem_traysIn.mp (found_by_rank found).1
    exact ⟨⟨small, used⟩, on⟩

end Sys2Proof.Machine
end


section
/-! PROOF. The Tray Controller's moves (O58): admission, shedding, the shelf stop, lock and release, and the apply of a Trays
entry (R92 to R106). -/

namespace Sys2Proof.Machine

/-! ### What follows an order to a tray (R90) -/

/-- What is told of a tray's change stays told where no more than reactions and orders follow. -/
theorem told_later {t : Nat} {x z y : Shelf} (told : TrayTold t x z) (tables : y.tables = z.tables) (bay : y.bay = z.bay)
    (notices : y.notices = z.notices) (causes : y.causes = z.causes) (deferred : y.deferred = z.deferred)
    (due : z.admitDue = true → y.admitDue = true) (raised : ∀ task ∈ z.raised, task ∈ y.raised) : TrayTold t x y := by
  obtain ⟨others, handed, posted, silent, admits, head, stack, adopted⟩ := told
  simp only [TrayTold, bay, notices, causes, deferred, adoptionComplete_congr tables bay]
  exact ⟨others, fun h => (handed h).imp_right (And.imp_left (raised _)), posted, silent, fun h k => due (admits h k),
    fun h => (head h).imp_left due, fun h => (stack h).imp due (raised _), fun h k => (adopted h k).imp_left due⟩

/-- An order to a module only adds reactions. -/
theorem raised_orderModule (roster : Nat) (target : Target) (code : Byte) (a : Nat) (s : Shelf) :
    ∀ task ∈ s.raised, task ∈ (orderModule roster target code a s).raised := by
  intro task ht
  unfold orderModule
  split
  · unfold placeControl
    dsimp only
    split
    · simpa using ht
    · exact List.mem_append_left _ ht
  · exact List.mem_append_left _ ht

theorem raised_placeOff (t : Nat) (s : Shelf) : ∀ task ∈ s.raised, task ∈ (placeOff t s).raised := by
  intro task ht
  unfold placeOff
  split
  · split
    · exact ht
    · exact raised_orderModule _ _ _ _ s task ht
  · exact ht

theorem raised_placeOn (t : Nat) (s : Shelf) : ∀ task ∈ s.raised, task ∈ (placeOn t s).raised := by
  intro task ht
  unfold placeOn
  split
  · exact raised_orderModule _ _ _ _ s task ht
  · exact ht

/-- Ordering a tray on touches TP's control queue and the reactions alone. -/
theorem placeOn_eq (t : Nat) (s : Shelf) :
    placeOn t s =
      { s with
        pollTp := { s.pollTp with control := (placeOn t s).pollTp.control }
        raised := (placeOn t s).raised } := by
  unfold placeOn
  split
  · exact orderModule_tray _ _ _ _ _
  · rfl

/-- An order is queued once it is placed, where the tray's module can be ordered (R90, R147). -/
theorem isPlaced_orderModule {t roster : Nat} {code : Byte} {a : Nat} {s : Shelf}
    (mine : rosterIs s roster .tray t = true) (enabled : s.engTp.enabled = true) :
    isPlaced (orderModule roster (.tray t) code a s) (.tray t) code = true := by
  obtain ⟨m, at_, -, -⟩ := rosterIs_iff.mp mine
  have order : orderFor s roster (.tray t) code a = some ⟨roster, BitVec.ofNat 8 m.address, code, a, .tray t⟩ := by
    unfold orderFor
    rw [at_]
    exact if_pos mine
  simp only [orderModule, order, placeControl, targetPort, engine, enabled, if_true]
  exact Bool.or_eq_true_iff.mpr (.inl (List.any_eq_true.mpr ⟨_, mem_queueOrder.mpr (.inl rfl), by simp⟩))

theorem trayAt_congr {x y : Shelf} (h : y.tables = x.tables) (t : Nat) : trayAt y t = trayAt x t := by
  unfold trayAt recordAt
  rw [h]

/-- An OUTPUT-ON is queued where the tray's module can be ordered. -/
theorem trayOrdered_placeOn {t : Nat} {x z : Shelf} (tables : z.tables = x.tables) (engine : z.engTp = x.engTp) :
    TrayOrdered t 0x01 x (placeOn t z) := by
  intro e used mine enabled
  have entry : trayAt z t = some e := (trayAt_congr tables t).trans used
  unfold placeOn
  rw [entry]
  exact isPlaced_orderModule ((rosterIs_congr (tables ▸ rfl) _ _ _).trans mine) (engine ▸ enabled)

/-- An OUTPUT-OFF is queued or in flight where the tray's module can be ordered. -/
theorem trayOrdered_placeOff {t : Nat} {x z : Shelf} (tables : z.tables = x.tables) (engine : z.engTp = x.engTp) :
    TrayOrdered t 0x02 x (placeOff t z) := fun _ used mine enabled =>
  isPlaced_placeOff ((trayAt_congr tables t).trans used) ((rosterIs_congr (tables ▸ rfl) _ _ _).trans mine)
    (engine ▸ enabled)

/-! ### A tray that takes a state -/

section TrayTo

variable (t : Nat) (new : TrayState) (f : Tray → Tray) (x : Shelf)

theorem tables_trayTo : (trayTo t new f x).tables = x.tables := by rw [trayTo_eq]

theorem engTp_trayTo : (trayTo t new f x).engTp = x.engTp := by rw [trayTo_eq]

theorem ride_trayTo : (trayTo t new f x).ride = x.ride := by rw [trayTo_eq]

end TrayTo

/-- Between two states a tray takes a state of neither list, with these run-time fields, and is told of (R76, R92,
R105). -/
abbrev Enters (t : Nat) (st : TrayState) (fields : Tray) (x y : Shelf) : Prop :=
  vget y.bay.trays t = { fields with state := st, fault := none, queuedBy := none, stateTime := x.shelfTime } ∧
    y.bay.queue = x.bay.queue.filter (fun u => u ≠ t) ∧ y.bay.stack = x.bay.stack.filter (fun u => u ≠ t) ∧
    TrayTold t x y

section Moves

variable {t : Nat} {x : Shelf}

theorem enters_trayTo {new : TrayState} (f : Tray → Tray) (ht : t < 24) (moves : trayState x t ≠ new)
    (queue : new ≠ .queued) (stack : onStack new = false) (fault : new ≠ .fault) :
    Enters t new (f (vget x.bay.trays t)) x (trayTo t new f x) := by
  obtain ⟨queue', stack'⟩ := lists_trayTo_leaves t f x ht queue stack
  exact ⟨by rw [vget_trayTo_self new f x ht, if_neg queue, if_neg fault], queue', stack', trayTo_told new f x ht moves⟩

theorem told_placeOff {z : Shelf} (told : TrayTold t x z) : TrayTold t x (placeOff t z) := by
  refine told_later told ?_ ?_ ?_ ?_ ?_ (fun due => ?_) (raised_placeOff t z)
  all_goals rw [placeOff_eq]
  exact due

theorem told_placeOn {z : Shelf} (told : TrayTold t x z) : TrayTold t x (placeOn t z) := by
  refine told_later told ?_ ?_ ?_ ?_ ?_ (fun due => ?_) (raised_placeOn t z)
  all_goals rw [placeOn_eq]
  exact due

theorem told_admissionDue {z : Shelf} (told : TrayTold t x z) : TrayTold t x (admissionDue z) :=
  told_later (y := admissionDue z) told rfl rfl rfl rfl rfl (fun _ => rfl) fun _ h => h

theorem Enters.placeOff {st : TrayState} {fields : Tray} {z : Shelf} (h : Enters t st fields x z) :
    Enters t st fields x (placeOff t z) := by
  obtain ⟨record, queue, stack, told⟩ := h
  have bay : (Machine.placeOff t z).bay = z.bay := by rw [placeOff_eq]
  exact ⟨by rwa [bay], by rwa [bay], by rwa [bay], told_placeOff told⟩

theorem Enters.placeOn {st : TrayState} {fields : Tray} {z : Shelf} (h : Enters t st fields x z) :
    Enters t st fields x (placeOn t z) := by
  obtain ⟨record, queue, stack, told⟩ := h
  have bay : (Machine.placeOn t z).bay = z.bay := by rw [placeOn_eq]
  exact ⟨by rwa [bay], by rwa [bay], by rwa [bay], told_placeOn told⟩

end Moves

/-! ### Admission (R93, R94) -/

/-- The source of the candidate by ride state (R93). -/
theorem candidate_spec (x : Shelf) :
    let adopting := ∃ t < 24, (trayAt x t).isSome ∧ trayState x t = .unknown
    (x.shelfStop = true ∨ adopting → candidate x = none) ∧
    (x.shelfStop = false → ¬adopting →
      (x.ride.state = .normal → candidate x = x.bay.queue.head?) ∧
      (x.ride.state = .returning → candidate x = x.bay.stack.head?) ∧
      (x.ride.state = .ride ∨ x.ride.state = .depleted → candidate x = none)) ∧
    (candidate x = none → admissionTry x = { x with admitDue := false }) := by
  have adoption : adoptionComplete x = false ↔ ∃ t < 24, (trayAt x t).isSome ∧ trayState x t = .unknown := by
    simp [adoptionComplete_eq]
  dsimp only
  rw [← adoption]
  refine ⟨fun stopped => if_pos ?_, fun runs adopted => ?_, fun none => by rw [admissionTry, none]⟩
  · obtain stopped | adopting := stopped
    · simp [stopped]
    · simp [adopting]
  · have open_ : candidate x = match x.ride.state with
        | .normal => x.bay.queue.head?
        | .returning => x.bay.stack.head?
        | .ride | .depleted => none := if_neg (by simp [runs, adopted])
    rw [open_]
    refine ⟨fun normal => by rw [normal], fun returning => by rw [returning], fun ride => ?_⟩
    obtain ride | depleted := ride
    · rw [ride]
    · rw [depleted]

theorem admissible_iff {x : Shelf} {t : Nat} {e : TrayEntry} (used : trayAt x t = some e) :
    admissible x t = true ↔ (trayState x t = .queued ∨ trayState x t = .shed) ∧
      (traysIn x .starting).length < (policy x).startWindow ∧
      ((e.allocation + e.inrush : Nat) : Int) ≤ x.balance.h := by
  simp [admissible, trayNeed, used, and_assoc]

/-- An admitted tray is STARTING, with an OUTPUT-ON ordered (R94). -/
theorem admitTray_spec {x : Shelf} {t : Nat} (ht : t < 24) (waits : trayState x t = .queued ∨ trayState x t = .shed) :
    Enters t .starting { vget x.bay.trays t with awaited := .on, startTimer := .stopped } x (admitTray t x) ∧
      TrayOrdered t 0x01 x (admitTray t x) := by
  have moves : trayState x t ≠ .starting := by
    obtain queued | shed := waits
    · rw [queued]
      decide
    · rw [shed]
      decide
  have entered := enters_trayTo (fun r => { r with awaited := .on, startTimer := .stopped }) ht moves (by decide) rfl
    (by decide)
  exact ⟨entered.placeOn, trayOrdered_placeOn (tables_trayTo _ _ _ _) (engTp_trayTo _ _ _ _)⟩

/-- The admission evaluation that goes on changes nothing of the tray just admitted (R94). -/
theorem admissionDue_entered {x z : Shelf} {t : Nat} {st : TrayState} {fields : Tray} {code : Byte}
    (entered : Enters t st fields x z) (ordered : TrayOrdered t code x z) :
    Enters t st fields x (admissionDue z) ∧ TrayOrdered t code x (admissionDue z) := by
  obtain ⟨record, queue, stack, told⟩ := entered
  exact ⟨⟨record, queue, stack, told_admissionDue told⟩, ordered⟩

/-- A try that may not admit its candidate ends the evaluation; one that may admits it and asks for another (R94). -/
theorem admissionTry_candidate {x : Shelf} {t : Nat} (chosen : candidate x = some t) :
    admissionTry x = if admissible x t then admissionDue (admitTray t x) else { x with admitDue := false } := by
  rw [admissionTry, chosen]

/-! ### Shedding, the shelf stop, lock and release (R74, R97, R98, R100, R104) -/

section Tray

variable {t : Nat} {x : Shelf}

/-- A shed tray stands on the top of the restore stack, and the open summary counts it (R74, R98). -/
theorem shedTray_spec (ht : t < 24) (runs : trayState x t = .on ∨ trayState x t = .starting) :
    let y := shedTray t x
    vget y.bay.trays t = { vget x.bay.trays t with
      state := .shedding, awaited := .off, startTimer := .stopped, fault := none, queuedBy := none
      stateTime := x.shelfTime } ∧
    (t ∉ x.bay.stack → y.bay.stack = t :: x.bay.stack) ∧
    y.ride = { x.ride with
      openSummary := x.ride.openSummary.map fun z =>
        { z with shedCount := min (z.shedCount + 1) 65535 } } ∧
    TrayTold t x y ∧ TrayOrdered t 0x02 x y := by
  have moves : trayState (countShed x) t ≠ .shedding := by
    change trayState x t ≠ .shedding
    obtain on | starting := runs
    · rw [on]
      decide
    · rw [starting]
      decide
  let moved := trayTo t .shedding (fun r => { r with awaited := .off, startTimer := .stopped }) (countShed x)
  have told : TrayTold t x moved := trayTo_told .shedding _ (countShed x) ht moves
  have acts : shedTray t x = placeOff t moved := if_pos runs
  have bay : moved.bay = moveTray t .shedding _ x.bay := trayTo_bay _ _ _ _
  have tables : moved.tables = x.tables := tables_trayTo t .shedding _ (countShed x)
  have engine : moved.engTp = x.engTp := engTp_trayTo t .shedding _ (countShed x)
  have ride : moved.ride = (countShed x).ride := ride_trayTo t .shedding _ (countShed x)
  have record := vget_trayTo_self .shedding (fun r => { r with awaited := .off, startTimer := .stopped }) (countShed x) ht
  dsimp only
  rw [acts]
  refine ⟨?_, fun absent => ?_, ?_, told_placeOff told, trayOrdered_placeOff tables engine⟩
  all_goals rw [placeOff_eq]
  · exact record
  · rw [bay, moveTray, if_pos (show t < Config.trayCount from ht)]
    exact if_neg absent
  · exact ride

theorem stopTray_of_on (runs : trayState x t = .starting ∨ trayState x t = .on) : stopTray t x =
    placeOff t (trayTo t .stopping (fun r => { r with awaited := .off, startTimer := .stopped }) x) := by
  obtain state | state := runs <;> simp [stopTray, state]

theorem stopTray_of_shedding (shedding : trayState x t = .shedding) : stopTray t x =
    trayTo t .stopping (fun r => { r with awaited := .off, startTimer := .stopped }) x := by
  simp [stopTray, shedding]

/-- The shelf stop of a tray, by its state (R97, R104). -/
theorem shelfStopTray_cases (t : Nat) (x : Shelf) :
    (trayState x t = .starting ∨ trayState x t = .on ∨ trayState x t = .shedding → shelfStopTray t x = stopTray t x) ∧
    (trayState x t = .queued ∨ trayState x t = .shed → shelfStopTray t x = trayTo t .off id x) ∧
    (trayState x t = .unknown ∨ trayState x t = .off ∨ trayState x t = .stopping ∨ trayState x t = .locked ∨
      trayState x t = .fault → shelfStopTray t x = x) := by
  unfold shelfStopTray withdrawTray
  cases state : trayState x t <;> simp

/-- The shelf stop of a tray with its output on orders OUTPUT-OFF, and of one that has been ordered off no second one
(R97, R104). -/
theorem shelfStopTray_spec (ht : t < 24) :
    let r := vget x.bay.trays t
    let y := shelfStopTray t x
    (r.state = .starting ∨ r.state = .on →
      Enters t .stopping { r with awaited := .off, startTimer := .stopped } x y ∧ TrayOrdered t 0x02 x y) ∧
    (r.state = .shedding →
      Enters t .stopping { r with awaited := .off, startTimer := .stopped } x y ∧ y.pollTp = x.pollTp) ∧
    (r.state = .queued ∨ r.state = .shed → Enters t .off r x y ∧ y.pollTp = x.pollTp) ∧
    (r.state = .unknown ∨ r.state = .off ∨ r.state = .stopping ∨ r.state = .locked ∨
      r.state = .fault → y = x) := by
  obtain ⟨stops, withdraws, stays⟩ := shelfStopTray_cases t x
  have entered (moves : trayState x t ≠ .stopping) :
      Enters t .stopping { vget x.bay.trays t with awaited := .off, startTimer := .stopped } x
        (trayTo t .stopping (fun r => { r with awaited := .off, startTimer := .stopped }) x) :=
    enters_trayTo _ ht moves (by decide) rfl (by decide)
  refine ⟨fun runs => ?_, fun shedding => ?_, fun waits => ?_, stays⟩
  · have moves : trayState x t ≠ .stopping := by rintro stopping; rw [trayState] at stopping; simp [stopping] at runs
    rw [stops (runs.imp_right .inl), stopTray_of_on runs]
    exact ⟨(entered moves).placeOff, trayOrdered_placeOff (tables_trayTo _ _ _ _) (engTp_trayTo _ _ _ _)⟩
  · rw [stops (.inr (.inr shedding)), stopTray_of_shedding shedding]
    exact ⟨entered (fun stopping => by rw [trayState, shedding] at stopping; cases stopping), pollTp_trayTo _ _ _ _⟩
  · rw [withdraws waits]
    refine ⟨enters_trayTo id ht (fun off => ?_) (by decide) rfl (by decide), pollTp_trayTo _ _ _ _⟩
    rw [trayState] at off
    simp [off] at waits

/-- A lock takes a tray from any other state, and orders OUTPUT-OFF unless its output was seen off (R100). -/
theorem lockTray_spec (ht : t < 24) (free : trayState x t ≠ .locked) :
    let r := vget x.bay.trays t
    let y := lockTray t x
    Enters t .locked { r with awaited := .nothing, startTimer := .stopped } x y ∧
      (r.seen = .off → y.pollTp = x.pollTp) ∧ (r.seen ≠ .off → TrayOrdered t 0x02 x y) := by
  let moved := trayTo t .locked (fun r => { r with awaited := .nothing, startTimer := .stopped }) x
  have entered : Enters t .locked { vget x.bay.trays t with awaited := .nothing, startTimer := .stopped } x moved :=
    enters_trayTo _ ht free (by decide) rfl (by decide)
  have acts : lockTray t x = if (vget x.bay.trays t).seen = .off then moved else placeOff t moved := by
    rw [lockTray, if_neg free, lockTrayOnly, if_neg free]
  dsimp only
  rw [acts]
  split
  case isTrue off => exact ⟨entered, fun _ => pollTp_trayTo _ _ _ _, fun other => absurd off other⟩
  case isFalse on =>
    exact ⟨entered.placeOff, fun off => absurd off on, fun _ =>
      trayOrdered_placeOff (tables_trayTo _ _ _ _) (engTp_trayTo _ _ _ _)⟩

/-- A release takes a LOCKED tray to OFF with no order (R100, R130). -/
theorem releaseTray_spec (ht : t < 24) (locked : trayState x t = .locked) :
    Enters t .off (vget x.bay.trays t) x (releaseTray t x) ∧ (releaseTray t x).pollTp = x.pollTp := by
  rw [releaseTray, if_pos locked]
  exact ⟨enters_trayTo id ht (by rw [locked]; decide) (by decide) rfl (by decide), pollTp_trayTo _ _ _ _⟩

end Tray

/-! ### The apply of a Trays entry (R106) -/

/-- A state whose orders to a tray have lost their target, as R106 says it. -/
def ordersForgotten (t : Nat) (x : Shelf) : Shelf :=
  { x with pollTp := { x.pollTp with
      control := x.pollTp.control.map fun o : ControlOrder =>
        if o.target = Target.tray t then { o with target := .gone } else o
      inProgress := x.pollTp.inProgress.map fun g : Progress =>
        if g.order.target = Target.tray t then { g with order := { g.order with target := .gone } }
        else g } }

theorem forgetOrders_eq (t : Nat) (x : Shelf) : forgetOrders t x = ordersForgotten t x := by
  have progress : (fun g : Progress => { g with order := forgetOrder t g.order }) = fun g : Progress =>
      if g.order.target = Target.tray t then { g with order := { g.order with target := .gone } } else g := by
    funext g
    unfold forgetOrder
    split <;> rfl
  unfold forgetOrders
  dsimp only
  rw [progress]
  rfl

/-- Between two states a tray's record starts afresh: it leaves both lists, its orders are forgotten, and what the lists
ask for is told (R76, R92, R93, R106). -/
structure Renewed (t : Nat) (x z : Shelf) : Prop where
  bay : z.bay =
    { trays := vset x.bay.trays t resetTray
      queue := x.bay.queue.filter fun u => u ≠ t
      stack := x.bay.stack.filter fun u => u ≠ t }
  pollTp : z.pollTp = (ordersForgotten t x).pollTp
  tables : z.tables = x.tables
  engTp : z.engTp = x.engTp
  zones : z.zones = x.zones
  shelfTime : z.shelfTime = x.shelfTime
  notices : z.notices = x.notices
  starting : trayState x t = .starting → z.admitDue = true
  head : x.bay.queue.head? ≠ z.bay.queue.head? → z.admitDue = true ∧ Task.charge ∈ z.deferred
  stack : x.bay.stack ≠ z.bay.stack → z.admitDue = true ∧ Task.stackChanged ∈ z.raised

/-- What is renewed is told by what follows a tray's change. -/
theorem renewed_renewTray {t : Nat} (ht : t < 24) (x : Shelf) : Renewed t x (renewTray t x) := by
  have eq := renewTray_eq x ht
  have forgotten : (forgetOrders t x).bay = x.bay := rfl
  refine ⟨by rw [eq], by rw [eq, forgetOrders_eq], by rw [eq]; rfl, by rw [eq]; rfl, by rw [eq]; rfl, by rw [eq]; rfl,
    by rw [eq]; rfl, admitDue_renewTray, fun moved => ?_, fun moved => ?_⟩
  all_goals unfold renewTray at moved ⊢
  · exact afterTray_head _ _ _ (by rwa [afterTray_eq] at moved)
  · exact afterTray_stack _ _ _ (by rwa [afterTray_eq] at moved)

/-- A renewed record is that of a state with the same blocks, whatever reactions it had. -/
theorem Renewed.congr {t : Nat} {x w z : Shelf} (h : Renewed t w z)
    (same : w = { x with causes := w.causes, raised := w.raised }) : Renewed t x z := by
  obtain ⟨causes, raised, rfl⟩ : ∃ cs ts, w = { x with causes := cs, raised := ts } := ⟨_, _, same⟩
  obtain ⟨bay, pollTp, tables, engTp, zones, shelfTime, notices, starting, head, stack⟩ := h
  exact ⟨bay, pollTp, tables, engTp, zones, shelfTime, notices, starting, head, stack⟩

theorem raised_renewTray (t : Nat) (x : Shelf) : ∀ task ∈ x.raised, task ∈ (renewTray t x).raised := fun _ h =>
  mem_raised_afterTray _ _ _ h

theorem causes_renewTray {t : Nat} (ht : t < 24) (x : Shelf) : (renewTray t x).causes = x.causes := by
  rw [renewTray_eq x ht]
  rfl

/-- Between two states a tray leaves both lists, no other record changes, and a start that so ends asks for an admission
evaluation. -/
abbrev Leaves (t : Nat) (x y : Shelf) : Prop :=
  (∀ u ≠ t, vget y.bay.trays u = vget x.bay.trays u) ∧
    y.bay.queue = x.bay.queue.filter (fun u => u ≠ t) ∧ y.bay.stack = x.bay.stack.filter (fun u => u ≠ t) ∧
    (trayState x t = .starting → y.admitDue = true)

/-- Between two states a tray's record and its orders are dropped, and nothing is posted. -/
abbrev Dropped (t : Nat) (x y : Shelf) : Prop :=
  vget y.bay.trays t = resetTray ∧ y.pollTp = (ordersForgotten t x).pollTp ∧ y.notices = x.notices

section Renewed

variable {t : Nat} {x z : Shelf}

theorem Renewed.record (h : Renewed t x z) (ht : t < 24) : vget z.bay.trays t = resetTray := by
  rw [h.bay]
  exact vget_vset_self _ _ _ ht

theorem Renewed.leaves (h : Renewed t x z) : Leaves t x z := by
  refine ⟨fun u hu => ?_, by rw [h.bay], by rw [h.bay], h.starting⟩
  rw [h.bay]
  exact vget_vset_ne _ _ hu.symm

theorem Renewed.dropped (h : Renewed t x z) (ht : t < 24) : Dropped t x z := ⟨h.record ht, h.pollTp, h.notices⟩

end Renewed

/-- What waits for the admission evaluation is not lost by what follows a tray's change. -/
theorem mem_deferred_afterTray (before : Shelf) (old new : TrayState) {s : Shelf} {task : Task}
    (h : task ∈ s.deferred) : task ∈ (afterTray before old new s).deferred := by
  unfold afterTray admissionDue emit
  dsimp only
  repeat' split
  all_goals
    first
    | exact h
    | exact mem_deferred_postpone_of h
    | exact mem_deferred_postpone_of (mem_deferred_postpone_of h)

/-- No admission evaluation, no reaction and no cause is lost by a tray's change. -/
theorem trayTo_keeps (t : Nat) (new : TrayState) (f : Tray → Tray) (z : Shelf) :
    (z.admitDue = true → (trayTo t new f z).admitDue = true) ∧
      (∀ task ∈ z.raised, task ∈ (trayTo t new f z).raised) ∧
      (∀ task ∈ z.deferred, task ∈ (trayTo t new f z).deferred) ∧
      ∀ cause ∈ z.causes, cause ∈ (trayTo t new f z).causes := by
  have raised (s : Shelf) : ∀ task ∈ s.raised, task ∈ (changed [.tray] s).raised := by
    intro task h
    change task ∈ (emit .balance (addCause s .tray)).raised
    rw [addCause_eq]
    exact List.mem_append_left _ h
  unfold trayTo
  dsimp only
  rw [trayNotice_eq]
  refine ⟨fun due => admitDue_afterTray _ _ _ ?_, fun task h => mem_raised_afterTray _ _ _ (raised _ task h),
    fun task h => mem_deferred_afterTray _ _ _ ?_, fun cause h => ?_⟩
  · rw [changed_eq]
    exact due
  · rw [changed_eq]
    exact h
  · rw [afterTray_eq]
    exact (mem_changed .tray _).2.2 cause h

/-- A lock places its order after the change, and loses nothing either. -/
theorem lockTray_keeps (t : Nat) (z : Shelf) :
    (z.admitDue = true → (lockTray t z).admitDue = true) ∧
      (∀ task ∈ z.raised, task ∈ (lockTray t z).raised) ∧
      (∀ task ∈ z.deferred, task ∈ (lockTray t z).deferred) ∧
      ∀ cause ∈ z.causes, cause ∈ (lockTray t z).causes := by
  obtain ⟨due, raised, deferred, causes⟩ :=
    trayTo_keeps t .locked (fun r => { r with awaited := .nothing, startTimer := .stopped }) z
  unfold lockTray lockTrayOnly
  split
  · exact ⟨id, fun _ h => h, fun _ h => h, fun _ h => h⟩
  · split
    · exact ⟨due, raised, deferred, causes⟩
    · have more := raised_placeOff t
        (trayTo t .locked (fun r => { r with awaited := .nothing, startTimer := .stopped }) z)
      rw [placeOff_eq] at more ⊢
      exact ⟨due, fun task h => more task (raised task h), deferred, causes⟩

/-- Adoption is read from the trays' records and their table alone (R89). -/
theorem adoptionComplete_of_trays {x y : Shelf} (tables : y.tables = x.tables) (trays : y.bay.trays = x.bay.trays) :
    adoptionComplete y = adoptionComplete x := by
  unfold adoptionComplete traysIn traysInUse trayState
  rw [trays, show trayAt y = trayAt x from funext (trayAt_congr tables)]

/-- What is told of a tray's change is told of it from any state with the same records, whose lists' changes are told. -/
theorem told_from {t : Nat} {x w y : Shelf} (told : TrayTold t x y) (trays : w.bay.trays = x.bay.trays)
    (time : w.shelfTime = x.shelfTime) (notices : w.notices = x.notices) (tables : w.tables = x.tables)
    (head : w.bay.queue.head? ≠ y.bay.queue.head? → y.admitDue = true ∧ Task.charge ∈ y.deferred)
    (stack : w.bay.stack ≠ y.bay.stack → y.admitDue = true ∧ Task.stackChanged ∈ y.raised) : TrayTold t w y := by
  obtain ⟨others, handed, posted, silent, admits, -, -, adopted⟩ := told
  simp only [TrayTold, trays, time, notices, trayAt_congr tables, adoptionComplete_of_trays tables trays]
  exact ⟨others, handed, posted, silent, admits, head, stack, adopted⟩

/-- A renewed tray of a WET zone is locked, told of from UNKNOWN, and ordered off (R100, R106). -/
theorem lockTray_renewed {t : Nat} {x z : Shelf} (ht : t < 24) (h : Renewed t x z) :
    let y := lockTray t z
    Leaves t x y ∧ vget y.bay.trays t = { resetTray with state := .locked, stateTime := x.shelfTime } ∧
      TrayTold t { ordersForgotten t x with bay := { x.bay with trays := vset x.bay.trays t resetTray } } y ∧
      TrayOrdered t 0x02 x y := by
  have record := h.record ht
  have unknown : trayState z t = .unknown := congrArg Tray.state record
  obtain ⟨⟨fields, queue, stack, told⟩, -, ordered⟩ := lockTray_spec (x := z) ht (by rw [unknown]; decide)
  obtain ⟨due, raised, deferred, -⟩ := lockTray_keeps t z
  have queue' : (lockTray t z).bay.queue = x.bay.queue.filter fun u => u ≠ t := by
    rw [queue, h.bay]
    simp
  have stack' : (lockTray t z).bay.stack = x.bay.stack.filter fun u => u ≠ t := by
    rw [stack, h.bay]
    simp
  refine ⟨⟨fun u hu => (told.1 u hu).trans (h.leaves.1 u hu), queue', stack', fun starting => due (h.starting starting)⟩,
    ?_, told_from told ?_ ?_ ?_ ?_ (fun moved => ?_) fun moved => ?_, fun e used mine enabled => ?_⟩
  · rw [fields, record, h.shelfTime]
    rfl
  · rw [h.bay]
  · exact h.shelfTime.symm
  · exact h.notices.symm
  · exact h.tables.symm
  · have told := h.head (by rw [h.bay]; rwa [queue'] at moved)
    exact ⟨due told.1, deferred _ told.2⟩
  · have told := h.stack (by rw [h.bay]; rwa [stack'] at moved)
    exact ⟨due told.1, raised _ told.2⟩
  · exact ordered (by rw [record]; decide) e ((trayAt_congr h.tables t).trans used)
      ((rosterIs_congr (h.tables ▸ rfl) _ _ _).trans mine) (h.engTp ▸ enabled)

theorem anyWet_iff {x : Shelf} (zone : Option Nat) : zone.any (zoneWet x) = true ↔
    ∃ z, zone = some z ∧ (zoneAt x z).isSome = true ∧ (vget x.zones z).state = .wet := by
  simp only [Option.any_eq_true, zoneWet_iff]

/-- A tray newly in use, or moved to another Roster entry, starts afresh, LOCKED where its zone is WET (R106). -/
theorem renewed_orLocked {t : Nat} {x z : Shelf} (ht : t < 24) (h : Renewed t x z) (wet : Bool) :
    let y := if wet then lockTray t z else z
    Leaves t x y ∧ (wet = false → Dropped t x y) ∧
      (wet = true →
        vget y.bay.trays t = { resetTray with state := .locked, stateTime := x.shelfTime } ∧
        TrayTold t { ordersForgotten t x with bay := { x.bay with trays := vset x.bay.trays t resetTray } } y ∧
        TrayOrdered t 0x02 x y) := by
  cases wet with
  | false => exact ⟨h.leaves, fun _ => h.dropped ht, nofun⟩
  | true =>
    obtain ⟨leaves, locked⟩ := lockTray_renewed ht h
    exact ⟨leaves, nofun, fun _ => locked⟩

/-- A tray moved to another Roster entry hands on the state it leaves (R28, R106). -/
theorem renewed_moveToRoster {t : Nat} (ht : t < 24) (x : Shelf) :
    Renewed t x (moveToRoster t x) ∧
      ((vget x.bay.trays t).state ≠ .unknown ∨ (vget x.bay.trays t).seen ≠ .unknown →
        Task.balance ∈ (moveToRoster t x).raised ∧ Cause.tray ∈ (moveToRoster t x).causes) := by
  unfold moveToRoster
  dsimp only
  split
  case isTrue left =>
    refine ⟨(renewed_renewTray ht _).congr (changed_eq _ x), fun _ => ?_⟩
    obtain ⟨balance, cause⟩ := changed_tray x
    exact ⟨raised_renewTray t _ _ balance, by rw [causes_renewTray ht]; exact cause⟩
  case isFalse stays => exact ⟨renewed_renewTray ht x, fun left => absurd left stays⟩

/-- A tray that keeps its Roster entry is locked or released as its zone changes, and a new head need is handed on
(R106). -/
theorem applyKeptTray_eq (t : Nat) (a b : TrayEntry) (x : Shelf) :
    let z := if a.zone ≠ b.zone then (if b.zone.any (zoneWet x) then lockTray t x else releaseTray t x) else x
    applyKeptTray t a b x =
      if (a.allocation ≠ b.allocation ∨ a.inrush ≠ b.inrush) ∧ z.bay.queue.head? = some t then
        { z with deferred := alsoWaits .charge z.deferred }
      else z := by
  unfold applyKeptTray
  simp only [postpone_alsoWaits]

/-- A change of head need is handed on where the tray is the head of the start queue (R106). -/
theorem keptTray_turned {t : Nat} {a b : TrayEntry} {x z : Shelf}
    (acts : z = if a.zone ≠ b.zone then (if b.zone.any (zoneWet x) then lockTray t x else releaseTray t x) else x) :
    let headNeed := (a.allocation ≠ b.allocation ∨ a.inrush ≠ b.inrush) ∧ z.bay.queue.head? = some t
    (headNeed → applyKeptTray t a b x = { z with deferred := alsoWaits .charge z.deferred }) ∧
      (¬headNeed → applyKeptTray t a b x = z) := by
  subst acts
  rw [applyKeptTray_eq]
  exact ⟨fun needs => if_pos needs, fun same => if_neg same⟩

/-- An entry taken out of use drops its record (R106). -/
theorem applyTray_out {old : List Record} {t : Nat} {x : Shelf} (unused : trayAt x t = none) :
    (decodeTray (recordOf old t) = none → applyTray old t x = x) ∧
      ((decodeTray (recordOf old t)).isSome → applyTray old t x = renewTray t x) := by
  unfold applyTray
  rw [unused]
  cases decodeTray (recordOf old t) <;> simp

/-- An entry newly in use starts afresh (R106). -/
theorem applyTray_new {old : List Record} {t : Nat} {x : Shelf} {e : TrayEntry} (used : trayAt x t = some e)
    (new : decodeTray (recordOf old t) = none) :
    applyTray old t x = if e.zone.any (zoneWet x) then lockTray t (renewTray t x) else renewTray t x := by
  unfold applyTray
  rw [used, new]

/-- An entry that changes its Roster entry starts afresh, and one that keeps it changes in place (R106). -/
theorem applyTray_was {old : List Record} {t : Nat} {x : Shelf} {a e : TrayEntry} (used : trayAt x t = some e)
    (was : decodeTray (recordOf old t) = some a) :
    (a.roster ≠ e.roster → applyTray old t x =
      if e.zone.any (zoneWet x) then lockTray t (moveToRoster t x) else moveToRoster t x) ∧
      (a.roster = e.roster → applyTray old t x = applyKeptTray t a e x) := by
  unfold applyTray
  rw [used, was]
  exact ⟨fun moved => if_pos moved, fun same => if_neg (not_not.mpr same)⟩

/-- A tray newly in use, or moved to another Roster entry, is renewed, and LOCKED where its zone is WET (R106). -/
theorem applyTray_renews {old : List Record} {t : Nat} {x : Shelf} {e : TrayEntry} (ht : t < 24)
    (used : trayAt x t = some e)
    (changes : decodeTray (recordOf old t) = none ∨
      ∃ a, decodeTray (recordOf old t) = some a ∧ a.roster ≠ e.roster) :
    ∃ z, Renewed t x z ∧ applyTray old t x = (if e.zone.any (zoneWet x) then lockTray t z else z) ∧
      ((decodeTray (recordOf old t)).isSome →
        (vget x.bay.trays t).state ≠ .unknown ∨ (vget x.bay.trays t).seen ≠ .unknown →
          Task.balance ∈ z.raised ∧ Cause.tray ∈ z.causes) := by
  obtain new | ⟨a, was, moved⟩ := changes
  · exact ⟨_, renewed_renewTray ht x, applyTray_new used new, fun was => by simp [new] at was⟩
  · obtain ⟨renewed, handed⟩ := renewed_moveToRoster ht x
    exact ⟨_, renewed, (applyTray_was used was).1 moved, fun _ => handed⟩

/-- Settles O58. -/
theorem traysAdmittedShedAndLocked : Obligations.TraysAdmittedShedAndLocked := by
  refine ⟨candidate_spec, fun x t e chosen ht used => ?_, fun x t ht => ⟨fun off idle => if_neg ?_, shedTray_spec ht⟩,
    fun x t ht => shelfStopTray_spec ht, fun x t ht => ⟨fun locked => if_pos locked, fun free => ?_⟩,
    fun x t ht => ⟨fun free => if_neg free, fun locked => ?_⟩, fun old x t ht => ?_⟩
  · have admits := admissible_iff used
    rw [traysIn_eq] at admits
    dsimp only
    rw [← admits, admissionTry_candidate chosen]
    refine ⟨fun not => if_neg not, fun may => ?_⟩
    obtain ⟨entered, ordered⟩ := admitTray_spec ht (admits.mp may).1
    obtain ⟨⟨record, queue, stack, told⟩, ordered⟩ := admissionDue_entered entered ordered
    rw [if_pos may]
    exact ⟨record, queue, stack, rfl, told, ordered⟩
  · exact fun runs => runs.elim off idle
  · obtain ⟨⟨record, queue, stack, told⟩, off, on⟩ := lockTray_spec ht free
    exact ⟨record, queue, stack, told, off, on⟩
  · obtain ⟨⟨record, queue, stack, told⟩, tp⟩ := releaseTray_spec ht locked
    exact ⟨record, queue, stack, told, tp⟩
  · refine ⟨fun unused => ?_, fun e used => ⟨fun changes => ?_, fun a was same => ?_⟩⟩
    · obtain ⟨never, gone⟩ := applyTray_out (old := old) unused
      refine ⟨never, fun was => ?_⟩
      rw [gone was]
      exact ⟨(renewed_renewTray ht x).leaves, (renewed_renewTray ht x).dropped ht⟩
    · obtain ⟨z, renewed, acts, handed⟩ := applyTray_renews ht used changes
      obtain ⟨leaves, dropped, locked⟩ := renewed_orLocked ht renewed (e.zone.any (zoneWet x))
      obtain ⟨-, raised, -, causes⟩ := lockTray_keeps t z
      dsimp only
      rw [acts, ← anyWet_iff, Bool.not_eq_true]
      refine ⟨leaves, fun was left => ?_, dropped, locked⟩
      obtain ⟨balance, cause⟩ := handed was left
      split
      · exact ⟨raised _ balance, causes _ cause⟩
      · exact ⟨balance, cause⟩
    · dsimp only
      rw [(applyTray_was used was).2 same, ← anyWet_iff]
      refine ⟨fun zone => keptTray_turned ?_, fun zone wet => keptTray_turned ?_, fun zone dry => keptTray_turned ?_⟩
      · rw [if_neg (not_not.mpr zone)]
      · rw [if_pos zone, if_pos wet]
      · rw [if_pos zone, if_neg dry]

end Sys2Proof.Machine
end


section
/-! PROOF. Where the restore stack may hold trays (O9, R76): a tray is pushed by a shed alone, sheds are raised in RIDE and
DEPLETED alone, and a ride state is left for NORMAL with the stack empty and no shed pending. One lemma for each operation
of the blocks, in the order of the model's files. -/

namespace Sys2Proof.Machine

/-! ### Sheds and the restore stack -/

/-- No tray is to be shed. -/
def NoSheds (s : Shelf) : Prop := ∀ t, Task.shed t ∉ s.agenda ∧ Task.shed t ∉ s.raised ∧ Task.shed t ∉ s.deferred

/-- Outside RIDE and DEPLETED no tray is to be shed, and in NORMAL none is SHEDDING or SHED (R76); the restore stack is
exact, so that no tray is SHEDDING or SHED where it is empty. -/
def ShedsInRide (s : Shelf) : Prop :=
  BayExact s.bay ∧ (s.ride.state ≠ .ride → s.ride.state ≠ .depleted → NoSheds s) ∧
    (s.ride.state = .normal → ∀ t, onStack (trayState s t) = false)

/-- With the restore stack empty no tray is SHEDDING or SHED. -/
theorem onStack_of_stack_nil {b : Bay} (lists : BayExact b) (empty : b.stack = []) (t : Nat) :
    onStack (vget b.trays t).state = false := by
  obtain ⟨-, -, -, stack⟩ := lists
  refine Bool.eq_false_iff.mpr fun on => ?_
  by_cases ht : t < Config.trayCount
  · have member := (stack t).mpr ⟨ht, on⟩
    rw [empty] at member
    cases member
  · have none : vget b.trays t = default := vget_default b.trays (Nat.not_lt.mp ht)
    rw [none] at on
    cases on

/-- With no tray SHEDDING or SHED the restore stack is empty. -/
theorem stack_nil_of_onStack {b : Bay} (lists : BayExact b) (off : ∀ t, onStack (vget b.trays t).state = false) :
    b.stack = [] := by
  obtain ⟨-, -, -, stack⟩ := lists
  refine List.eq_nil_iff_forall_not_mem.mpr fun t member => ?_
  obtain ⟨-, on⟩ := (stack t).mp member
  exact Bool.eq_false_iff.mp (off t) on

section Reactions

variable {s : Shelf}

theorem noSheds_emitAll {ts : List Task} (others : ∀ t, Task.shed t ∉ ts) (h : NoSheds s) : NoSheds (emitAll ts s) := by
  intro t
  obtain ⟨agenda, raised, deferred⟩ := h t
  exact ⟨agenda, List.not_mem_append raised (others t), deferred⟩

theorem noSheds_emit {task : Task} (other : ∀ t, task ≠ .shed t) (h : NoSheds s) : NoSheds (emit task s) :=
  noSheds_emitAll (fun t ht => other t (List.mem_singleton.mp ht).symm) h

theorem noSheds_postpone {task : Task} (other : ∀ t, task ≠ .shed t) (h : NoSheds s) : NoSheds (postpone task s) := by
  intro t
  obtain ⟨agenda, raised, deferred⟩ := h t
  unfold postpone
  split
  · exact h t
  · exact ⟨agenda, raised, List.not_mem_append deferred fun ht => other t (List.mem_singleton.mp ht).symm⟩

theorem noSheds_changed (cs : List Cause) (h : NoSheds s) : NoSheds (changed cs s) := by
  unfold changed
  split
  · exact h
  · rw [foldl_addCause_eq]
    exact noSheds_emit nofun h

/-- In RIDE and DEPLETED any tray may be shed. -/
theorem inRide_of_ride (exact_ : BayExact s.bay) (ride : s.ride.state = .ride ∨ s.ride.state = .depleted) :
    ShedsInRide s := by
  refine ⟨exact_, fun notRide notDepleted => absurd ride (by simp [notRide, notDepleted]), fun normal => ?_⟩
  rw [normal] at ride
  simp at ride

/-- An operation that keeps the ride state, puts no tray on the stack and raises no shed. -/
theorem inRide_of {x : Shelf} (state : x.ride.state = s.ride.state) (exact_ : BayExact s.bay → BayExact x.bay)
    (trays : ∀ t, onStack (trayState x t) = true → onStack (trayState s t) = true) (sheds : NoSheds s → NoSheds x)
    (h : ShedsInRide s) : ShedsInRide x := by
  obtain ⟨lists, none, empty⟩ := h
  unfold ShedsInRide
  rw [state]
  refine ⟨exact_ lists, fun notRide notDepleted => sheds (none notRide notDepleted), fun normal t => ?_⟩
  exact Bool.eq_false_iff.mpr fun on => Bool.eq_false_iff.mp (empty normal t) (trays t on)

theorem inRide_emitAll {ts : List Task} (others : ∀ t, Task.shed t ∉ ts) (h : ShedsInRide s) :
    ShedsInRide (emitAll ts s) := inRide_of (s := s) rfl id (fun _ on => on) (noSheds_emitAll others) h

theorem inRide_emit {task : Task} (other : ∀ t, task ≠ .shed t) (h : ShedsInRide s) : ShedsInRide (emit task s) :=
  inRide_of (s := s) rfl id (fun _ on => on) (noSheds_emit other) h

theorem inRide_postpone {task : Task} (other : ∀ t, task ≠ .shed t) (h : ShedsInRide s) :
    ShedsInRide (postpone task s) :=
  inRide_of (by rw [postpone_eq]) (closedEvent_bayExact.postpone _)
    (fun t on => by rw [postpone_eq] at on; exact on) (noSheds_postpone other) h

theorem inRide_postponeFirst {task : Task} (other : ∀ t, task ≠ .shed t) (h : ShedsInRide s) :
    ShedsInRide (postponeFirst task s) := by
  refine inRide_of (s := s) rfl id (fun _ on => on) (fun none t => ?_) h
  obtain ⟨agenda, raised, deferred⟩ := none t
  exact ⟨agenda, raised, List.not_mem_cons_of_ne_of_not_mem (other t).symm deferred⟩

theorem inRide_changed (cs : List Cause) (h : ShedsInRide s) : ShedsInRide (changed cs s) :=
  inRide_of (by rw [changed_eq]) (closedEvent_bayExact.changed cs)
    (fun t on => by rw [changed_eq] at on; exact on) (noSheds_changed cs) h

/-- A list of tasks made by another constructor holds no shed. -/
theorem shed_not_mem_map {α : Type} {f : α → Task} (other : ∀ a t, f a ≠ .shed t) (l : List α) (t : Nat) :
    Task.shed t ∉ l.map f := by
  intro ht
  obtain ⟨a, -, same⟩ := List.mem_map.mp ht
  exact other a t same

end Reactions

/-! ### Shared operations and orders -/

section Orders

variable {s : Shelf}

theorem inRide_placeReply (f : TxFrame) (h : ShedsInRide s) : ShedsInRide (placeReply f s) := by
  rw [placeReply_eq]
  exact h

theorem inRide_placeReplies (fs : List Frame) (h : ShedsInRide s) : ShedsInRide (placeReplies fs s) :=
  keep_foldl (fun _ _ h => inRide_placeReply _ h) fs h

theorem inRide_setEngine (p : Port) (e : PortEngine) (h : ShedsInRide s) : ShedsInRide (setEngine p e s) := by
  cases p <;> exact h

theorem inRide_setPoll (p : Port) (e : PollEngine) (h : ShedsInRide s) : ShedsInRide (setPoll p e s) := by
  cases p <;> exact h

theorem shed_not_mem_outcomeTasks (o : ControlOrder) (res : OrderOutcome) (t : Nat) :
    Task.shed t ∉ outcomeTasks o res := by
  unfold outcomeTasks
  split <;> simp

/-- The outcome of an order at a DISABLED port is the one reaction of its placing. -/
theorem noSheds_orderModule (r : Nat) (t : Target) (code : Byte) (a : Nat) (h : NoSheds s) :
    NoSheds (orderModule r t code a s) := by
  unfold orderModule
  split
  · unfold placeControl
    dsimp only
    split
    · rw [setPoll_eq]
      exact h
    · exact noSheds_emitAll (shed_not_mem_outcomeTasks _ _) h
  · exact noSheds_emitAll (shed_not_mem_outcomeTasks _ _) h

theorem inRide_orderModule (r : Nat) (t : Target) (code : Byte) (a : Nat) (h : ShedsInRide s) :
    ShedsInRide (orderModule r t code a s) := by
  unfold orderModule
  split
  · unfold placeControl
    dsimp only
    split
    · exact inRide_setPoll _ _ h
    · exact inRide_emitAll (shed_not_mem_outcomeTasks _ _) h
  · exact inRide_emitAll (shed_not_mem_outcomeTasks _ _) h

theorem inRide_placeOn (t : Nat) (h : ShedsInRide s) : ShedsInRide (placeOn t s) := by
  unfold placeOn
  split
  · exact inRide_orderModule _ _ _ _ h
  · exact h

theorem inRide_placeOff (t : Nat) (h : ShedsInRide s) : ShedsInRide (placeOff t s) := by
  unfold placeOff
  split
  · exact keep_ite (fun _ => h) fun _ => inRide_orderModule _ _ _ _ h
  · exact h

theorem inRide_placeBbm (k : Nat) (code : Byte) (a : Nat) (h : ShedsInRide s) : ShedsInRide (placeBbm k code a s) := by
  unfold placeBbm
  split
  · exact inRide_orderModule _ _ _ _ h
  · exact h

theorem inRide_placeBbmOnce (k : Nat) (code : Byte) (h : ShedsInRide s) : ShedsInRide (placeBbmOnce k code s) :=
  keep_ite (fun _ => h) fun _ => inRide_placeBbm _ _ _ h

theorem noSheds_holdBatteries (h : NoSheds s) : NoSheds (holdBatteries s) := by
  refine keep_foldl (P := NoSheds) (fun u k h => keep_ite (fun _ => ?_) fun _ => h) _ h
  unfold placeBbm
  split
  · exact noSheds_orderModule _ _ _ _ h
  · exact h

end Orders

section Blocks

variable {s : Shelf}

/-! ### The Balance Unit -/

theorem inRide_tellMonitorAndSequencer (b : Bool) (h : ShedsInRide s) : ShedsInRide (tellMonitorAndSequencer b s) :=
  keep_ite
    (fun _ => inRide_postpone nofun (keep_ite (fun _ => inRide_postpone nofun h) fun _ => h))
    fun _ => keep_ite (fun _ => inRide_postpone nofun (inRide_postpone nofun h)) fun _ => inRide_postpone nofun h

/-- The Ride-Through Controller's turn waits as the last of the deferred reactions. -/
theorem inRide_defer {task : Task} (other : ∀ t, task ≠ .shed t) (h : ShedsInRide s) :
    ShedsInRide { s with deferred := s.deferred ++ [task] } := by
  refine inRide_of (s := s) rfl id (fun _ on => on) (fun none t => ?_) h
  obtain ⟨agenda, raised, deferred⟩ := none t
  exact ⟨agenda, raised, List.not_mem_append deferred fun ht => other t (List.mem_singleton.mp ht).symm⟩

theorem inRide_handOnBalance (old new : Balance) (h : ShedsInRide s) : ShedsInRide (handOnBalance old new s) := by
  have due : ShedsInRide (if old.h < new.h then admissionDue s else s) := keep_ite (fun _ => h) fun _ => h
  unfold handOnBalance
  dsimp only
  split
  · exact inRide_tellMonitorAndSequencer _ (inRide_emit nofun due)
  · exact inRide_tellMonitorAndSequencer _ (inRide_defer nofun due)
  · exact inRide_defer nofun (inRide_tellMonitorAndSequencer _ due)

theorem inRide_recompute (causes : List Cause) (h : ShedsInRide s) : ShedsInRide (recompute causes s) := by
  have taken : ShedsInRide { s with balance := balanceNow s causes, causes := [] } := h
  exact inRide_handOnBalance _ _ (keep_ite (fun _ => taken) fun _ => taken)

theorem inRide_performBalance (h : ShedsInRide s) : ShedsInRide (performBalance s) :=
  keep_ite (fun _ => h) fun _ => inRide_recompute _ h

/-! ### The Tray Controller -/

theorem noSheds_afterTray (before : Shelf) (old new : TrayState) (h : NoSheds s) :
    NoSheds (afterTray before old new s) := by
  have queue (p : Prop) [Decidable p] : NoSheds (if p then admissionDue (postpone .charge s) else s) :=
    keep_ite (P := NoSheds) (fun _ => noSheds_postpone nofun h) fun _ => h
  have stack (p : Prop) [Decidable p] {x : Shelf} (h : NoSheds x) :
      NoSheds (if p then admissionDue (emit .stackChanged x) else x) :=
    keep_ite (P := NoSheds) (fun _ => noSheds_emit (s := x) nofun h) fun _ => h
  have entered (p : Prop) [Decidable p] {x : Shelf} (h : NoSheds x) : NoSheds (if p then admissionDue x else x) :=
    keep_ite (P := NoSheds) (fun _ => h) fun _ => h
  have adopted (p : Prop) [Decidable p] {x : Shelf} (h : NoSheds x) :
      NoSheds (if p then admissionDue (postpone .autostartTest x) else x) :=
    keep_ite (P := NoSheds) (fun _ => noSheds_postpone (s := x) nofun h) fun _ => h
  exact adopted _ (entered _ (stack _ (queue _)))

/-- A tray that takes a state puts itself on the stack only where it takes SHEDDING or SHED (R76). -/
theorem inRide_trayTo (t : Nat) {new : TrayState} (f : Tray → Tray)
    (push : onStack new = true → onStack (trayState s t) = true) (h : ShedsInRide s) :
    ShedsInRide (trayTo t new f s) := by
  refine inRide_of (by rw [ride_trayTo]) (closedEvent_bayExact.trayTo t new f) (fun u on => ?_) (fun none => ?_) h
  · rw [trayState_trayTo] at on
    split at on
    case isTrue same =>
      obtain ⟨rfl, -⟩ := same
      exact push on
    case isFalse => exact on
  · unfold trayTo
    dsimp only
    refine noSheds_afterTray _ _ _ (noSheds_changed _ ?_)
    rw [trayNotice_eq]
    exact none

/-- A change of a tray's fields that leaves its state. -/
theorem inRide_editTray (t : Nat) (f : Tray → Tray) (h : ShedsInRide s) : ShedsInRide (editTray t f s) := by
  refine inRide_of (s := s) rfl (closedEvent_bayExact.editTray t f) (fun u on => ?_) (fun none => none) h
  have state : trayState (editTray t f s) u = trayState s u := by
    unfold trayState editTray
    rw [vget_vmod]
    split <;> rfl
  rwa [state] at on

theorem inRide_faultTray (t : Nat) (cause : TrayFault) (h : ShedsInRide s) : ShedsInRide (faultTray t cause s) :=
  keep_ite (fun _ => inRide_placeOff _ (inRide_trayTo _ _ nofun h)) fun _ => inRide_trayTo _ _ nofun h

theorem inRide_trayGood (t : Nat) (time : Time) (h : ShedsInRide s) : ShedsInRide (trayGood t time s) :=
  inRide_trayTo _ _ nofun h

theorem inRide_stopTray (t : Nat) (h : ShedsInRide s) : ShedsInRide (stopTray t s) := by
  unfold stopTray
  dsimp only
  split
  · exact inRide_placeOff _ (inRide_trayTo _ _ nofun h)
  · exact inRide_placeOff _ (inRide_trayTo _ _ nofun h)
  · exact inRide_trayTo _ _ nofun h
  · exact h

theorem inRide_withdrawTray (t : Nat) (h : ShedsInRide s) : ShedsInRide (withdrawTray t s) :=
  keep_ite (fun _ => inRide_trayTo _ _ nofun h) fun _ => h

theorem inRide_lockTrayOnly (t : Nat) (h : ShedsInRide s) : ShedsInRide (lockTrayOnly t s) :=
  keep_ite (fun _ => h) fun _ => inRide_trayTo _ _ nofun h

theorem inRide_lockTray (t : Nat) (h : ShedsInRide s) : ShedsInRide (lockTray t s) :=
  keep_ite (fun _ => h) fun _ =>
    keep_ite (fun _ => inRide_lockTrayOnly _ h) fun _ => inRide_placeOff _ (inRide_lockTrayOnly _ h)

theorem inRide_releaseTray (t : Nat) (h : ShedsInRide s) : ShedsInRide (releaseTray t s) :=
  keep_ite (fun _ => inRide_trayTo _ _ nofun h) fun _ => h

theorem inRide_clearTray (t : Nat) (h : ShedsInRide s) : ShedsInRide (clearTray t s) :=
  inRide_placeOff _ (inRide_trayTo _ _ nofun h)

theorem inRide_requestAdmission (t : Nat) (origin : QueuedBy) (h : ShedsInRide s) :
    ShedsInRide (requestAdmission t origin s) := keep_ite (fun _ => inRide_trayTo _ _ nofun h) fun _ => h

theorem inRide_shelfStopTray (t : Nat) (h : ShedsInRide s) : ShedsInRide (shelfStopTray t s) := by
  unfold shelfStopTray
  split
  · exact inRide_stopTray _ h
  · exact inRide_stopTray _ h
  · exact inRide_stopTray _ h
  · exact inRide_withdrawTray _ h
  · exact inRide_trayTo _ _ nofun h
  · exact h

theorem inRide_setSeen (t : Nat) (seen : Seen) (h : ShedsInRide s) : ShedsInRide (setSeen t seen s) :=
  keep_ite (fun _ => h) fun _ => inRide_changed _ (inRide_editTray _ _ h)

/-- A tray adopted ON is to be shed in DEPLETED alone (R89). -/
theorem inRide_adoptedOn (t : Nat) (h : ShedsInRide s) : ShedsInRide (adoptedOn t s) :=
  keep_ite (fun _ => inRide_emit nofun h) fun _ =>
    keep_ite (fun depleted => inRide_of_ride (s := emit (.shed t) s) h.1 (.inr depleted)) fun _ => h

theorem inRide_trayStatus (t word : Nat) (time : Time) (h : ShedsInRide s) : ShedsInRide (trayStatus t word time s) := by
  have seen : ShedsInRide (setSeen t (if bitOutputOn word then .on else .off) s) := inRide_setSeen _ _ h
  unfold trayStatus
  dsimp only
  split
  · exact keep_ite (fun _ => inRide_adoptedOn _ (inRide_trayTo _ _ nofun seen)) fun _ => inRide_trayTo _ _ nofun seen
  · exact keep_ite (fun _ => inRide_trayGood _ _ seen) fun _ => seen
  · exact keep_ite (fun _ => seen) fun _ => inRide_faultTray _ _ seen
  · exact seen

theorem inRide_trayLineEdge (t : Nat) (rising : Bool) (time : Time) (h : ShedsInRide s) :
    ShedsInRide (trayLineEdge t rising time s) := by
  unfold trayLineEdge
  dsimp only
  split
  · exact keep_ite (fun _ => inRide_trayGood _ _ h) fun _ => h
  · exact keep_ite (fun _ => h) fun _ => inRide_faultTray _ _ h
  · exact h

theorem inRide_trayAbsent (t : Nat) (h : ShedsInRide s) : ShedsInRide (trayAbsent t s) := by
  have seen : ShedsInRide (setSeen t .unknown s) := inRide_setSeen _ _ h
  unfold trayAbsent
  dsimp only
  split
  · exact inRide_trayTo _ _ nofun seen
  · exact inRide_withdrawTray _ seen
  · exact inRide_faultTray _ _ seen
  · exact inRide_faultTray _ _ seen
  · exact seen

/-- A tray that becomes SHED was SHEDDING (R91). -/
theorem inRide_trayOutcome (t : Nat) (code : Byte) (o : OrderOutcome) (h : ShedsInRide s) :
    ShedsInRide (trayOutcome t code o s) := by
  unfold trayOutcome
  dsimp only
  refine keep_ite (fun _ => h) fun _ => ?_
  split
  · refine keep_ite (fun _ => ?_) fun _ => inRide_faultTray _ _ h
    exact keep_ite (fun _ => inRide_trayGood _ _ (inRide_editTray _ _ h)) fun _ => inRide_editTray _ _ h
  · exact keep_ite (fun _ => inRide_trayTo _ _ nofun h) fun _ => inRide_faultTray _ _ h
  · rename_i shedding
    refine keep_ite (fun _ => inRide_trayTo _ _ (fun _ => ?_) h) fun _ => inRide_faultTray _ _ h
    rw [trayState, shedding]
    rfl
  · exact h

theorem inRide_admissionDue (h : ShedsInRide s) : ShedsInRide (admissionDue s) := h

theorem inRide_admitTray (t : Nat) (h : ShedsInRide s) : ShedsInRide (admitTray t s) :=
  inRide_placeOn t (inRide_trayTo t _ nofun h)

theorem inRide_admissionTry (h : ShedsInRide s) : ShedsInRide (admissionTry s) := by
  have ended : ShedsInRide { s with admitDue := false } := h
  unfold admissionTry
  split
  · exact keep_ite (fun _ => inRide_admissionDue (inRide_admitTray _ h)) fun _ => ended
  · exact ended

theorem inRide_answerOrder (a code status : Byte) (h : ShedsInRide s) : ShedsInRide (answerOrder a code status s) :=
  inRide_placeReply _ h

theorem inRide_interceptOn (a : Byte) (t : Nat) (h : ShedsInRide s) : ShedsInRide (interceptOn a t s) := by
  unfold interceptOn
  split
  · exact inRide_answerOrder _ _ _ h
  · exact keep_ite (fun _ => inRide_requestAdmission _ _ (inRide_answerOrder _ _ _ h))
      fun _ => inRide_answerOrder _ _ _ h

theorem inRide_interceptOff (a : Byte) (t : Nat) (h : ShedsInRide s) : ShedsInRide (interceptOff a t s) := by
  have told := fun status => inRide_answerOrder a codeOutputOff status h
  unfold interceptOff
  split
  · exact told _
  · dsimp only
    split
    · exact inRide_withdrawTray _ (told _)
    · exact inRide_stopTray _ (told _)
    · exact inRide_stopTray _ (told _)
    · exact inRide_stopTray _ (told _)
    · exact inRide_trayTo _ _ nofun (told _)
    · exact told _

/-! ### The Guard -/

theorem inRide_relayOrder (r : Nat) (p : Port) (a code : Byte) (argument : Nat) (h : ShedsInRide s) :
    ShedsInRide (relayOrder r p a code argument s) := by
  unfold relayOrder
  dsimp only
  exact keep_ite (fun _ => inRide_answerOrder _ _ _ h) fun _ =>
    keep_ite (fun _ => inRide_answerOrder _ _ _ h) fun _ => inRide_setPoll _ _ h

theorem inRide_decideOrder (a code : Byte) (argument : Nat) (h : ShedsInRide s) :
    ShedsInRide (decideOrder a code argument s) := by
  unfold decideOrder
  split
  · exact inRide_answerOrder _ _ _ h
  · refine keep_ite (fun _ => inRide_interceptOn _ _ h) fun _ => keep_ite (fun _ => inRide_interceptOff _ _ h) fun _ =>
      keep_ite (fun _ => inRide_answerOrder _ _ _ h) fun _ => ?_
    unfold guardTable
    split
    · exact inRide_answerOrder _ _ _ h
    · exact inRide_relayOrder _ _ _ _ _ h

/-! ### The Ride-Through Controller -/

/-- A change of the account leaves the ride state as it is, or sets it. -/
theorem noSheds_setRide (f : Ride → Ride) (h : NoSheds s) : NoSheds (setRide f s) :=
  keep_ite (P := NoSheds) (fun _ => noSheds_postpone (s := { s with ride := f s.ride }) nofun h) fun _ => h

theorem inRide_setRide (f : Ride → Ride) (state : (f s.ride).state = s.ride.state) (h : ShedsInRide s) :
    ShedsInRide (setRide f s) :=
  inRide_of (by rw [ride_setRide, state]) (fun lists => by rwa [setRide_eq])
    (fun t on => by rw [setRide_eq] at on; exact on) (noSheds_setRide f) h

theorem inRide_energyUpdate (h : ShedsInRide s) : ShedsInRide (energyUpdate s) :=
  keep_ite (fun _ => inRide_setRide _ rfl h) fun _ => h

theorem inRide_recomputeCapacity (h : ShedsInRide s) : ShedsInRide (recomputeCapacity s) :=
  inRide_energyUpdate (inRide_setRide _ rfl h)

theorem inRide_rideBattery (k : Nat) (old new : BbmState) (h : ShedsInRide s) :
    ShedsInRide (rideBattery k old new s) := by
  have lost : ShedsInRide (if !unusableState old && unusableState new then batteryLost k s else s) :=
    keep_ite (fun _ => keep_ite (fun _ => h) fun _ => inRide_setRide _ rfl h) fun _ => h
  have counted := keep_ite (p := (unusableState old || unusableState new) = true)
    (fun _ => inRide_recomputeCapacity lost) fun _ => lost
  unfold rideBattery rideOrders
  dsimp only
  split
  · exact inRide_placeBbmOnce _ _ counted
  · exact inRide_placeBbmOnce _ _ counted
  · exact inRide_placeBbmOnce _ _ counted
  · exact inRide_placeBbmOnce _ _ counted
  · exact counted

/-- A change of the ride state raises no shed. -/
theorem noSheds_rideTo (new : RideState) (f : Ride → Ride) (h : NoSheds s) : NoSheds (rideTo new f s) := by
  have told : NoSheds (setDrives (setRide (fun r => { f r with state := new }) s)) := noSheds_setRide _ h
  have left (p : Prop) [Decidable p] {x : Shelf} (h : NoSheds x) : NoSheds (if p then leaveNormal x else x) := by
    refine keep_ite (P := NoSheds) (fun _ => ?_) fun _ => h
    rw [leaveNormal_eq]
    exact noSheds_emit (s := x) nofun h
  have reached (p : Prop) [Decidable p] {x : Shelf} (h : NoSheds x) : NoSheds (if p then reachNormal x else x) :=
    keep_ite (P := NoSheds) (fun _ => noSheds_postpone nofun (keep_ite (P := NoSheds)
      (fun _ => noSheds_postpone nofun (noSheds_postpone nofun h))
      fun _ => noSheds_postpone nofun (noSheds_postpone nofun h))) fun _ => h
  exact reached _ (left _ told)

/-- NORMAL is entered with the restore stack empty and no tray to be shed (R76, R82). -/
theorem inRide_stackChanged (h : ShedsInRide s) : ShedsInRide (stackChanged s) := by
  refine keep_ite (fun empties => ?_) fun _ => h
  obtain ⟨returning, empty⟩ := empties
  obtain ⟨lists, calm, -⟩ := h
  have none : NoSheds s := calm (by rw [returning]; decide) (by rw [returning]; decide)
  refine ⟨closedEvent_bayExact.enterNormal lists, fun _ _ => noSheds_rideTo _ _ none, fun _ t => ?_⟩
  obtain ⟨-, -, -, -, -, -, bay, -⟩ := enterNormal_spec returning
  rw [trayState, bay]
  exact onStack_of_stack_nil lists empty t

/-- A record enters RIDE, or sets the qualify timer alone (R63, R79, R81). -/
theorem inRide_rideRecord (deficit line ok : Bool) (d : Nat) (h : ShedsInRide s) :
    ShedsInRide (rideRecord deficit line ok d s) := by
  obtain ⟨lists, -⟩ := id h
  have entered : ShedsInRide (enterRide line d s) :=
    inRide_of_ride (closedEvent_bayExact.enterRide _ _ lists) (.inl (congrArg Ride.state (ride_rideTo .ride _ _)))
  unfold rideRecord
  split
  case h_1 => exact keep_ite (fun _ => entered) fun _ => h
  case h_2 returning =>
    refine keep_ite (fun _ => inRide_of_ride ?_ (.inl (congrArg Ride.state (ride_rideTo .ride _ _)))) fun _ => h
    exact closedEvent_bayExact.secondLoss d (by rw [returning]; nofun) lists
  case h_3 => exact h
  case h_4 => exact h

/-- A shed is performed in RIDE and DEPLETED alone, and leaves the ride state (R74). -/
theorem inRide_shedTray (t : Nat) (lists : BayExact s.bay) (ride : s.ride.state = .ride ∨ s.ride.state = .depleted) :
    ShedsInRide (shedTray t s) := by
  refine inRide_of_ride (closedEvent_bayExact.shedTray t lists) ?_
  have state : (shedTray t s).ride.state = s.ride.state := by
    unfold shedTray
    split
    · rw [placeOff_eq, ride_trayTo]
      rfl
    · rfl
  rwa [state]

/-- The tick is taken in RIDE, and leaves it for DEPLETED alone (R68, R75). -/
theorem inRide_energyTick (ride : s.ride.state = .ride) (lists : BayExact s.bay) : ShedsInRide (energyTick s) := by
  refine inRide_of_ride (closedEvent_bayExact.energyTick (by rw [ride]; nofun) lists) ?_
  by_cases empty : (debited s).eRem - (policy s).energyReserve = 0
  · right
    rw [(energyTick_depleted ride empty).1]
  · left
    rw [(energyTick_projects rfl empty).1]
    exact ride

/-- RETURNING is entered with no tray to be shed (R79, R80). -/
theorem inRide_enterReturning (ride : s.ride.state = .ride ∨ s.ride.state = .depleted) (lists : BayExact s.bay)
    (none : NoSheds s) : ShedsInRide (enterReturning s) := by
  have left : s.ride.state ≠ .normal := fun normal => by simp [normal] at ride
  have state : (enterReturning s).ride.state = .returning := by rw [(enterReturning_spec ride).1]
  have sheds : NoSheds (enterReturning s) := by
    have entered (f : Ride → Ride) : NoSheds (rideTo .returning f (holdBatteries s)) :=
      noSheds_rideTo _ _ (noSheds_holdBatteries none)
    have posted {x : Shelf} (w v : Nat) (h : NoSheds x) : NoSheds (post srcRide 0 ntRideReturn w v x) := h
    unfold enterReturning
    exact noSheds_emit nofun (posted _ _ (entered _))
  refine ⟨closedEvent_bayExact.enterReturning left lists, fun _ _ => sheds, fun normal => ?_⟩
  rw [state] at normal
  cases normal

end Blocks

end Sys2Proof.Machine
end


section
/-! PROOF. Where the restore stack may hold trays (O9, R76), continued: the Module Monitor, the Signal Screen, the Sense
Line Unit, the zones, the Program Sequencer, the ports, an apply and the start-up raise no shed. -/

namespace Sys2Proof.Machine

section Blocks

variable {s : Shelf}


/-! ### Changes that touch neither the trays, the ride state nor the reactions -/

theorem inRide_post (source index code word1 word2 : Nat) (h : ShedsInRide s) :
    ShedsInRide (post source index code word1 word2 s) := h

theorem inRide_editModule (r : Nat) (f : Module → Module) (h : ShedsInRide s) : ShedsInRide (editModule r f s) := h

theorem inRide_editEngine (p : Port) (f : PortEngine → PortEngine) (h : ShedsInRide s) :
    ShedsInRide (editEngine p f s) := inRide_setEngine _ _ h

theorem inRide_editPoll (p : Port) (f : PollEngine → PollEngine) (h : ShedsInRide s) : ShedsInRide (editPoll p f s) :=
  inRide_setPoll _ _ h

theorem inRide_bbms (v : Vector Bbm 6) (h : ShedsInRide s) : ShedsInRide { s with bbms := v } := h

theorem inRide_signals (v : Vector Signal 128) (h : ShedsInRide s) : ShedsInRide { s with signals := v } := h

/-! ### The Module Monitor -/

theorem inRide_editPsm (i : Nat) (f : Psm → Psm) (h : ShedsInRide s) : ShedsInRide (editPsm i f s) := h

theorem inRide_psmTo (i : Nat) (new : PsmState) (reason : PsmReason) (cause : Cause) (h : ShedsInRide s) :
    ShedsInRide (psmTo i new reason cause s) :=
  inRide_changed _ (inRide_post _ _ _ _ _ (inRide_editPsm _ _ h))

theorem inRide_checkPsm (i : Nat) (trigger : PsmTrigger) (h : ShedsInRide s) : ShedsInRide (checkPsm i trigger s) := by
  unfold checkPsm
  split
  · exact h
  · exact keep_ite (fun _ => h) fun _ => inRide_psmTo _ _ _ _ h

theorem inRide_psmLine (i : Nat) (active : Bool) (h : ShedsInRide s) : ShedsInRide (psmLine i active s) :=
  keep_ite (fun _ => h) fun _ =>
    keep_ite (fun _ => inRide_editPsm _ _ h) fun _ => inRide_checkPsm _ _ (inRide_editPsm _ _ h)

theorem inRide_psmAbsent (i : Nat) (h : ShedsInRide s) : ShedsInRide (psmAbsent i s) :=
  keep_ite (fun _ => h) fun _ => inRide_checkPsm _ _ (inRide_editPsm _ _ h)

theorem inRide_tellBbmState (k : Nat) (old new : BbmState) (reason : BbmReason) (h : ShedsInRide s) :
    ShedsInRide (tellBbmState k old new reason s) :=
  inRide_postpone nofun (inRide_rideBattery _ _ _ (inRide_changed _ (inRide_post _ _ _ _ _ h)))

theorem inRide_putBbm (k : Nat) (reason : BbmReason) (f : Bbm → Bbm) (h : ShedsInRide s) :
    ShedsInRide (putBbm k reason f s) := by
  have full := fun v (p : Prop) [Decidable p] =>
    keep_ite (p := p) (fun _ => inRide_postpone (task := .charge) nofun (inRide_bbms v h)) fun _ => inRide_bbms v h
  have acknowledged := fun v (p q : Prop) [Decidable p] [Decidable q] =>
    keep_ite (p := q) (fun _ => inRide_changed [.charge] (full v p)) fun _ => full v p
  exact keep_ite (fun _ => inRide_tellBbmState _ _ _ _ (acknowledged _ _ _)) fun _ => acknowledged _ _ _

theorem inRide_adoptBbm (k : Nat) (word : Option Nat) (h : ShedsInRide s) : ShedsInRide (adoptBbm k word s) := by
  unfold adoptBbm
  exact inRide_putBbm _ _ _ h

theorem inRide_bbmStatusWord (k word : Nat) (h : ShedsInRide s) : ShedsInRide (bbmStatusWord k word s) := by
  have filled := inRide_putBbm k .full (fun r =>
    if r.state = .charging && bitFull word then
      { r with full := bitFull word, state := .idle, acknowledged := 0 }
    else { r with full := bitFull word }) h
  exact keep_ite (fun _ => keep_ite (fun _ => filled) fun _ => inRide_putBbm _ _ _ filled) fun _ =>
    keep_ite (fun _ => inRide_adoptBbm _ _ filled) fun _ => filled

theorem inRide_bbmReport (k : Nat) (words : List Nat) (h : ShedsInRide s) : ShedsInRide (bbmReport k words s) :=
  keep_ite (fun _ => h) fun _ =>
    keep_ite (fun _ => keep_foldl (fun _ _ h => inRide_bbmStatusWord _ _ h) _ h) fun _ =>
      keep_foldl (fun _ _ h => inRide_bbmStatusWord _ _ h) _ (inRide_adoptBbm _ _ h)

theorem inRide_bbmAbsent (k : Nat) (h : ShedsInRide s) : ShedsInRide (bbmAbsent k s) :=
  keep_ite (fun _ => h) fun _ => inRide_putBbm _ _ _ h

theorem inRide_failBbm (k : Nat) (cause : BbmFault) (reason : BbmReason) (h : ShedsInRide s) :
    ShedsInRide (failBbm k cause reason s) := keep_ite (fun _ => h) fun _ => inRide_putBbm _ _ _ h

theorem inRide_bbmOutcome (k : Nat) (code : Byte) (argument : Nat) (o : OrderOutcome) (h : ShedsInRide s) :
    ShedsInRide (bbmOutcome k code argument o s) := by
  refine keep_ite (fun _ => h) fun _ => ?_
  cases o with
  | ack => exact keep_ite (fun _ => inRide_putBbm _ _ _ h) fun _ => inRide_failBbm _ _ _ h
  | noAnswer => exact inRide_failBbm _ _ _ h
  | portOff => exact h

theorem inRide_orderRate (rates : List (Nat × Nat)) (h : ShedsInRide s) : ShedsInRide (orderRate rates s) :=
  keep_foldl (fun _ _ h => keep_ite (fun _ => inRide_placeBbm _ _ _ (inRide_bbms _ h)) fun _ => h) rates h

theorem inRide_holdDischarging (h : ShedsInRide s) : ShedsInRide (holdDischarging s) :=
  keep_foldl (fun _ _ h => keep_ite (fun _ => inRide_placeBbmOnce _ _ h) fun _ => h) _ h

theorem inRide_chargeEvaluation (h : ShedsInRide s) : ShedsInRide (chargeEvaluation s) := by
  have budgeted {x : Shelf} (n : Nat) (h : ShedsInRide x) : ShedsInRide { x with chargeBudget := n } := h
  exact keep_ite (fun _ => inRide_orderRate _ (budgeted _ (inRide_holdDischarging h))) fun _ => h

theorem inRide_chargeZero (h : ShedsInRide s) : ShedsInRide (chargeZero s) :=
  keep_ite (fun _ => inRide_bbms _ h) fun _ => inRide_changed _ (inRide_bbms _ h)

/-! ### The Signal Screen -/

theorem inRide_bandNotice (n : Nat) (old : Band) (notify : Bool) (h : ShedsInRide s) :
    ShedsInRide (bandNotice n old notify s) := keep_ite (fun _ => inRide_post _ _ _ _ _ h) fun _ => h

theorem inRide_putSignal (n : Nat) (notify : Bool) (f : Signal → Signal) (h : ShedsInRide s) :
    ShedsInRide (putSignal n notify f s) := inRide_bandNotice _ _ _ h

theorem inRide_checkPsms (trigger : PsmTrigger) (is : List Nat) (h : ShedsInRide s) :
    ShedsInRide (checkPsms trigger is s) := keep_foldl (fun _ _ h => inRide_checkPsm _ _ h) is h

theorem inRide_handOnSignals (x : HandOn) (trigger : PsmTrigger) (h : ShedsInRide s) :
    ShedsInRide (handOnSignals x trigger s) := by
  have checked := keep_ite (p := (trigger = .report || s.applying.isSome : Bool) = true)
    (fun _ => inRide_checkPsms trigger (psmsWithBand s x) h) fun _ => h
  have anchored := fun p [Decidable p] => keep_ite (p := p) (fun _ => inRide_energyUpdate checked) fun _ => checked
  have told := fun p cs [Decidable p] => inRide_changed cs (anchored p)
  have later := fun p cs q psms [Decidable p] [Decidable q] =>
    keep_ite (p := q) (fun _ => inRide_emit (task := .psmBands psms) nofun (told p cs)) fun _ => told p cs
  exact keep_ite (fun _ => inRide_emit nofun (later _ _ _ _)) fun _ => later _ _ _ _

theorem inRide_staleSignal (n : Nat) (notify : Bool) (h : ShedsInRide s) : ShedsInRide (staleSignal n notify s) :=
  keep_ite (fun _ => h) fun _ => inRide_putSignal _ _ _ h

theorem inRide_staleAll (es : List SampleEntry) (h : ShedsInRide s) : ShedsInRide (staleAll es s) :=
  inRide_handOnSignals _ _ (keep_foldl (fun _ _ h => inRide_staleSignal _ _ h) es h)

theorem inRide_applySample (e : SampleEntry) (raw : Nat) (time : Time) (h : ShedsInRide s) :
    ShedsInRide (applySample e raw time s) := inRide_putSignal _ _ _ h

theorem inRide_applySamples (time : Time) :
    ∀ (samples : List (SampleEntry × Nat)) (x : Shelf × List (Nat × SignalKind)), ShedsInRide x.1 →
      ShedsInRide (applySamples time samples x).1
  | [], _, h => h
  | _ :: rest, _, h => inRide_applySamples time rest _ (inRide_applySample _ _ _ h)

/-- The owner of each kind of module takes its words one after another. -/
theorem inRide_deliverStatus (e : RosterEntry) (r : Nat) (words : List Nat) (time : Time) (h : ShedsInRide s) :
    ShedsInRide (deliverStatus e r words time s) := by
  unfold deliverStatus
  split
  · exact keep_ite (fun _ => keep_foldl (fun _ _ h => inRide_editPsm _ _ h) words h) fun _ => h
  · exact keep_ite (fun _ => inRide_bbmReport _ _ h) fun _ => h
  · exact keep_ite (fun _ => keep_foldl (fun _ _ h => inRide_trayStatus _ _ _ h) words h) fun _ => h
  · exact h

theorem inRide_evaluateReporter (e : RosterEntry) (r : Nat) (words : List Nat) (h : ShedsInRide s) :
    ShedsInRide (evaluateReporter e r words s) := by
  unfold evaluateReporter
  split
  · exact keep_ite (fun _ => inRide_checkPsm _ _ h) fun _ => h
  · exact h

theorem inRide_takeReport (r : Nat) (pairs : List (Nat × Nat)) (time : Time) (h : ShedsInRide s) :
    ShedsInRide (takeReport r pairs time s) := by
  unfold takeReport
  split
  · exact h
  · exact inRide_handOnSignals _ _ (inRide_evaluateReporter _ _ _
      (inRide_deliverStatus _ _ _ _ (inRide_applySamples _ _ _ h)))

/-! ### The Sense Line Unit -/

theorem inRide_editLine (l : Nat) (f : SenseLine → SenseLine) (h : ShedsInRide s) : ShedsInRide (editLine l f s) := h

theorem inRide_followShelfStop (h : ShedsInRide s) : ShedsInRide (followShelfStop s) := by
  have moved (b : Bool) : ShedsInRide { s with shelfStop := b } := h
  have others (t : Nat) : Task.shed t ∉ stopTasks s := by
    unfold stopTasks
    dsimp only
    split <;> simp
  exact keep_ite (fun _ => h) fun _ => keep_ite (fun _ => inRide_emitAll others (moved true))
    fun _ => inRide_admissionDue (inRide_postpone nofun (moved false))

/-- Each role has its own receiver; a TRAY-GOOD line tells its tray of edges alone. -/
theorem inRide_deliverLine (e : SenseEntry) (l : Nat) (active : Bool) (edge : Option Time) (h : ShedsInRide s) :
    ShedsInRide (deliverLine e l active edge s) := by
  unfold deliverLine
  split
  · exact h
  · exact inRide_psmLine _ _ h
  · exact inRide_emit nofun h
  · split
    · exact keep_ite (fun _ => inRide_trayLineEdge _ _ _ h) fun _ => h
    · exact h
  · exact inRide_followShelfStop h

theorem inRide_acceptLevel (l : Nat) (level : Level) (time : Time) (h : ShedsInRide s) :
    ShedsInRide (acceptLevel l level time s) := inRide_deliverLine _ _ _ _ (inRide_editLine _ _ h)

theorem inRide_takeSample (l : Nat) (level : Level) (h : ShedsInRide s) : ShedsInRide (takeSample l level s) :=
  keep_ite (fun _ => inRide_acceptLevel _ _ _ (inRide_editLine _ _ h))
    fun _ => inRide_editLine _ _ (inRide_editLine _ _ h)

theorem inRide_filterSample (l : Nat) (level : Level) (h : ShedsInRide s) : ShedsInRide (filterSample l level s) :=
  keep_ite (fun _ => inRide_takeSample _ _ h) fun _ => h

theorem inRide_acceptance (first : Bool) (l : Nat) (level : Level) (h : ShedsInRide s) :
    ShedsInRide (acceptance first l level s) :=
  keep_ite (fun _ => h) fun _ =>
    keep_ite (fun _ => keep_ite (fun _ => h) fun _ => inRide_acceptLevel _ _ _ h) fun _ =>
      keep_ite (fun _ => inRide_takeSample _ _ h) fun _ => h

theorem inRide_withdrawLine (old : SenseEntry) (h : ShedsInRide s) : ShedsInRide (withdrawLine old s) := by
  unfold withdrawLine
  split
  · exact inRide_psmLine _ _ h
  · exact inRide_followShelfStop h
  all_goals exact h

theorem inRide_withdrawSense (l : Nat) (old : SenseEntry) (h : ShedsInRide s) :
    ShedsInRide (withdrawSense l old s) := by
  have cleared := keep_ite (p := old.period ≠ (senseAt s l).period) (fun _ => inRide_editLine l
    (fun r => { r with history := clearHistory, lastSample := none }) h) fun _ => h
  exact keep_ite (fun _ => inRide_withdrawLine _ cleared) fun _ => cleared

theorem inRide_deliverSense (l : Nat) (old : SenseEntry) (h : ShedsInRide s) : ShedsInRide (deliverSense l old s) :=
  keep_ite (fun _ => inRide_deliverLine _ _ _ _ h) fun _ => h

/-! ### The Leak Zone Unit -/

theorem inRide_editZone (z : Nat) (f : Zone → Zone) (h : ShedsInRide s) : ShedsInRide (editZone z f s) := h

theorem inRide_tellZone (z : Nat) (old new : ZoneState) (cause : ZoneCause) (h : ShedsInRide s) :
    ShedsInRide (tellZone z old new cause s) := by
  have posted : ShedsInRide (zoneNotice z old new cause s) := h
  have locked := fun ts =>
    keep_ite (p := new = .wet) (fun _ => inRide_emitAll (shed_not_mem_map (f := Task.lockTray) nofun ts) posted)
      fun _ => posted
  have released := fun ts us =>
    keep_ite (p := old = .wet ∧ new ≠ .wet)
      (fun _ => inRide_emitAll (shed_not_mem_map (f := Task.releaseTray) nofun us) (locked ts)) fun _ => locked ts
  have driven {x : Shelf} (h : ShedsInRide x) : ShedsInRide (setDrives x) := h
  exact keep_ite (fun _ => driven (released _ _)) fun _ => released _ _

theorem inRide_putZone (z : Nat) (cause : ZoneCause) (f : Zone → Zone) (h : ShedsInRide s) :
    ShedsInRide (putZone z cause f s) :=
  keep_ite (fun _ => inRide_editZone _ _ h) fun _ => inRide_tellZone _ _ _ _ (inRide_editZone _ _ h)

theorem inRide_zoneEvaluation (z : Nat) (h : ShedsInRide s) : ShedsInRide (zoneEvaluation z s) := by
  unfold zoneEvaluation
  split
  · exact h
  · exact inRide_putZone _ _ _ h

theorem inRide_zonesChanged (h : ShedsInRide s) : ShedsInRide (zonesChanged s) :=
  inRide_emitAll (shed_not_mem_map nofun _) h

theorem inRide_confirmExpiry (z : Nat) (h : ShedsInRide s) : ShedsInRide (confirmExpiry z s) := by
  unfold confirmExpiry
  exact inRide_putZone _ _ _ h

theorem inRide_clearZone (z : Nat) (h : ShedsInRide s) : ShedsInRide (clearZone z s) :=
  inRide_putZone _ _ _ h

theorem inRide_applyZone (z : Nat) (old : Option ZoneEntry) (h : ShedsInRide s) : ShedsInRide (applyZone z old s) := by
  unfold applyZone
  split
  · exact inRide_emit nofun (inRide_editZone _ _ h)
  · exact inRide_emit nofun (inRide_editZone _ _ h)
  · exact inRide_editZone _ _ h
  · exact inRide_editZone _ _ h

theorem inRide_placeZone (z : Nat) (h : ShedsInRide s) : ShedsInRide (placeZone z s) := by
  unfold placeZone
  split
  · exact inRide_zoneEvaluation _ h
  · exact inRide_putZone _ _ _ h

/-! ### The Program Sequencer -/

theorem inRide_setSeq (f : Sequencer → Sequencer) (h : ShedsInRide s) : ShedsInRide (setSeq f s) := h

theorem inRide_holdSequencer (h : ShedsInRide s) : ShedsInRide (holdSequencer s) := keep_ite (fun _ => h) fun _ => h

theorem inRide_haltRun (cause : HaltCause) (source word : Nat) (h : ShedsInRide s) :
    ShedsInRide (haltRun cause source word s) := inRide_post _ _ _ _ _ (inRide_setSeq _ h)

theorem inRide_endRun (step : Nat) (h : ShedsInRide s) : ShedsInRide (endRun step s) :=
  inRide_post _ _ _ _ _ (inRide_setSeq _ h)

theorem inRide_completeStep (named : Nat) (h : ShedsInRide s) : ShedsInRide (completeStep named s) := by
  have walks := inRide_setSeq (fun q => { q with
    state := .running, runCount := s.seq.runCount + 1, stepTimer := .stopped, delayTimer := .stopped }) h
  exact keep_ite (fun _ => inRide_haltRun _ _ _ walks) fun _ =>
    keep_ite (fun _ => inRide_emit nofun walks) fun _ => inRide_haltRun _ _ _ walks

theorem inRide_waitAt (e : StepEntry) (h : ShedsInRide s) : ShedsInRide (waitAt e s) :=
  keep_ite (fun _ => inRide_setSeq _ h) fun _ => inRide_holdSequencer (inRide_setSeq _ h)

theorem inRide_enterStep (n : Nat) (h : ShedsInRide s) : ShedsInRide (enterStep n s) := by
  have entered := inRide_setSeq (fun q => { q with
    state := .running, pointer := some n, stepsTaken := satInc q.stepsTaken }) h
  have waits : ∀ e : StepEntry, ∀ p [Decidable p], ShedsInRide (if p then
      completeStep e.next (setSeq (fun q => { q with
        state := .running, pointer := some n, stepsTaken := satInc q.stepsTaken }) s)
      else waitAt e (setSeq (fun q => { q with
        state := .running, pointer := some n, stepsTaken := satInc q.stepsTaken }) s)) :=
    fun _ _ => keep_ite (fun _ => inRide_completeStep _ entered) fun _ => inRide_waitAt _ entered
  unfold enterStep
  split
  · exact h
  · dsimp only
    split
    · exact inRide_emit nofun entered
    · exact inRide_completeStep _ entered
    · exact inRide_endRun _ entered
    all_goals exact waits _ _

theorem inRide_startTrays (trays : List Nat) (h : ShedsInRide s) : ShedsInRide (startTrays trays s) := by
  unfold startTrays
  refine keep_ite (fun _ => h) fun _ => ?_
  split
  · split
    · exact inRide_completeStep _ h
    · exact h
  · exact inRide_postponeFirst nofun (inRide_requestAdmission _ _ h)

theorem inRide_testStep (h : ShedsInRide s) : ShedsInRide (testStep s) := by
  unfold testStep
  split
  · exact keep_ite (fun _ => inRide_completeStep _ h) fun _ => h
  · exact h

theorem inRide_resumeSequencer (h : ShedsInRide s) : ShedsInRide (resumeSequencer s) :=
  keep_ite (fun _ => inRide_testStep (inRide_setSeq _ h)) fun _ => h

theorem inRide_stepExpiry (h : ShedsInRide s) : ShedsInRide (stepExpiry s) := by
  unfold stepExpiry
  split
  · exact inRide_completeStep _ h
  · exact h

theorem inRide_delayExpiry (h : ShedsInRide s) : ShedsInRide (delayExpiry s) := by
  unfold delayExpiry
  split
  · exact inRide_completeStep _ h
  · exact h

theorem inRide_startRun (entry : Nat) (origin : Origin) (h : ShedsInRide s) :
    ShedsInRide (startRun entry origin s) := by
  have started := inRide_setSeq (fun q => { q with
    state := .running, entry := some entry, origin := some origin, runCount := 0
    stepsTaken := 0, outcome := none, autostart := none }) h
  exact keep_ite (fun _ => inRide_emit nofun started) fun _ => inRide_haltRun _ _ _ started

theorem inRide_abortRun (cause : HaltCause) (h : ShedsInRide s) : ShedsInRide (abortRun cause s) :=
  inRide_emit nofun (inRide_emitAll (shed_not_mem_map nofun _) h)

theorem inRide_seqShelfStop (h : ShedsInRide s) : ShedsInRide (seqShelfStop s) :=
  keep_ite (fun _ => h) fun _ => inRide_abortRun _ h

theorem inRide_autostartTest (h : ShedsInRide s) : ShedsInRide (autostartTest s) := by
  unfold autostartTest
  split
  · exact keep_ite (fun _ => inRide_startRun _ _ h) fun _ => h
  · exact h

/-! ### The downstream ports -/

theorem inRide_tellOwner (e : RosterEntry) (r : Nat) (h : ShedsInRide s) : ShedsInRide (tellOwner e r s) := by
  obtain same | ⟨-, -, told⟩ | ⟨-, -, told⟩ | ⟨-, -, told⟩ := tellOwner_cases e r s
  · rwa [same]
  · rw [told]
    exact inRide_psmAbsent _ h
  · rw [told]
    exact inRide_bbmAbsent _ h
  · rw [told]
    exact inRide_trayAbsent _ h

theorem inRide_moduleAbsentAs (e : RosterEntry) (r : Nat) (missed : Bool) (h : ShedsInRide s) :
    ShedsInRide (moduleAbsentAs e r missed s) :=
  keep_ite (fun _ => inRide_editModule _ _ h) fun _ =>
    inRide_emit nofun (inRide_tellOwner _ _ (keep_ite (fun _ => inRide_post _ _ _ _ _ (inRide_editModule _ _ h))
      fun _ => inRide_editModule _ _ h))

theorem inRide_moduleAbsent (r : Nat) (missed : Bool) (h : ShedsInRide s) : ShedsInRide (moduleAbsent r missed s) := by
  unfold moduleAbsent
  split
  · exact inRide_moduleAbsentAs _ _ _ h
  · exact h

theorem inRide_countMiss (r : Nat) (h : ShedsInRide s) : ShedsInRide (countMiss r s) :=
  keep_ite (fun _ => inRide_emit nofun (inRide_editModule _ _ h)) fun _ => inRide_editModule _ _ h

theorem inRide_offerTelemetry (f : Frame) (h : ShedsInRide s) : ShedsInRide (offerTelemetry f s) :=
  keep_ite (fun _ => h) fun _ => h

theorem inRide_copyReport (r : Nat) (payload : List Byte) (h : ShedsInRide s) :
    ShedsInRide (copyReport r payload s) := by
  unfold copyReport
  split
  · exact keep_ite (fun _ => inRide_offerTelemetry _ (inRide_editModule _ _ h)) fun _ => h
  · exact h

theorem inRide_countStray (p : Port) (h : ShedsInRide s) : ShedsInRide (countStray p s) :=
  inRide_editEngine p _ h

theorem inRide_pollAnswered (r : Nat) (payload : List Byte) (h : ShedsInRide s) :
    ShedsInRide (pollAnswered r payload s) := inRide_copyReport _ _ (inRide_takeReport _ _ _ (inRide_editModule _ _ h))

/-- A POLL, an attempt of a control order and a relayed order end each in its own way. -/
theorem inRide_endAnswered (p : Port) (tx : Transaction) (f : Frame) (h : ShedsInRide s) :
    ShedsInRide (endAnswered p tx f s) := by
  have ended := inRide_setPoll p { pollEngine s p with inFlight := none } h
  unfold endAnswered
  refine keep_ite (fun _ => ended) fun _ => ?_
  cases tx.kind with
  | poll => exact inRide_pollAnswered _ _ ended
  | control =>
    dsimp only
    split
    · exact inRide_emitAll (shed_not_mem_outcomeTasks _ _) (inRide_setPoll _ _ (inRide_editModule _ _ ended))
    · exact inRide_editModule _ _ ended
  | command => exact inRide_answerOrder _ _ _ (inRide_editModule _ _ ended)

theorem inRide_endFailed (p : Port) (tx : Transaction) (h : ShedsInRide s) : ShedsInRide (endFailed p tx s) := by
  have ended := inRide_setPoll p { pollEngine s p with inFlight := none } h
  unfold endFailed
  refine keep_ite (fun _ => ended) fun _ => ?_
  cases tx.kind with
  | poll => exact inRide_countMiss _ ended
  | control =>
    dsimp only
    split
    · exact keep_ite
        (fun _ => inRide_countMiss _ (inRide_emitAll (shed_not_mem_outcomeTasks _ _) (inRide_setPoll _ _ ended)))
        fun _ => inRide_countMiss _ ended
    · exact inRide_countMiss _ ended
  | command => exact inRide_countMiss _ (inRide_answerOrder _ _ _ ended)

theorem inRide_judge (p : Port) (x : RxEntry) (h : ShedsInRide s) : ShedsInRide (judge p x s) := by
  unfold judge
  split
  · refine keep_ite (fun _ => ?_) fun _ => inRide_countStray _ h
    split
    · exact inRide_endFailed _ _ h
    · exact keep_ite (fun _ => inRide_endFailed _ _ (inRide_editEngine p _ h)) fun _ =>
        keep_ite (fun _ => inRide_endAnswered _ _ _ h) fun _ => inRide_countStray _ h
  · exact inRide_countStray _ h

theorem inRide_beginTx (p : Port) (tx : Transaction) (f : Frame) (h : ShedsInRide s) :
    ShedsInRide (beginTx p tx f s) :=
  inRide_editEngine _ _ (inRide_editPoll _ _ h)

theorem inRide_tryPoll (p : Port) (h : ShedsInRide s) : ShedsInRide (tryPoll p s).2 := by
  unfold tryPoll
  split
  · dsimp only
    split
    · exact inRide_beginTx _ _ _ (inRide_editPoll _ _ h)
    · exact inRide_editPoll _ _ h
  · exact h

theorem inRide_beginAttempt (p : Port) (x : Progress) (h : ShedsInRide s) : ShedsInRide (beginAttempt p x s) :=
  inRide_beginTx _ _ _ (inRide_editPoll p _ h)

theorem inRide_beginCommand (p : Port) (o : RelayedOrder) (h : ShedsInRide s) : ShedsInRide (beginCommand p o s) :=
  inRide_beginTx _ _ _ h

theorem inRide_arbitrateOrders (p : Port) (h : ShedsInRide s) : ShedsInRide (arbitrateOrders p s) := by
  unfold arbitrateOrders
  dsimp only
  split
  · exact inRide_beginAttempt _ _ h
  · exact inRide_beginAttempt _ _ (inRide_setPoll _ _ h)
  · exact inRide_beginCommand _ _ (inRide_setPoll _ _ h)
  · exact inRide_tryPoll _ h

/-- After three transactions that are no polls a poll is tried first, and the orders where none is due. -/
theorem inRide_arbitrate (p : Port) (h : ShedsInRide s) : ShedsInRide (arbitrate p s) := by
  unfold arbitrate
  dsimp only
  refine keep_ite (fun _ => keep_ite (fun _ => ?_) fun _ => inRide_arbitrateOrders _ h) fun _ => h
  have polled := inRide_tryPoll p h
  split
  case h_1 t tried => rwa [tried] at polled
  case h_2 t tried =>
    rw [tried] at polled
    exact inRide_arbitrateOrders _ polled

theorem inRide_enablePort (p : Port) (h : ShedsInRide s) : ShedsInRide (enablePort p s) :=
  keep_foldl (fun _ _ h => inRide_editModule _ _ h) _ (inRide_editPoll _ _ (inRide_editEngine _ _ h))

theorem inRide_abandonFlight (pe : PollEngine) (h : ShedsInRide s) : ShedsInRide (abandonFlight pe s) := by
  have told : ShedsInRide (match pe.inProgress with
      | some x => emitAll (outcomeTasks x.order .portOff) s
      | none => s) := by
    split
    · exact inRide_emitAll (shed_not_mem_outcomeTasks _ _) h
    · exact h
  unfold abandonFlight
  dsimp only
  split
  · exact keep_ite (fun _ => inRide_answerOrder _ _ _ told) fun _ => told
  · exact told

theorem inRide_refuseRelayed (os : List RelayedOrder) (h : ShedsInRide s) : ShedsInRide (refuseRelayed os s) :=
  keep_foldl (fun _ _ h => inRide_answerOrder _ _ _ h) os h

theorem inRide_absentAll (rs : List Nat) (h : ShedsInRide s) : ShedsInRide (absentAll rs s) :=
  inRide_emitAll (shed_not_mem_map nofun _) h

theorem inRide_disablePort (p : Port) (h : ShedsInRide s) : ShedsInRide (disablePort p s) := by
  refine inRide_absentAll _ (inRide_refuseRelayed _ (inRide_emitAll (fun t told => ?_) (inRide_abandonFlight _
    (inRide_editEngine p _ (inRide_setPoll p _ h)))))
  obtain ⟨o, -, told⟩ := List.mem_flatMap.mp told
  exact shed_not_mem_outcomeTasks o .portOff t told

/-! ### EDIT-APPLY -/

theorem inRide_answerFlight (r : Nat) (pe : PollEngine) (h : ShedsInRide s) : ShedsInRide (answerFlight r pe s) := by
  unfold answerFlight
  split
  · exact keep_ite (fun _ => inRide_answerOrder _ _ _ h) fun _ => h
  · exact h

theorem inRide_tellPortOff (o : ControlOrder) (h : ShedsInRide s) : ShedsInRide (tellPortOff s o) := by
  unfold tellPortOff
  split
  · exact inRide_trayOutcome _ _ _ h
  · exact inRide_bbmOutcome _ _ _ _ h
  · exact h

theorem inRide_removeOrders (p : Port) (r : Nat) (h : ShedsInRide s) : ShedsInRide (removeOrders p r s) :=
  inRide_refuseRelayed _ (inRide_answerFlight _ _ (keep_foldl (fun _ _ h => inRide_tellPortOff _ h) _
    (inRide_setPoll p _ h)))

theorem inRide_removeOld (old : List Record) (r : Nat) (h : ShedsInRide s) : ShedsInRide (removeOld old r s) := by
  unfold removeOld
  split
  · exact keep_ite (fun _ => inRide_staleAll _ (inRide_moduleAbsentAs _ _ _ (inRide_removeOrders _ _ h))) fun _ => h
  · exact h

theorem inRide_admitNew (old : List Record) (r : Nat) (h : ShedsInRide s) : ShedsInRide (admitNew old r s) :=
  keep_ite (fun _ => inRide_editModule _ _ h) fun _ => h

theorem inRide_applyRoster (old : List Record) (latched : List Nat) (h : ShedsInRide s) :
    ShedsInRide (applyRoster old latched s) :=
  keep_foldl (fun _ _ h => inRide_admitNew _ _ h) _ (keep_foldl (fun _ _ h => inRide_removeOld _ _ h) _ h)

theorem inRide_applySignal (old : List Record) (n : Nat) (h : ShedsInRide s) : ShedsInRide (applySignal old n s) := by
  unfold applySignal
  split
  · exact h
  · exact inRide_putSignal _ _ _ h
  · exact inRide_putSignal _ _ _ h
  · exact keep_ite (fun _ => h) fun _ =>
      keep_ite (fun _ => inRide_putSignal _ _ _ h) fun _ => inRide_putSignal _ _ _ h

theorem inRide_applySampleMap (old : List Record) (h : ShedsInRide s) : ShedsInRide (applySampleMap old s) :=
  inRide_handOnSignals _ _ (keep_foldl (fun _ _ h => inRide_applySignal _ _ h) _ h)

theorem inRide_applyLimits (old : List Record) (h : ShedsInRide s) : ShedsInRide (applyLimits old s) :=
  inRide_staleAll _ (keep_foldl (fun _ _ h => inRide_signals _ h) _ h)

theorem inRide_applyLines (old : List Record) (latched : List Nat) (h : ShedsInRide s) :
    ShedsInRide (applyLines old latched s) :=
  keep_foldl (fun _ _ h => inRide_deliverSense _ _ h) _
    (keep_foldl (fun _ _ h => inRide_withdrawSense _ _ h) _ h)

theorem inRide_dropOutput (i : Nat) (h : ShedsInRide s) : ShedsInRide (dropOutput i s) := h

theorem inRide_dropPsm (i : Nat) (h : ShedsInRide s) : ShedsInRide (dropPsm i s) :=
  inRide_editPsm _ _ (keep_ite (fun _ => h) fun _ => inRide_psmTo _ _ _ _ h)

theorem inRide_applyPsm (old : List Record) (i : Nat) (h : ShedsInRide s) : ShedsInRide (applyPsm old i s) := by
  have unheld := fun (p : Prop) [Decidable p] =>
    keep_ite (p := p) (fun _ => inRide_dropOutput i h) fun _ => h
  have missed := fun (p q : Prop) [Decidable p] [Decidable q] =>
    keep_ite (p := q) (fun _ => inRide_editPsm i (fun r => { r with status := none, inputHold := true })
      (unheld p)) fun _ => unheld p
  unfold applyPsm
  split
  · exact h
  · exact inRide_dropPsm _ h
  · exact inRide_checkPsm _ _ (inRide_dropOutput _ (inRide_editPsm _ _ h))
  · exact inRide_checkPsm _ _ (missed _ _)

theorem inRide_applyBbm (old : List Record) (k : Nat) (h : ShedsInRide s) : ShedsInRide (applyBbm old k s) := by
  unfold applyBbm
  split
  · exact h
  · exact inRide_bbms _ (inRide_putBbm _ _ _ h)
  · exact inRide_putBbm _ _ _ (keep_ite (fun _ => h) fun _ => h)
  · exact inRide_putBbm _ _ _ h

/-- A tray renewed at an apply is UNKNOWN, on no list. -/
theorem inRide_renewTray (t : Nat) (h : ShedsInRide s) : ShedsInRide (renewTray t s) := by
  have bay : (renewTray t s).bay = moveTray t .unknown (fun _ => resetTray) s.bay := by
    rw [renewTray, afterTray_eq]
    rfl
  have ride : (renewTray t s).ride = s.ride := by
    rw [renewTray, afterTray_eq]
    rfl
  refine inRide_of (by rw [ride]) (closedEvent_bayExact.renewTray t) (fun u on => ?_) (fun none => ?_) h
  · rw [trayState, bay, state_moveTray] at on
    split at on
    · cases on
    · exact on
  · have moved : NoSheds { forgetOrders t s with bay := moveTray t .unknown (fun _ => resetTray) s.bay } := none
    exact noSheds_afterTray _ _ _ moved

theorem inRide_moveToRoster (t : Nat) (h : ShedsInRide s) : ShedsInRide (moveToRoster t s) :=
  inRide_renewTray _ (keep_ite (fun _ => inRide_changed _ h) fun _ => h)

theorem inRide_applyKeptTray (t : Nat) (a b : TrayEntry) (h : ShedsInRide s) : ShedsInRide (applyKeptTray t a b s) := by
  have zoned := keep_ite (p := a.zone ≠ b.zone)
    (fun _ => keep_ite (p := b.zone.any (zoneWet s) = true) (fun _ => inRide_lockTray t h)
      fun _ => inRide_releaseTray t h) fun _ => h
  exact keep_ite (fun _ => inRide_postpone nofun zoned) fun _ => zoned

theorem inRide_applyTray (old : List Record) (t : Nat) (h : ShedsInRide s) : ShedsInRide (applyTray old t s) := by
  unfold applyTray
  split
  · exact h
  · exact inRide_renewTray _ h
  · exact keep_ite (fun _ => inRide_lockTray _ (inRide_renewTray _ h)) fun _ => inRide_renewTray _ h
  · exact keep_ite
      (fun _ => keep_ite (fun _ => inRide_lockTray _ (inRide_moveToRoster _ h)) fun _ => inRide_moveToRoster _ h)
      fun _ => inRide_applyKeptTray _ _ _ h

theorem inRide_applyTrays (old : List Record) (latched : List Nat) (h : ShedsInRide s) :
    ShedsInRide (applyTrays old latched s) := by
  have applied := keep_foldl (fun _ t h => inRide_applyTray old t h) latched h
  exact keep_ite (fun _ => inRide_admissionDue (inRide_postpone nofun applied)) fun _ => applied

/-- Each table has its own side effects. -/
theorem inRide_applyEffects (t : Nat) (old : List Record) (latched : List Nat) (h : ShedsInRide s) :
    ShedsInRide (applyEffects t old latched s) := by
  unfold applyEffects
  repeat' split
  · exact inRide_admissionDue (inRide_postpone nofun h)
  · exact inRide_emit nofun (inRide_absentAll _ (inRide_applyRoster _ _ h))
  · exact inRide_emit nofun (inRide_absentAll _ h)
  · exact inRide_emit nofun (inRide_applySampleMap _ h)
  · exact inRide_applyLimits _ h
  · exact inRide_emit nofun (inRide_applyLines _ _ h)
  · exact inRide_postpone nofun (inRide_recomputeCapacity (keep_foldl (fun _ _ h => inRide_applyPsm _ _ h) _ h))
  · exact inRide_postpone nofun (inRide_recomputeCapacity (keep_foldl (fun _ _ h => inRide_applyBbm _ _ h) _ h))
  · exact inRide_applyTrays _ _ h
  · exact keep_foldl (fun _ _ h => inRide_applyZone _ _ h) _ h
  · exact h

theorem inRide_addCause (x : Cause) (h : ShedsInRide s) : ShedsInRide (addCause s x) :=
  keep_ite (fun _ => h) fun _ => h

theorem inRide_endApply (h : ShedsInRide s) : ShedsInRide (endApply s) := by
  unfold endApply
  split
  · exact h
  · rename_i cs _
    have cleared : ShedsInRide { s with applying := none } := h
    have gathered := keep_foldl (fun _ x h => inRide_addCause x h) cs cleared
    exact keep_ite (fun _ => gathered) fun _ => inRide_recompute _ gathered

/-! ### Start-up -/

/-- Port entries give SP and TP their settings and may enable them (R187). -/
theorem inRide_startPort (p : Port) (h : ShedsInRide s) : ShedsInRide (startPort p s) := by
  have set := inRide_editEngine p (fun e => { e with settings := portEntry s p }) h
  exact keep_ite (fun _ => inRide_enablePort _ set) fun _ => inRide_absentAll _ set

theorem inRide_startPorts (h : ShedsInRide s) : ShedsInRide (startPorts s) :=
  inRide_startPort _ (inRide_startPort _ h)

theorem inRide_startAutostart (h : ShedsInRide s) : ShedsInRide (startAutostart s) :=
  inRide_emit nofun (inRide_setSeq _ h)

theorem inRide_postStarted (kind : ResetKind) (h : ShedsInRide s) : ShedsInRide (postStarted kind s) :=
  keep_ite (fun _ => inRide_post _ _ _ _ _ h) fun _ => inRide_defer nofun h

/-- The placing of the tables is made of the blocks' operations (R186). -/
theorem inRide_placeTables (h : ShedsInRide s) : ShedsInRide (placeTables s) := by
  have placing : ShedsInRide { s with sampling := true, applying := some [.start] } := h
  have placed := keep_foldl (fun _ z h => inRide_placeZone z h) (List.range Config.zoneCount) placing
  have driven {x : Shelf} (h : ShedsInRide x) : ShedsInRide (setDrives x) := h
  exact inRide_absentAll _ (inRide_recomputeCapacity (driven
    (keep_foldl (fun _ t h => inRide_lockTrayOnly t h) _ placed)))

theorem inRide_loadInto (st : Store) (t : Nat) (h : ShedsInRide s) : ShedsInRide (loadInto st s t) := h

theorem inRide_loadTables (st : Store) (h : ShedsInRide s) : ShedsInRide (loadTables st s) := by
  unfold loadTables
  exact inRide_editEngine .up _ (keep_foldl (fun _ _ h => inRide_loadInto st _ h) loadOrder h)

theorem inRide_startUp (kind : ResetKind) (st : Store) (h : ShedsInRide s) : ShedsInRide (startUp kind st s) := by
  have leveled {x : Shelf} (n : Nat) (h : ShedsInRide x) : ShedsInRide { x with level := n } := h
  unfold startUp
  exact inRide_emitAll (by simp) (leveled _ (inRide_placeTables (inRide_loadTables st h)))

end Blocks

end Sys2Proof.Machine
end


section
/-! PROOF. Where the restore stack may hold trays (O9, R76), ended: the reactions, the requests, the arbiters and the
commands. -/

namespace Sys2Proof.Machine

section Blocks

variable {s : Shelf}

/-! ### The reactions of an event -/

/-- A pending shed was raised in RIDE or DEPLETED. -/
theorem ride_of_pendingShed {t : Nat} (pending : Task.shed t ∈ s.raised ++ s.agenda ++ s.deferred)
    (h : ShedsInRide s) : s.ride.state = .ride ∨ s.ride.state = .depleted := by
  obtain ⟨-, calm, -⟩ := h
  by_contra out
  obtain ⟨notRide, notDepleted⟩ := not_or.mp out
  obtain ⟨agenda, raised, deferred⟩ := calm notRide notDepleted t
  simp [agenda, raised, deferred] at pending

/-- Each reaction is one operation of its block. -/
theorem inRide_perform (task : Task)
    (ride : ∀ t, task = .shed t → s.ride.state = .ride ∨ s.ride.state = .depleted) (h : ShedsInRide s) :
    ShedsInRide (perform task s) := by
  cases task with
  | balance => exact inRide_performBalance h
  | rideRecord => exact inRide_rideRecord _ _ _ _ h
  | stackChanged => exact inRide_stackChanged h
  | chargeZero => exact inRide_chargeZero h
  | charge => exact inRide_chargeEvaluation h
  | seqTest => exact inRide_testStep h
  | seqResume => exact inRide_resumeSequencer h
  | seqEnter => exact inRide_enterStep _ h
  | seqStart => exact inRide_startTrays _ h
  | seqShelfStop => exact inRide_seqShelfStop h
  | seqHalt => exact inRide_haltRun _ _ _ h
  | withdraw => exact inRide_withdrawTray _ h
  | autostartTest => exact inRide_autostartTest h
  | shed => exact inRide_shedTray _ h.1 (ride _ rfl)
  | shelfStopTray => exact inRide_shelfStopTray _ h
  | lockTray => exact inRide_lockTray _ h
  | releaseTray => exact inRide_releaseTray _ h
  | placeOff => exact inRide_placeOff _ h
  | trayOutcome => exact inRide_trayOutcome _ _ _ h
  | bbmOutcome => exact inRide_bbmOutcome _ _ _ _ h
  | moduleAbsent => exact inRide_moduleAbsent _ _ h
  | signalsStale => exact inRide_staleAll _ h
  | psmBands => exact inRide_checkPsms _ _ h
  | zones => exact inRide_zonesChanged h
  | zoneEval => exact inRide_zoneEvaluation _ h
  | postRideEnter => exact inRide_post _ _ _ _ _ h
  | postDepleted => exact inRide_post _ _ _ _ _ h
  | applied => exact inRide_applyEffects _ _ _ h
  | endApply => exact inRide_endApply h
  | reply => exact inRide_placeReplies _ h
  | startPorts => exact inRide_startPorts h
  | startAutostart => exact inRide_startAutostart h
  | postStarted => exact inRide_postStarted _ h

/-- A reaction is taken from those that wait. -/
theorem inRide_fewer {raised agenda deferred : List Task}
    (fewer : raised ++ agenda ++ deferred ⊆ s.raised ++ s.agenda ++ s.deferred) (h : ShedsInRide s) :
    ShedsInRide { s with raised, agenda, deferred } := by
  refine inRide_of (s := s) rfl id (fun _ on => on) (fun none t => ?_) h
  obtain ⟨a, b, c⟩ := none t
  have out : Task.shed t ∉ raised ++ agenda ++ deferred := fun ht => by simpa [a, b, c] using fewer ht
  rw [List.mem_append, List.mem_append, not_or, not_or] at out
  obtain ⟨⟨raised, agenda⟩, deferred⟩ := out
  exact ⟨agenda, raised, deferred⟩

theorem inRide_nextReaction {t : Shelf} (h : ShedsInRide s) (next : nextReaction s = some t) : ShedsInRide t := by
  unfold nextReaction at next
  split at next
  case h_1 task rest waits =>
    cases next
    have left : ShedsInRide { s with raised := [], agenda := rest } := inRide_fewer (by simp [waits]) h
    exact inRide_perform _ (fun t shed => ride_of_pendingShed (s := s) (t := t) (by simp [waits, shed]) h) left
  case h_2 empty =>
    split at next
    · cases next
      exact inRide_admissionTry h
    · split at next
      case h_1 task rest waits =>
        cases next
        have left : ShedsInRide { s with deferred := rest } := inRide_fewer (by rw [empty]; simp [waits]) h
        exact inRide_perform _ (fun t shed => ride_of_pendingShed (s := s) (t := t) (by simp [waits, shed]) h) left
      case h_2 => cases next

theorem inRide_runReactions : ∀ (n : Nat) {s : Shelf}, ShedsInRide s → ShedsInRide (runReactions n s)
  | 0, _, h => h
  | n + 1, s, h => by
    unfold runReactions
    split
    · exact inRide_runReactions n (inRide_nextReaction h ‹_›)
    · exact h

theorem inRide_react (h : ShedsInRide s) : ShedsInRide (react s) := inRide_runReactions _ h

/-! ### Requests -/

theorem inRide_respond (code : Byte) (a : Answer) (h : ShedsInRide s) : ShedsInRide (respond code a s) :=
  inRide_emit nofun h

theorem inRide_openWindow (table first count : Nat) (h : ShedsInRide s) :
    ShedsInRide (openWindow table first count s).2 := by
  unfold openWindow
  repeat' split
  all_goals exact h

theorem inRide_writeWindow (entry : Nat) (record : Record) (h : ShedsInRide s) :
    ShedsInRide (writeWindow entry record s).2 := by
  unfold writeWindow
  split
  · exact h
  · dsimp only
    repeat' split
    all_goals exact h

theorem inRide_discardWindow (h : ShedsInRide s) : ShedsInRide (discardWindow s).2 := by
  unfold discardWindow
  split <;> exact h

theorem inRide_expireWindow (h : ShedsInRide s) : ShedsInRide (expireWindow s) := by
  unfold expireWindow
  split <;> exact h

/-- The working entries are replaced and the window closes before the side effects follow (R176). -/
theorem inRide_replaceEntries (w : Window) (h : ShedsInRide s) : ShedsInRide (replaceEntries w s) :=
  inRide_emitAll (by simp) h

theorem inRide_applyWindow (h : ShedsInRide s) : ShedsInRide (applyWindow s).2 := by
  unfold applyWindow
  split
  · exact h
  · dsimp only
    split
    · exact h
    · split
      · exact h
      · split
        · exact h
        · exact inRide_replaceEntries _ h

theorem inRide_readLine (line : Nat) (h : ShedsInRide s) : ShedsInRide (readLine line s).2 := by
  unfold readLine
  split
  · exact inRide_editLine _ _ h
  · split <;> exact h

theorem inRide_readPort (port : Nat) (h : ShedsInRide s) : ShedsInRide (readPort port s).2 := by
  unfold readPort
  split
  · exact inRide_editEngine _ (fun e => { e with overrun := false }) h
  · exact h

theorem inRide_requestClearTray (tray : Nat) (h : ShedsInRide s) : ShedsInRide (requestClearTray tray s).2 := by
  unfold requestClearTray
  repeat' split
  · exact h
  · exact h
  · exact h
  · exact inRide_clearTray _ h

theorem inRide_requestRun (step : Nat) (h : ShedsInRide s) : ShedsInRide (requestRun step s).2 := by
  unfold requestRun
  repeat' split
  · exact h
  · exact h
  · exact h
  · exact h
  · exact h
  · exact inRide_startRun _ _ h

theorem inRide_requestAbort (h : ShedsInRide s) : ShedsInRide (requestAbort s).2 := by
  unfold requestAbort
  split
  · exact h
  · exact inRide_abortRun _ h

theorem inRide_requestClearZone (zone : Nat) (epoch : Byte) (h : ShedsInRide s) :
    ShedsInRide (requestClearZone zone epoch s).2 := by
  unfold requestClearZone
  repeat' split
  · exact h
  · exact h
  · exact h
  · exact h
  · exact h
  · exact inRide_clearZone _ h

theorem inRide_requestEnable (port : Nat) (h : ShedsInRide s) : ShedsInRide (requestEnable port s).2 := by
  unfold requestEnable
  split
  · split
    · exact h
    · exact inRide_enablePort _ h
  · exact h

theorem inRide_requestDisable (port : Nat) (h : ShedsInRide s) : ShedsInRide (requestDisable port s).2 := by
  unfold requestDisable
  split
  · split
    · exact h
    · split
      · exact inRide_disablePort _ h
      · exact h
  · exact h

theorem inRide_completeOperation (weak : Bool) {s : State} (h : ShedsInRide s.toShelf) :
    ShedsInRide (completeOperation weak s).toShelf := by
  unfold completeOperation
  split
  · exact h
  · split
    · exact inRide_post _ _ _ _ _ h
    · exact h

theorem inRide_handleRestart {s : State} (h : ShedsInRide s.toShelf) : ShedsInRide (handleRestart s).toShelf := by
  have pending : ShedsInRide { s.toShelf with restart := some false } := h
  unfold handleRestart
  dsimp only
  split
  · exact inRide_placeReply _ pending
  · exact inRide_respond _ _ h

theorem inRide_answerWith (code : Byte) (a : Shelf → Answer) {s : State} (h : ShedsInRide s.toShelf) :
    ShedsInRide (answerWith code a s).toShelf := inRide_respond _ _ h

theorem inRide_actWith (code : Byte) {f : Shelf → Byte × Shelf} {s : State} (h : ShedsInRide (f s.toShelf).2) :
    ShedsInRide (actWith code f s).toShelf := inRide_respond _ _ h

theorem inRide_actAndTell (code : Byte) {f : Shelf → Answer × Shelf} {s : State} (h : ShedsInRide (f s.toShelf).2) :
    ShedsInRide (actAndTell code f s).toShelf := inRide_respond _ _ h

theorem inRide_storeWith (code : Byte) {f : State → Byte × State} {s : State} (same : (f s).2.toShelf = s.toShelf)
    (h : ShedsInRide s.toShelf) : ShedsInRide (storeWith code f s).toShelf :=
  inRide_respond _ _ (by rwa [same])

theorem inRide_storeAnswer (code : Byte) (a : State → Answer) {s : State} (h : ShedsInRide s.toShelf) :
    ShedsInRide (storeAnswer code a s).toShelf := inRide_respond _ _ h

/-- Every request code has its own operation. -/
theorem inRide_dispatch (code : Byte) (args : List Byte) {s : State} (h : ShedsInRide s.toShelf) :
    ShedsInRide (dispatch code args s).toShelf := by
  unfold dispatch
  refine keep_iteState (fun _ => inRide_answerWith _ _ h) fun _ => ?_
  refine keep_iteState (fun _ => inRide_actWith _ (inRide_openWindow _ _ _ h)) fun _ => ?_
  refine keep_iteState (fun _ => inRide_actWith _ (inRide_writeWindow _ _ h)) fun _ => ?_
  refine keep_iteState (fun _ => inRide_actAndTell _ (inRide_applyWindow h)) fun _ => ?_
  refine keep_iteState (fun _ => inRide_actWith _ (inRide_discardWindow h)) fun _ => ?_
  refine keep_iteState (fun _ => inRide_storeWith _ (toShelf_storeErase _ _ _) h) fun _ => ?_
  refine keep_iteState (fun _ => inRide_storeWith _ (toShelf_storeWrite _ _ _ _) h) fun _ => ?_
  refine keep_iteState (fun _ => inRide_storeWith _ (toShelf_storeVerify _ _ _) h) fun _ => ?_
  refine keep_iteState (fun _ => inRide_storeAnswer _ _ h) fun _ => ?_
  refine keep_iteState (fun _ => inRide_handleRestart h) fun _ => ?_
  refine keep_iteState (fun _ => inRide_actAndTell _ (inRide_readLine _ h)) fun _ => ?_
  refine keep_iteState (fun _ => inRide_answerWith _ _ h) fun _ => ?_
  refine keep_iteState (fun _ => inRide_answerWith _ _ h) fun _ => ?_
  refine keep_iteState (fun _ => inRide_answerWith _ _ h) fun _ => ?_
  refine keep_iteState (fun _ => inRide_answerWith _ _ h) fun _ => ?_
  refine keep_iteState (fun _ => inRide_answerWith _ _ h) fun _ => ?_
  refine keep_iteState (fun _ => inRide_answerWith _ _ h) fun _ => ?_
  refine keep_iteState (fun _ => inRide_actWith _ (inRide_requestClearTray _ h)) fun _ => ?_
  refine keep_iteState (fun _ => inRide_actWith _ (inRide_requestRun _ h)) fun _ => ?_
  refine keep_iteState (fun _ => inRide_actWith _ (inRide_requestAbort h)) fun _ => ?_
  refine keep_iteState (fun _ => inRide_answerWith _ _ h) fun _ => ?_
  refine keep_iteState (fun _ => inRide_answerWith _ _ h) fun _ => ?_
  refine keep_iteState (fun _ => inRide_actWith _ (inRide_requestClearZone _ _ h)) fun _ => ?_
  refine keep_iteState (fun _ => inRide_answerWith _ _ h) fun _ => ?_
  refine keep_iteState (fun _ => inRide_actWith _ (inRide_requestEnable _ h)) fun _ => ?_
  exact keep_iteState (fun _ => inRide_actWith _ (inRide_requestDisable _ h))
    fun _ => inRide_actAndTell _ (inRide_readPort _ h)

theorem inRide_handleRequest (payload : List Byte) {s : State} (h : ShedsInRide s.toShelf) :
    ShedsInRide (handleRequest payload s).toShelf := by
  unfold handleRequest
  dsimp only
  split
  · exact inRide_dispatch _ _ h
  · exact inRide_answerWith _ _ h

/-! ### The Router, and the arbiters -/

theorem inRide_offerUp (x : RxEntry) (h : ShedsInRide s) : ShedsInRide (offerUp x s) :=
  keep_ite (fun _ => h) fun _ => keep_ite (fun _ => h) fun _ => h

theorem inRide_takeEntry (x : RxEntry) {s : State} (h : ShedsInRide s.toShelf) :
    ShedsInRide (takeEntry x s).toShelf := by
  unfold takeEntry
  split
  · exact h
  · split
    · exact inRide_countStray .up h
    · split
      · exact inRide_decideOrder _ _ _ h
      · exact inRide_handleRequest _ h

theorem inRide_arriveUp (x : RxEntry) {s : State} (h : ShedsInRide s.toShelf) : ShedsInRide (arriveUp x s).toShelf := by
  unfold arriveUp
  split
  · exact inRide_takeEntry _ h
  · exact inRide_offerUp _ h

theorem inRide_damageUp {s : State} (h : ShedsInRide s.toShelf) : ShedsInRide (damageUp s).toShelf :=
  inRide_arriveUp _ (inRide_editEngine .up (fun e => { e with damaged := satInc e.damaged, assembling := none }) h)

theorem inRide_hunt (p : Port) (h : ShedsInRide s) : ShedsInRide (hunt p s) :=
  inRide_editEngine p (fun e => { e with assembling := none }) h

theorem inRide_receiveUp (f : Frame) {s : State} (h : ShedsInRide s.toShelf) : ShedsInRide (receiveUp f s).toShelf := by
  unfold receiveUp
  split
  · split
    · exact inRide_arriveUp _ (inRide_hunt .up h)
    · exact inRide_damageUp h
  · exact h

theorem inRide_routeWaiting :
    ∀ (n : Nat) {s : State}, ShedsInRide s.toShelf → ShedsInRide (routeWaiting n s).toShelf
  | 0, _, h => h
  | n + 1, s, h => by
    unfold routeWaiting
    split
    case h_1 x rest waits =>
      split
      · have taken : ShedsInRide { s.toShelf with engUp := { s.engUp with rx := rest } } := h
        exact inRide_routeWaiting n (inRide_react (inRide_takeEntry _ taken))
      · exact h
    case h_2 => exact h

theorem inRide_arbitrateUp (h : ShedsInRide s) : ShedsInRide (arbitrateUp s) := by
  unfold arbitrateUp
  refine keep_ite (fun _ => ?_) fun _ => h
  split
  case h_1 f t chosen =>
    have taken : ShedsInRide t := by
      rw [withLinks_chooseUp chosen]
      exact h
    exact inRide_setEngine .up _ taken
  case h_2 => exact h

theorem inRide_closing {s : State} (h : ShedsInRide s.toShelf) : ShedsInRide (closing s).toShelf :=
  inRide_arbitrate _ (inRide_arbitrate _
    (inRide_routeWaiting _ (inRide_arbitrateUp (inRide_routeWaiting _ (inRide_react h)))))

/-! ### Events and commands -/

/-- The time and the inputs of an event are no part of the property. -/
theorem inRide_wholeEvent (e : Ambient) {f : State → State} {s : State}
    (acts : ∀ {x : State}, ShedsInRide x.toShelf → ShedsInRide (f x).toShelf) (h : ShedsInRide s.toShelf) :
    ShedsInRide (wholeEvent e f s).toShelf := by
  have opened : ShedsInRide (opening e s).toShelf := h
  exact inRide_closing (acts opened)

theorem inRide_event (e : Ambient) {f : Shelf → Shelf} {s : State}
    (acts : ∀ {x : Shelf}, ShedsInRide x → ShedsInRide (f x)) (h : ShedsInRide s.toShelf) :
    ShedsInRide (event e f s).toShelf := inRide_wholeEvent e (f := onShelf f) (fun h => acts h) h

theorem inRide_request (e : Ambient) (code : Byte) (args : List Byte) {s : State} (h : ShedsInRide s.toShelf) :
    ShedsInRide (request e code args s).toShelf := inRide_wholeEvent e (inRide_receiveUp _) h

/-- A reset leaves NORMAL, no tray on a list and no reaction pending (R170, R185). -/
theorem inRide_resetBlocks (kind : ResetKind) (s : Shelf) : ShedsInRide (resetBlocks kind s) := by
  have empty (t : Nat) : onStack (vget resetBay.trays t).state = false := by rw [state_resetBay]; rfl
  have none (t : Nat) : Task.shed t ∉ ([] : List Task) := List.not_mem_nil
  cases kind <;> exact ⟨bayExact_resetBay, fun _ _ t => ⟨none t, none t, none t⟩, fun _ => empty⟩

theorem inRide_resetPart (kind : ResetKind) (s : State) : ShedsInRide (resetPart kind s).toShelf :=
  inRide_startUp kind _ (inRide_resetBlocks kind s.toShelf)

theorem inRide_endUp {s : State} (h : ShedsInRide s.toShelf) : ShedsInRide (endUp s).toShelf := by
  unfold endUp
  split
  · split
    · exact inRide_resetPart .restart s
    · exact inRide_editEngine .up (fun e => { e with shifter := none }) h
  · exact h

theorem inRide_startReplyTimer (p : Port) (h : ShedsInRide s) : ShedsInRide (startReplyTimer p s) := by
  unfold startReplyTimer
  exact inRide_editPoll p _ h

theorem inRide_endDown (p : Port) (h : ShedsInRide s) : ShedsInRide (endDown p s) :=
  keep_ite (fun _ => inRide_startReplyTimer _
    (inRide_editEngine p (fun e => { e with shifter := none }) h)) fun _ => h

theorem inRide_shiftUp (h : ShedsInRide s) : ShedsInRide (shiftUp s) := by
  unfold shiftUp
  split <;> exact h

theorem inRide_damageOn (p : Port) {s : State} (h : ShedsInRide s.toShelf) : ShedsInRide (damageOn p s).toShelf := by
  unfold damageOn
  split
  · exact inRide_damageUp h
  · exact inRide_judge p .damage (inRide_editEngine p _ h)

theorem inRide_deliverOn (p : Port) (f : Frame) {s : State} (h : ShedsInRide s.toShelf) :
    ShedsInRide (deliverOn p f s).toShelf := by
  unfold deliverOn
  split
  · exact inRide_receiveUp _ h
  · exact inRide_judge p (.frame f) (inRide_hunt p h)

theorem inRide_emptyPassExpiry (p : Port) (h : ShedsInRide s) : ShedsInRide (emptyPassExpiry p s) :=
  keep_ite (fun _ => inRide_editPoll p _ h) fun _ => h

theorem inRide_replyExpiry (p : Port) (h : ShedsInRide s) : ShedsInRide (replyExpiry p s) := by
  unfold replyExpiry
  split
  · exact keep_ite (fun _ => inRide_endFailed _ _ h) fun _ => h
  · exact h

/-- The tick is due in RIDE alone (R68). -/
theorem rideState_of_tickDue (due : tickDue s = true) : s.ride.state = .ride := by
  obtain ⟨ride, -⟩ := (Bool.and_eq_true _ _).mp due
  exact of_decide_eq_true ride

/-- The qualify time passes in RIDE and DEPLETED alone (R79). -/
theorem rideState_of_qualifyDue (due : qualifyDue s = true) : s.ride.state = .ride ∨ s.ride.state = .depleted := by
  obtain ⟨ride, -⟩ := (Bool.and_eq_true _ _).mp due
  simpa using ride

theorem noSheds_of_quiet (quiet : Quiet s) : NoSheds s := by
  obtain ⟨agenda, deferred, raised, -⟩ := quiet
  intro t
  rw [agenda, raised, deferred]
  exact ⟨List.not_mem_nil, List.not_mem_nil, List.not_mem_nil⟩

/-- Every command keeps such a property, row after row of the table; a ride is left at an event's beginning alone, where
no reaction is pending. -/
theorem inRide_exec_next (c : Instr) {s : State} (quiet : Quiet s.toShelf) (h : ShedsInRide s.toShelf) :
    ∃ t, exec c s = .next t ∧ ShedsInRide t.toShelf := by
  cases c with
  | powerOnReset =>
    exact ⟨_, rfl, inRide_wholeEvent (f := resetPart .powerOn) _ (fun _ => inRide_resetPart .powerOn _) h⟩
  | resetLine =>
    exact ⟨_, rfl, inRide_wholeEvent (f := resetPart .line) _ (fun _ => inRide_resetPart .line _) h⟩
  | restartPerform =>
    exact ⟨_, rfl, inRide_wholeEvent _ (fun h => keep_iteState (fun _ => inRide_endUp h) fun _ => h) h⟩
  | frameReceived =>
    refine ⟨_, rfl, inRide_wholeEvent _ (fun {x} h => ?_) h⟩
    split
    · exact inRide_deliverOn _ _ h
    all_goals exact h
  | frameDamaged | gapLimitExpiry =>
    exact ⟨_, rfl, inRide_wholeEvent _ (fun h => keep_iteState (fun _ => inRide_damageOn _ h) fun _ => h) h⟩
  | transmitEnd =>
    exact ⟨_, rfl,
      inRide_wholeEvent _ (fun h => keep_iteState (fun _ => inRide_endUp h) fun _ => inRide_endDown _ h) h⟩
  | storeOperationComplete => exact ⟨_, rfl, inRide_wholeEvent _ (inRide_completeOperation _) h⟩
  | upStrayFrame | order | requestInvalidCode => exact ⟨_, rfl, inRide_wholeEvent _ (inRide_receiveUp _) h⟩
  | upDamageMarkTaken => exact ⟨_, rfl, inRide_event _ id h⟩
  | editIdleTimerExpiry =>
    exact ⟨_, rfl, inRide_event _ (fun h => keep_ite (fun _ => inRide_expireWindow h) fun _ => h) h⟩
  | emptyPassTimerExpiry => exact ⟨_, rfl, inRide_event _ (inRide_emptyPassExpiry _) h⟩
  | replyTimerExpiry => exact ⟨_, rfl, inRide_event _ (inRide_replyExpiry _) h⟩
  | forwardIntervalExpiry =>
    exact ⟨_, rfl, inRide_event _ (fun h => keep_ite (fun _ => inRide_editModule _ _ h) fun _ => h) h⟩
  | staleTimeExpiry =>
    exact ⟨_, rfl, inRide_event _ (fun h => keep_ite (fun _ => inRide_staleAll _ h) fun _ => h) h⟩
  | lineEdge | firstAcceptance => exact ⟨_, rfl, inRide_event _ (inRide_acceptance _ _ _) h⟩
  | energyTick =>
    exact ⟨_, rfl, inRide_event _
      (fun h => keep_ite (fun due => inRide_energyTick (rideState_of_tickDue due) h.1) fun _ => h) h⟩
  | qualifyTimerExpiry =>
    refine ⟨_, rfl, inRide_closing (keep_ite (fun due => ?_) fun _ => h)⟩
    exact inRide_enterReturning (rideState_of_qualifyDue due) h.1 (noSheds_of_quiet quiet)
  | startTimerExpiry =>
    exact ⟨_, rfl, inRide_event _ (fun h => keep_ite (fun _ => inRide_faultTray _ _ h) fun _ => h) h⟩
  | confirmTimerExpiry =>
    exact ⟨_, rfl, inRide_event _ (fun h => keep_ite (fun _ => inRide_confirmExpiry _ h) fun _ => h) h⟩
  | stepTimerExpiry =>
    exact ⟨_, rfl, inRide_event _ (fun h => keep_ite (fun _ => inRide_stepExpiry h) fun _ => h) h⟩
  | delayTimerExpiry =>
    exact ⟨_, rfl, inRide_event _ (fun h => keep_ite (fun _ => inRide_delayExpiry h) fun _ => h) h⟩
  | autostart => exact ⟨_, rfl, inRide_event _ inRide_autostartTest h⟩
  | filterSample => exact ⟨_, rfl, inRide_event _ (inRide_filterSample _ _) h⟩
  | startCharacterReceived =>
    exact ⟨_, rfl, inRide_event _
      (fun h => keep_ite (fun _ => inRide_editEngine _ _ h) fun _ => h) h⟩
  | shifterFinishesFrame => exact ⟨_, rfl, inRide_event _ inRide_shiftUp h⟩
  | _ =>
    exact ⟨_, rfl, inRide_request _ _ _ h⟩

end Blocks

/-- Settles O9: a tray is pushed by a shed alone, none is pending as the event begins, sheds are raised in RIDE and
DEPLETED alone, and RETURNING becomes NORMAL with the stack empty. -/
theorem normalHasNoStack : Obligations.NormalHasNoStack := by
  refine ⟨⟨rfl, rfl⟩, fun c s t quiet lists empty next normal => ?_⟩
  have before : ShedsInRide s.toShelf :=
    ⟨lists, fun _ _ => noSheds_of_quiet quiet, fun normal => onStack_of_stack_nil lists (empty normal)⟩
  obtain ⟨u, done, lists, -, off⟩ := inRide_exec_next c quiet before
  cases done.symm.trans next
  exact stack_nil_of_onStack lists (off normal)

end Sys2Proof.Machine
end


section
/-! PROOF. The rack manager's orders and requests to trays: CLEAR-TRAY (O32, R101) and the intercepted OUTPUT-ON and
OUTPUT-OFF (O36, R102, R103). -/

namespace Sys2Proof.Machine

/-! ### Requests that act on the blocks -/

/-- A request that the blocks decide is answered with what they give, over what they make of the state in which it is
heard. -/
theorem request_decided (e : Ambient) {s : State} (ready : Ready s) {code status : Byte} {args : List Byte}
    {f : Shelf → Byte × Shelf} {g : Shelf → Shelf} (short : args.length ≤ 59)
    (fits : lengthFits code args.length = true) (decided : ∀ x, dispatch code args x = actWith code f x)
    (given : f (heard e s).toShelf = (status, g (heard e s).toShelf)) :
    request e code args s = closing (told code status [] (onShelf g (heard e s))) := by
  rw [request_dispatched e ready short fits, decided]
  simp only [actWith, told, onShelf, given]

/-- A request that the blocks refuse is answered, and nothing else follows. -/
theorem request_refused (e : Ambient) {s : State} (calm : Calm s) {code status : Byte} {args : List Byte}
    {f : Shelf → Byte × Shelf} (short : args.length ≤ 59) (fits : lengthFits code args.length = true)
    (decided : ∀ x, dispatch code args x = actWith code f x)
    (given : f (heard e s).toShelf = (status, (heard e s).toShelf)) :
    request e code args s = answered code status [] (heard e s) := by
  rw [request_decided e calm.1 (g := id) short fits decided given]
  exact closing_told code status [] (still_heard e calm)

/-! ### CLEAR-TRAY (R101) -/

section Clear

variable (e : Ambient) {tray : Byte} {s : State} (calm : Calm s)
include calm

theorem exec_clearTray_refused {status : Byte}
    (given : requestClearTray tray.toNat (heard e s).toShelf = (status, (heard e s).toShelf)) :
    exec (.clearTray e tray) s = .next (answered rqClearTray status [] (heard e s)) :=
  congrArg Host.Outcome.next
    (request_refused e calm (f := requestClearTray tray.toNat) (by simp) rfl (fun _ => rfl) given)

theorem exec_clearTray_clears {entry : TrayEntry} (low : tray.toNat ≤ 23)
    (used : trayAt (heard e s).toShelf tray.toNat = some entry) (fault : trayState s.toShelf tray.toNat = .fault) :
    exec (.clearTray e tray) s =
      .next (closing (told rqClearTray stDone [] (onShelf (clearTray tray.toNat) (heard e s)))) := by
  have there : trayState (heard e s).toShelf tray.toNat = .fault := fault
  refine congrArg Host.Outcome.next
    (request_decided e calm.1 (f := requestClearTray tray.toNat) (by simp) rfl (fun _ => rfl) ?_)
  simp [requestClearTray, Nat.not_lt.mpr low, used, there]

end Clear

/-- A clear touches the trays, TP's orders and what follows a tray's change alone. -/
theorem clearTray_eq (t : Nat) (x : Shelf) :
    let y := clearTray t x
    y = { x with
      bay := y.bay, pollTp := y.pollTp, notices := y.notices, causes := y.causes, deferred := y.deferred
      raised := y.raised, admitDue := y.admitDue } := by
  dsimp only
  unfold clearTray
  rw [placeOff_eq, trayTo_eq]

theorem bay_clearTray (t : Nat) (x : Shelf) :
    (clearTray t x).bay = (trayTo t .off (fun r => { r with awaited := .nothing }) x).bay := by
  unfold clearTray
  rw [placeOff_eq]

/-- Settles O32: the request by the first test of R101 that holds, and the clear as a move to OFF with its order. -/
theorem clearTrayDecided : Obligations.ClearTrayDecided := by
  refine ⟨fun e tray s calm => ⟨fun high => ?_, fun low unused => ?_, fun low used other => ?_, fun low used fault => ?_⟩,
    fun t x ht => ?_⟩
  · exact exec_clearTray_refused e calm (if_pos high)
  · refine exec_clearTray_refused e calm ?_
    simp [requestClearTray, Nat.not_lt.mpr low, unused]
  · have there : trayState (heard e s).toShelf tray.toNat ≠ .fault := other
    refine exec_clearTray_refused e calm ?_
    simp [requestClearTray, Nat.not_lt.mpr low, Option.isSome_iff_ne_none.mp used, there]
  · obtain ⟨entry, found⟩ := Option.isSome_iff_exists.mp used
    exact exec_clearTray_clears e calm low found fault
  · have record := vget_trayTo_self .off (fun r => { r with awaited := .nothing }) x ht
    have ordered : TrayOrdered t 0x02 x (clearTray t x) :=
      trayOrdered_placeOff (tables_trayTo t .off _ x) (engTp_trayTo t .off _ x)
    have frame := clearTray_eq t x
    dsimp only at frame ⊢
    rw [bay_clearTray, record]
    refine ⟨rfl, rfl, rfl, fun u hu => vget_trayTo_ne _ _ _ hu, ordered, ?_⟩
    rw [frame]
    exact ⟨rfl, rfl, rfl, rfl, rfl, rfl, rfl, rfl⟩

/-! ### Intercepted orders (R102, R103) -/

/-- An ORDER-ACK touches the replies alone (R149, R165). -/
theorem answerOrder_eq (a c status : Byte) (x : Shelf) :
    answerOrder a c status x = { x with
      replies := (answerOrder a c status x).replies, replyWait := (answerOrder a c status x).replyWait } :=
  placeReply_eq _ x

section Intercept

variable (a : Byte) {t : Nat} {x : Shelf}

theorem trayState_answerOrder (c status : Byte) (x : Shelf) (u : Nat) :
    trayState (answerOrder a c status x) u = trayState x u := by
  rw [answerOrder_eq]
  rfl

theorem trayAt_answerOrder (c status : Byte) (x : Shelf) (u : Nat) :
    trayAt (answerOrder a c status x) u = trayAt x u := by
  rw [answerOrder_eq]
  rfl

theorem bay_answerOrder (c status : Byte) (x : Shelf) : (answerOrder a c status x).bay = x.bay := by
  rw [answerOrder_eq]

/-- While the shelf stop condition is active, a tray that is neither LOCKED nor in FAULT is denied (R102). -/
theorem outputOnAnswer_stopped (free : trayState x t ≠ .locked) (sound : trayState x t ≠ .fault)
    (stop : x.shelfStop = true) : outputOnAnswer x t = ackDenied := by
  unfold outputOnAnswer
  split
  case h_1 locked => exact absurd locked free
  case h_2 fault => exact absurd fault sound
  case h_3 => exact if_pos stop

/-- An OUTPUT-ON that is not queued is answered, and nothing else follows. -/
theorem interceptOn_answers {status : Byte} (used : (trayAt x t).isSome) (answer : outputOnAnswer x t = status)
    (other : status ≠ ackQueued) : interceptOn a t x = answerOrder a 0x01 status x := by
  obtain ⟨entry, found⟩ := Option.isSome_iff_exists.mp used
  simp only [interceptOn, found, answer, if_neg other]
  rfl

/-- An OUTPUT-ON that is queued asks for the tray's admission. -/
theorem interceptOn_queues (used : (trayAt x t).isSome) (answer : outputOnAnswer x t = ackQueued) :
    interceptOn a t x = requestAdmission t .manager (answerOrder a 0x01 0x80 x) := by
  obtain ⟨entry, found⟩ := Option.isSome_iff_exists.mp used
  simp only [interceptOn, found, answer]
  rfl

/-- An admission request of an OFF tray takes it to QUEUED (R92). -/
theorem requestAdmission_off {origin : QueuedBy} (used : (trayAt x t).isSome) (off : trayState x t = .off) :
    requestAdmission t origin x = trayTo t .queued (fun r => { r with queuedBy := some origin }) x :=
  if_pos ⟨used, off⟩

/-- An admission request changes no other tray. -/
theorem vget_requestAdmission_ne {u : Nat} (origin : QueuedBy) (x : Shelf) (hu : u ≠ t) :
    vget (requestAdmission t origin x).bay.trays u = vget x.bay.trays u := by
  unfold requestAdmission
  split
  · exact vget_trayTo_ne _ _ _ hu
  · rfl

/-- An OFF tray that is asked for in NORMAL stands in the start queue, queued by the rack manager (R92, R102). -/
theorem interceptOn_off (ht : t < 24) (used : (trayAt x t).isSome) (off : trayState x t = .off)
    (answer : outputOnAnswer x t = ackQueued) :
    let y := interceptOn a t x
    y = requestAdmission t .manager (answerOrder a 0x01 0x80 x) ∧ trayState y t = .queued ∧
      (vget y.bay.trays t).queuedBy = some .manager ∧
      y.bay.queue = if t ∈ x.bay.queue then x.bay.queue else x.bay.queue ++ [t] := by
  have queues := interceptOn_queues a used answer
  have moves := requestAdmission_off (origin := .manager) (x := answerOrder a 0x01 0x80 x)
    (by rwa [trayAt_answerOrder]) (by rwa [trayState_answerOrder])
  refine ⟨queues, ?_⟩
  rw [queues, moves, trayState_trayTo, vget_trayTo_self _ _ _ ht, trayTo_bay, queue_moveTray_queued _ _ _ ht,
    bay_answerOrder]
  exact ⟨if_pos ⟨rfl, ht⟩, rfl, rfl⟩

/-- An OUTPUT-OFF is answered OK, and takes each state where R103 says. -/
theorem interceptOff_cases (used : (trayAt x t).isSome) :
    let s := answerOrder a codeOutputOff ackOk x
    (trayState x t = .queued → interceptOff a t x = withdrawTray t s) ∧
    (trayState x t = .starting ∨ trayState x t = .on ∨ trayState x t = .shedding → interceptOff a t x = stopTray t s) ∧
    (trayState x t = .shed → interceptOff a t x = trayTo t .off id s) ∧
    (trayState x t = .unknown ∨ trayState x t = .off ∨ trayState x t = .stopping ∨ trayState x t = .locked ∨
      trayState x t = .fault → interceptOff a t x = s) := by
  obtain ⟨entry, found⟩ := Option.isSome_iff_exists.mp used
  have same : trayState (answerOrder a codeOutputOff ackOk x) t = trayState x t := trayState_answerOrder a _ _ x t
  unfold interceptOff
  simp only [found, same]
  refine ⟨fun queued => ?_, fun runs => ?_, fun shed => ?_, fun other => ?_⟩
  · simp [queued]
  · obtain state | state | state := runs <;> simp [state]
  · simp [shed]
  · obtain state | state | state | state | state := other <;> simp [state]

/-- An OUTPUT-OFF leaves its tray as it stands, takes it to OFF, or stops it with or without an order: one move of the
answered state at most. -/
theorem interceptOff_moves (used : (trayAt x t).isSome) :
    let s := answerOrder a codeOutputOff ackOk x
    let stopped := trayTo t .stopping (fun r => { r with awaited := .off, startTimer := .stopped }) s
    (trayState x t = .queued ∨ trayState x t = .shed → interceptOff a t x = trayTo t .off id s) ∧
    (trayState x t = .starting ∨ trayState x t = .on → interceptOff a t x = placeOff t stopped) ∧
    (trayState x t = .shedding → interceptOff a t x = stopped) := by
  obtain ⟨withdraws, stops, leaves, -⟩ := interceptOff_cases a used
  have same : ∀ st, trayState x t = st → trayState (answerOrder a codeOutputOff ackOk x) t = st :=
    fun st h => (trayState_answerOrder a _ _ x t).trans h
  refine ⟨fun waits => ?_, fun runs => ?_, fun shedding => ?_⟩
  · obtain queued | shed := waits
    · rw [withdraws queued, withdrawTray, if_pos (same _ queued)]
    · exact leaves shed
  · rw [stops (runs.imp_right .inl), stopTray_of_on (runs.imp (same _) (same _))]
  · rw [stops (.inr (.inr shedding)), stopTray_of_shedding (same _ shedding)]

/-- Where an OUTPUT-OFF takes its tray, with every other tray as it was. -/
theorem interceptOff_trays (ht : t < 24) (used : (trayAt x t).isSome) :
    trayState (interceptOff a t x) t =
        (match trayState x t with
        | .queued | .shed => .off
        | .starting | .on | .shedding => .stopping
        | _ => trayState x t) ∧
      ∀ u ≠ t, vget (interceptOff a t x).bay.trays u = vget x.bay.trays u := by
  let s := answerOrder a codeOutputOff ackOk x
  let stop := fun r : Tray => { r with awaited := Awaited.off, startTimer := Timer.stopped }
  have bay : s.bay = x.bay := bay_answerOrder a _ _ x
  have ordered : (placeOff t (trayTo t .stopping stop s)).bay = (trayTo t .stopping stop s).bay := by rw [placeOff_eq]
  have moved (new : TrayState) (f : Tray → Tray) : (vget (trayTo t new f s).bay.trays t).state = new ∧
      ∀ u ≠ t, vget (trayTo t new f s).bay.trays u = vget x.bay.trays u :=
    ⟨by rw [vget_trayTo_self _ _ _ ht], fun u hu => by rw [vget_trayTo_ne _ _ _ hu, bay]⟩
  obtain ⟨off, stops, sheds⟩ := interceptOff_moves a used
  obtain ⟨-, -, -, stays⟩ := interceptOff_cases a used
  unfold trayState
  cases state : (vget x.bay.trays t).state
  case queued => rw [off (.inl state)]; exact moved .off id
  case shed => rw [off (.inr state)]; exact moved .off id
  case starting => rw [stops (.inl state), ordered]; exact moved .stopping stop
  case on => rw [stops (.inr state), ordered]; exact moved .stopping stop
  case shedding => rw [sheds state]; exact moved .stopping stop
  all_goals
    rw [stays (by simp [trayState, state]), bay_answerOrder]
    exact ⟨state, fun _ _ => rfl⟩

end Intercept

/-- Settles O36: OUTPUT-ON by the first test of R102, and OUTPUT-OFF by the tray's state (R103). -/
theorem trayOrdersAnswered : Obligations.TrayOrdersAnswered := by
  intro a t x ht
  refine ⟨fun unused => by simp only [interceptOn, interceptOff, unused]; exact ⟨rfl, rfl⟩, fun used => ?_⟩
  have answers := fun status => interceptOn_answers a (status := status) used
  obtain ⟨withdraws, stops, leaves, stays⟩ := interceptOff_cases a used
  obtain ⟨-, runs, sheds⟩ := interceptOff_moves a used
  obtain ⟨entered, others⟩ := interceptOff_trays a ht used
  refine ⟨fun locked => answers ackLocked (by simp [outputOnAnswer, locked]) (by decide),
    fun fault => answers ackFault (by simp [outputOnAnswer, fault]) (by decide),
    fun free sound => ⟨fun stop => answers ackDenied (outputOnAnswer_stopped free sound stop) (by decide), fun run => ?_⟩,
    withdraws, stops, leaves, stays, fun on entry found mine enabled => ?_, fun shedding => ?_, entered,
    fun u hu => ⟨?_, others u hu⟩⟩
  · refine ⟨fun state => answers ackBusy ?_ (by decide), fun state => answers ackOk ?_ (by decide),
      fun state => answers ackRide ?_ (by decide), fun off ride => answers ackRide ?_ (by decide),
      fun off normal => interceptOn_off a ht used off ?_⟩
    · obtain state | state := state <;> simp [outputOnAnswer, state, run]
    · obtain state | state | state := state <;> simp [outputOnAnswer, state, run]
    · obtain state | state := state <;> simp [outputOnAnswer, state, run]
    · simp [outputOnAnswer, off, run, rideNormal, ride]
    · simp [outputOnAnswer, off, run, rideNormal, normal]
  · rw [runs on]
    refine trayOrdered_placeOff ?_ ?_ entry found mine enabled
    · rw [tables_trayTo, answerOrder_eq]
    · rw [engTp_trayTo, answerOrder_eq]
  · rw [sheds shedding, pollTp_trayTo, answerOrder_eq]
  · obtain ⟨entry, found⟩ := Option.isSome_iff_exists.mp used
    simp only [interceptOn, found]
    split
    · rw [vget_requestAdmission_ne _ _ hu, bay_answerOrder]
    · rw [bay_answerOrder]

end Sys2Proof.Machine
end


section
/-! PROOF. What a tray's record follows (O59): the outcomes of its orders (R90, R91), its reports and its TRAY-GOOD line
(R88, R89, R95, R96), its module's absence (R96) and its start timer (R95, R96). -/

namespace Sys2Proof.Machine

/-! ### A change that is not told -/

/-- A state change of tray `t` that follows is told alike from either of two states: they agree on what it is told
from, on the other trays, and on this one's state. -/
structure TrayUntold (t : Nat) (x s : Shelf) : Prop where
  time : s.shelfTime = x.shelfTime
  tables : s.tables = x.tables
  engTp : s.engTp = x.engTp
  pollTp : s.pollTp = x.pollTp
  notices : s.notices = x.notices
  queue : s.bay.queue = x.bay.queue
  stack : s.bay.stack = x.bay.stack
  others : ∀ u, u ≠ t → vget s.bay.trays u = vget x.bay.trays u
  state : (vget s.bay.trays t).state = (vget x.bay.trays t).state

section Untold

variable {t : Nat} {x s y : Shelf}

theorem TrayUntold.adoption (untold : TrayUntold t x s) : adoptionComplete s = adoptionComplete x := by
  have states : trayState s = trayState x := by
    funext u
    by_cases same : u = t
    · exact same ▸ untold.state
    · exact congrArg Tray.state (untold.others u same)
  rw [adoptionComplete_eq, adoptionComplete_eq, states, show trayAt s = trayAt x from funext (trayAt_congr untold.tables)]

/-- What is told after an untold change is told from before it. -/
theorem TrayUntold.told (untold : TrayUntold t x s) (told : TrayTold t s y) : TrayTold t x y := by
  simp only [TrayTold, untold.state, untold.time, untold.notices, untold.queue, untold.stack, untold.adoption,
    trayAt_congr untold.tables] at told ⊢
  exact ⟨fun u hu => (told.1 u hu).trans (untold.others u hu), told.2⟩

/-- An order placed after an untold change is placed from before it. -/
theorem TrayUntold.ordered (untold : TrayUntold t x s) {code : Byte} (ordered : TrayOrdered t code s y) :
    TrayOrdered t code x y := fun e used mine enabled =>
  ordered e ((trayAt_congr untold.tables t).trans used) ((rosterIs_congr (untold.tables ▸ rfl) _ _ _).trans mine)
    (untold.engTp ▸ enabled)

/-- A change of the tray's fields is untold. -/
theorem editTray_untold (t : Nat) (f : Tray → Tray) (x : Shelf) : TrayUntold t x (editTray t f x) :=
  ⟨rfl, rfl, rfl, rfl, rfl, rfl, rfl, fun u hu => by
    change vget (vmod x.bay.trays t _) u = _
    rw [vget_vmod, if_neg fun h => hu h.1.symm], editTray_state t t f x⟩

theorem vget_editTray {t : Nat} (ht : t < 24) (f : Tray → Tray) (x : Shelf) :
    vget (editTray t f x).bay.trays t = { f (vget x.bay.trays t) with state := (vget x.bay.trays t).state } := by
  change vget (vmod x.bay.trays t _) t = _
  rw [vget_vmod, if_pos ⟨rfl, ht⟩]

end Untold

/-! ### A tray that enters a state -/

/-- Between two states tray `t` takes a state, its other fields those given, and is told of (R105). -/
abbrev TrayEnters (t : Nat) (st : TrayState) (fields : Tray) (x y : Shelf) : Prop :=
  vget y.bay.trays t = { fields with state := st, stateTime := x.shelfTime, queuedBy := none } ∧ TrayTold t x y

/-- Between two states tray `t` goes from record `r` to FAULT, ordered off from STARTING or ON unless its output was
seen off (R96). -/
abbrev TrayFaulted (t : Nat) (r : Tray) (cause : TrayFault) (x y : Shelf) : Prop :=
  TrayEnters t .fault { r with fault := some cause, awaited := .nothing, startTimer := .stopped } x y ∧
    (r.state = .starting ∨ r.state = .on → r.seen ≠ .off → TrayOrdered t 0x02 x y) ∧
    (r.state = .stopping ∨ r.state = .shedding ∨ r.seen = .off → y.pollTp = x.pollTp)

section Enters

variable {t : Nat} {x s y : Shelf}

theorem TrayUntold.enters (untold : TrayUntold t x s) {st : TrayState} {fields : Tray}
    (enters : TrayEnters t st fields s y) : TrayEnters t st fields x y :=
  ⟨untold.time ▸ enters.1, untold.told enters.2⟩

theorem TrayUntold.faulted (untold : TrayUntold t x s) {r : Tray} {cause : TrayFault}
    (faulted : TrayFaulted t r cause s y) : TrayFaulted t r cause x y := by
  obtain ⟨enters, ordered, free⟩ := faulted
  exact ⟨untold.enters enters, fun runs on => untold.ordered (ordered runs on), fun h => (free h).trans untold.pollTp⟩

/-- A change of the tray's state is handed to the Balance Unit (R105). -/
theorem TrayEnters.handed {st : TrayState} {fields : Tray} (enters : TrayEnters t st fields x y)
    (moves : (vget x.bay.trays t).state ≠ st) : Task.balance ∈ y.raised ∧ Cause.tray ∈ y.causes := by
  obtain ⟨record, -, handed, -⟩ := enters
  rw [record] at handed
  exact (handed moves).2

/-- A tray takes a state other than QUEUED and FAULT, and no fault is kept. -/
theorem trayTo_enters {new : TrayState} (f : Tray → Tray) (ht : t < 24) (moves : (vget x.bay.trays t).state ≠ new)
    (queue : new ≠ .queued) (fault : new ≠ .fault) :
    TrayEnters t new { f (vget x.bay.trays t) with fault := none } x (trayTo t new f x) :=
  ⟨by rw [vget_trayTo_self new f x ht, if_neg queue, if_neg fault], trayTo_told new f x ht moves⟩

/-- An interval forward to a later time, and none to an earlier one (R95). -/
theorem forwardInterval_eq (start stop : Time) :
    forwardInterval start stop = if (stop - start).toNat < 2147483648 then stop - start else 0 := by
  simp only [forwardInterval, reached, decide_eq_true_eq]

/-- A good indication takes a tray to ON (R95). -/
theorem trayGood_enters (ht : t < 24) {r : Tray} (record : vget x.bay.trays t = r) (starting : r.state = .starting)
    (time : Time) :
    TrayEnters t .on
      { r with
        fault := none, awaited := .nothing, startTimer := .stopped
        duration := if (time - r.enableTime).toNat < 2147483648 then time - r.enableTime else 0 }
      x (trayGood t time x) := by
  subst record
  rw [← forwardInterval_eq]
  exact trayTo_enters
    (fun r => { r with startTimer := .stopped, awaited := .nothing, duration := forwardInterval r.enableTime time }) ht
    (by simp [starting]) (by decide) (by decide)

/-- A tray's entry to FAULT (R96). -/
theorem faultTray_faulted (ht : t < 24) {r : Tray} (record : vget x.bay.trays t = r) (other : r.state ≠ .fault)
    (cause : TrayFault) : TrayFaulted t r cause x (faultTray t cause x) := by
  subst record
  let fail := fun r : Tray => { r with fault := some cause, awaited := Awaited.nothing, startTimer := Timer.stopped }
  have enters : TrayEnters t .fault (fail (vget x.bay.trays t)) x (trayTo t .fault fail x) :=
    ⟨vget_trayTo_self .fault fail x ht, trayTo_told .fault fail x ht other⟩
  unfold faultTray
  dsimp only
  split
  case isTrue runs =>
    refine ⟨⟨?_, told_placeOff enters.2⟩, fun _ _ => trayOrdered_placeOff (tables_trayTo _ _ _ _) (engTp_trayTo _ _ _ _),
      fun free => ?_⟩
    · rw [placeOff_eq]
      exact enters.1
    · obtain ⟨state | state, seen⟩ := runs <;> simp [state, seen] at free
  case isFalse rests =>
    exact ⟨enters, fun runs on => absurd ⟨runs, on⟩ rests, fun _ => pollTp_trayTo _ _ _ _⟩

end Enters

/-! ### Output-seen (R88) -/

section Seen

variable {t : Nat} {x : Shelf} (seen : Seen)

/-- Output-seen takes a value in the tray's record alone; a change is handed to the Balance Unit. -/
theorem setSeen_cases (t : Nat) (x : Shelf) :
    ((vget x.bay.trays t).seen = seen ∧ setSeen t seen x = x) ∨
      ((vget x.bay.trays t).seen ≠ seen ∧
        setSeen t seen x = changed [.tray] (editTray t (fun r => { r with seen }) x)) := by
  by_cases same : (vget x.bay.trays t).seen = seen
  · exact .inl ⟨same, if_pos same⟩
  · exact .inr ⟨same, if_neg same⟩

theorem setSeen_untold (t : Nat) (x : Shelf) : TrayUntold t x (setSeen t seen x) := by
  obtain ⟨-, acts⟩ | ⟨-, acts⟩ := setSeen_cases seen t x
  · rw [acts]
    exact ⟨rfl, rfl, rfl, rfl, rfl, rfl, rfl, fun _ _ => rfl, rfl⟩
  · obtain ⟨time, tables, engTp, pollTp, notices, queue, stack, others, state⟩ :=
      editTray_untold t (fun r => { r with seen }) x
    rw [acts, changed_eq]
    exact ⟨time, tables, engTp, pollTp, notices, queue, stack, others, state⟩

theorem vget_setSeen (ht : t < 24) (x : Shelf) :
    vget (setSeen t seen x).bay.trays t = { vget x.bay.trays t with seen } := by
  obtain ⟨same, acts⟩ | ⟨-, acts⟩ := setSeen_cases seen t x
  · rw [acts, ← same]
  · rw [acts, changed_bay, vget_editTray ht]

theorem setSeen_handed (differs : (vget x.bay.trays t).seen ≠ seen) :
    Task.balance ∈ (setSeen t seen x).raised ∧ Cause.tray ∈ (setSeen t seen x).causes := by
  rw [setSeen, if_neg differs]
  exact changed_tray _

/-- A change of output-seen raises a recomputation alone. -/
theorem raised_setSeen {task : Task} (h : task ∈ (setSeen t seen x).raised) : task ∈ x.raised ∨ task = .balance := by
  obtain ⟨-, acts⟩ | ⟨-, acts⟩ := setSeen_cases seen t x
  · exact .inl (acts ▸ h)
  · rw [acts] at h
    change task ∈ (emit .balance (addCause (editTray t (fun r => { r with seen }) x) .tray)).raised at h
    rw [addCause_eq, emit_raised, List.mem_append, List.mem_singleton] at h
    exact h

theorem shelfStop_setSeen (t : Nat) (x : Shelf) : (setSeen t seen x).shelfStop = x.shelfStop := by
  obtain ⟨-, acts⟩ | ⟨-, acts⟩ := setSeen_cases seen t x <;> rw [acts]
  rw [changed_eq]
  rfl

theorem ride_setSeen (t : Nat) (x : Shelf) : (setSeen t seen x).ride = x.ride := by
  obtain ⟨-, acts⟩ | ⟨-, acts⟩ := setSeen_cases seen t x <;> rw [acts]
  rw [changed_eq]
  rfl

/-- A tray whose output-seen alone takes a value: every other field and tray stays, and nothing is posted. -/
theorem setSeen_kept (ht : t < 24) (x : Shelf) :
    vget (setSeen t seen x).bay.trays t = { vget x.bay.trays t with seen } ∧
      (∀ u, u ≠ t → vget (setSeen t seen x).bay.trays u = vget x.bay.trays u) ∧
      (setSeen t seen x).notices = x.notices :=
  ⟨vget_setSeen seen ht x, (setSeen_untold seen t x).others, (setSeen_untold seen t x).notices⟩

end Seen

/-! ### Adoption (R89) -/

/-- What follows a tray's change raises the test of the restore stack alone. -/
theorem raised_afterTray_only {before s : Shelf} {old new : TrayState} {task : Task}
    (h : task ∈ (afterTray before old new s).raised) : task ∈ s.raised ∨ task = .stackChanged := by
  have stack : (afterTray before old new s).raised =
      if before.bay.stack ≠ s.bay.stack then s.raised ++ [.stackChanged] else s.raised := by
    unfold afterTray
    simp only [apply_ite Shelf.raised, apply_ite Shelf.bay, admissionDue_raised, admissionDue_bay, postpone_raised,
      postpone_bay, emit_raised, ite_self]
  rw [stack] at h
  split at h
  · simpa using h
  · exact .inl h

/-- A tray state change raises a recomputation and the test of the restore stack alone. -/
theorem raised_trayTo_only {t : Nat} {new : TrayState} {f : Tray → Tray} {x : Shelf} {task : Task}
    (h : task ∈ (trayTo t new f x).raised) : task ∈ x.raised ∨ task = .balance ∨ task = .stackChanged := by
  obtain h | h := raised_afterTray_only h
  · change task ∈ (emit .balance (addCause _ .tray)).raised at h
    rw [addCause_eq, trayNotice_eq, emit_raised, List.mem_append, List.mem_singleton] at h
    exact h.imp_right .inl
  · exact .inr (.inr h)

theorem shelfStop_trayTo (t : Nat) (new : TrayState) (f : Tray → Tray) (x : Shelf) :
    (trayTo t new f x).shelfStop = x.shelfStop := by rw [trayTo_eq]

section Adopted

variable {t : Nat} {x : Shelf}

/-- A tray adopted ON is to be stopped, to be shed, or neither (R89; log entry 41). -/
theorem adoptedOn_eq (t : Nat) (s : Shelf) :
    adoptedOn t s = if s.shelfStop = true ∨ s.ride.state = .depleted then
      emit (if s.shelfStop then .shelfStopTray t else .shed t) s else s := by
  unfold adoptedOn
  cases s.shelfStop <;> simp

theorem adoptedOn_enters {st : TrayState} {fields : Tray} {z : Shelf} (enters : TrayEnters t st fields x z) :
    TrayEnters t st fields x (adoptedOn t z) := by
  rw [adoptedOn_eq]
  split
  · exact ⟨enters.1, told_later enters.2 rfl rfl rfl rfl rfl id fun _ h => List.mem_append_left _ h⟩
  · exact enters

end Adopted

/-! ### Status words (R88, R89, R95, R96) -/

/-- The value of output-seen that a status word gives (R163). -/
def wordSeen (word : Nat) : Seen := if bitOutputOn word then .on else .off

section Report

variable {t : Nat} {x : Shelf}

/-- A status word sets output-seen, and then acts by the tray's state. -/
theorem trayStatus_cases (ht : t < 24) (word : Nat) (time : Time) (x : Shelf) :
    let r := vget x.bay.trays t
    let s := setSeen t (wordSeen word) x
    let y := trayStatus t word time x
    (r.state = .unknown →
      y = if bitOutputOn word && bitPowerGood word then adoptedOn t (trayTo t .on id s) else trayTo t .off id s) ∧
    (r.state = .starting → y = if bitPowerGood word && isRunning r.startTimer then trayGood t time s else s) ∧
    (r.state = .on → y = if bitPowerGood word then s else faultTray t .goodLost s) ∧
    (r.state ≠ .unknown → r.state ≠ .starting → r.state ≠ .on → y = s) := by
  have record := vget_setSeen (wordSeen word) ht x
  unfold trayStatus
  dsimp only
  rw [show (if bitOutputOn word = true then Seen.on else Seen.off) = wordSeen word from rfl, record]
  refine ⟨fun state => ?_, fun state => ?_, fun state => ?_, fun a b c => ?_⟩
  · simp only [state]
  · simp only [state]
  · simp only [state]
  · split
    case h_1 state => exact absurd state a
    case h_2 state => exact absurd state b
    case h_3 state => exact absurd state c
    case h_4 => rfl

/-- A tray in use that is UNKNOWN takes ON or OFF by its first status word, and one adopted ON is then to be stopped or
shed (R89; log entries 41 and 48). -/
theorem trayStatus_adopts (ht : t < 24) (word : Nat) (time : Time) (unknown : (vget x.bay.trays t).state = .unknown) :
    let y := trayStatus t word time x
    let on := bitOutputOn word && bitPowerGood word
    let acts := on = true ∧ (x.shelfStop = true ∨ x.ride.state = .depleted)
    TrayEnters t (if on then .on else .off) { vget x.bay.trays t with seen := wordSeen word, fault := none } x y ∧
    (acts → y.raised.getLast? = some (if x.shelfStop then .shelfStopTray t else .shed t)) ∧
    (¬acts → ∀ u, (Task.shed u ∈ y.raised → Task.shed u ∈ x.raised) ∧
      (Task.shelfStopTray u ∈ y.raised → Task.shelfStopTray u ∈ x.raised)) := by
  have untold := setSeen_untold (wordSeen word) t x
  have record := vget_setSeen (wordSeen word) ht x
  obtain ⟨adopts, -⟩ := trayStatus_cases ht word time x
  have enters (st : TrayState) (other : st ≠ .unknown) (queue : st ≠ .queued) (fault : st ≠ .fault) :
      TrayEnters t st { vget x.bay.trays t with seen := wordSeen word, fault := none } x
        (trayTo t st id (setSeen t (wordSeen word) x)) := by
    have moved := trayTo_enters (x := setSeen t (wordSeen word) x) id ht
      (by rw [record]; exact fun same => other (same.symm.trans unknown)) queue fault
    rw [record] at moved
    exact untold.enters moved
  have quiet (st : TrayState) (task : Task) (h : task ∈ (trayTo t st id (setSeen t (wordSeen word) x)).raised) :
      task ∈ x.raised ∨ task = .balance ∨ task = .stackChanged := by
    obtain h | h := raised_trayTo_only h
    · exact (raised_setSeen _ h).imp_right .inl
    · exact .inr h
  have stop : (trayTo t .on id (setSeen t (wordSeen word) x)).shelfStop = x.shelfStop :=
    (shelfStop_trayTo _ _ _ _).trans (shelfStop_setSeen _ _ _)
  have ride : (trayTo t .on id (setSeen t (wordSeen word) x)).ride = x.ride :=
    (ride_trayTo _ _ _ _).trans (ride_setSeen _ _ _)
  dsimp only
  cases both : bitOutputOn word && bitPowerGood word with
  | false =>
    have acts : trayStatus t word time x = trayTo t .off id (setSeen t (wordSeen word) x) :=
      (adopts unknown).trans (if_neg (by simp [both]))
    rw [acts]
    refine ⟨enters .off (by decide) (by decide) (by decide), nofun, fun _ u => ⟨fun h => ?_, fun h => ?_⟩⟩
    · simpa using quiet .off _ h
    · simpa using quiet .off _ h
  | true =>
    have acts : trayStatus t word time x = adoptedOn t (trayTo t .on id (setSeen t (wordSeen word) x)) :=
      (adopts unknown).trans (if_pos both)
    have follows := adoptedOn_eq t (trayTo t .on id (setSeen t (wordSeen word) x))
    rw [stop, ride] at follows
    rw [acts]
    refine ⟨adoptedOn_enters (enters .on (by decide) (by decide) (by decide)), fun due => ?_, fun idle u => ?_⟩
    · rw [follows, if_pos due.2, emit_raised, List.getLast?_concat]
    · rw [follows, if_neg fun due => idle ⟨rfl, due⟩]
      exact ⟨fun h => by simpa using quiet .on _ h, fun h => by simpa using quiet .on _ h⟩

/-- A status word of a STARTING tray: power-good completes the start once its timer runs (R95). -/
theorem trayStatus_starting (ht : t < 24) (word : Nat) (time : Time) (starting : (vget x.bay.trays t).state = .starting) :
    let r := vget x.bay.trays t
    let y := trayStatus t word time x
    (bitPowerGood word = true → isRunning r.startTimer = true →
      TrayEnters t .on
        { r with
          seen := wordSeen word, fault := none, awaited := .nothing, startTimer := .stopped
          duration := if (time - r.enableTime).toNat < 2147483648 then time - r.enableTime else 0 } x y) ∧
    (bitPowerGood word = false ∨ isRunning r.startTimer = false → y = setSeen t (wordSeen word) x) := by
  obtain ⟨-, acts, -⟩ := trayStatus_cases ht word time x
  refine ⟨fun ready runs => ?_, fun quiet => (acts starting).trans (if_neg ?_)⟩
  · have good : trayStatus t word time x = trayGood t time (setSeen t (wordSeen word) x) :=
      (acts starting).trans (if_pos (by rw [ready, runs]; rfl))
    rw [good]
    exact (setSeen_untold _ t x).enters
      (trayGood_enters (r := { vget x.bay.trays t with seen := wordSeen word }) ht (vget_setSeen _ ht x) starting time)
  · obtain lost | stopped := quiet
    · simp [lost]
    · simp [stopped]

/-- A status word of an ON tray: power-good lost is a fault (R96). -/
theorem trayStatus_on (ht : t < 24) (word : Nat) (time : Time) (on : (vget x.bay.trays t).state = .on) :
    let y := trayStatus t word time x
    (bitPowerGood word = true → y = setSeen t (wordSeen word) x) ∧
    (bitPowerGood word = false →
      TrayFaulted t { vget x.bay.trays t with seen := wordSeen word } .goodLost x y) := by
  obtain ⟨-, -, acts, -⟩ := trayStatus_cases ht word time x
  refine ⟨fun ready => (acts on).trans (if_pos ready), fun lost => ?_⟩
  have fails : trayStatus t word time x = faultTray t .goodLost (setSeen t (wordSeen word) x) :=
    (acts on).trans (if_neg (by simp [lost]))
  rw [fails]
  exact (setSeen_untold _ t x).faulted
    (faultTray_faulted ht (vget_setSeen _ ht x) (fun fault => by simp [on] at fault) .goodLost)

/-- Where a status word changes output-seen, that is handed on, with the change of state or alone (R88). -/
theorem trayStatus_handed (ht : t < 24) (word : Nat) (time : Time)
    (differs : (vget x.bay.trays t).seen ≠ wordSeen word) :
    Task.balance ∈ (trayStatus t word time x).raised ∧ Cause.tray ∈ (trayStatus t word time x).causes := by
  have alone := setSeen_handed (wordSeen word) differs
  obtain ⟨-, -, -, stays⟩ := trayStatus_cases ht word time x
  by_cases unknown : (vget x.bay.trays t).state = .unknown
  · obtain ⟨enters, -⟩ := trayStatus_adopts ht word time unknown
    refine enters.handed (unknown ▸ ?_)
    split <;> decide
  by_cases starting : (vget x.bay.trays t).state = .starting
  · obtain ⟨good, kept⟩ := trayStatus_starting ht word time starting
    by_cases acts : bitPowerGood word = true ∧ isRunning (vget x.bay.trays t).startTimer = true
    · exact (good acts.1 acts.2).handed (starting ▸ by decide)
    · rw [kept (by simpa only [← Bool.not_eq_true, ← not_and_or] using acts)]
      exact alone
  by_cases on : (vget x.bay.trays t).state = .on
  · obtain ⟨kept, lost⟩ := trayStatus_on ht word time on
    cases ready : bitPowerGood word with
    | true => rw [kept ready]; exact alone
    | false => exact (lost ready).1.handed (on ▸ by decide)
  · rw [stays unknown starting on]
    exact alone

/-! ### TRAY-GOOD lines and absence (R95, R96) -/

/-- An edge of a tray's TRAY-GOOD line: a rising one completes a start once its timer runs, and a falling one of an ON
tray is a fault (R95, R96). -/
theorem trayLineEdge_spec (ht : t < 24) (rising : Bool) (time : Time) (x : Shelf) :
    let r := vget x.bay.trays t
    let y := trayLineEdge t rising time x
    (r.state = .starting →
      (rising = true → isRunning r.startTimer = true →
        TrayEnters t .on
          { r with
            fault := none, awaited := .nothing, startTimer := .stopped
            duration := if (time - r.enableTime).toNat < 2147483648 then time - r.enableTime else 0 } x y) ∧
      (rising = false ∨ isRunning r.startTimer = false → y = x)) ∧
    (r.state = .on → (rising = true → y = x) ∧ (rising = false → TrayFaulted t r .goodLost x y)) ∧
    (r.state ≠ .starting → r.state ≠ .on → y = x) := by
  refine ⟨fun starting => ?_, fun on => ?_, fun a b => ?_⟩
  · have acts : trayLineEdge t rising time x =
        if rising && isRunning (vget x.bay.trays t).startTimer then trayGood t time x else x := by
      simp only [trayLineEdge, starting]
    refine ⟨fun up runs => ?_, fun quiet => acts.trans (if_neg ?_)⟩
    · rw [acts.trans (if_pos (by rw [up, runs]; rfl))]
      exact trayGood_enters ht rfl starting time
    · obtain down | stopped := quiet
      · simp [down]
      · simp [stopped]
  · have acts : trayLineEdge t rising time x = if rising then x else faultTray t .goodLost x := by
      simp only [trayLineEdge, on]
    refine ⟨fun up => acts.trans (if_pos up), fun down => ?_⟩
    rw [acts.trans (if_neg (by simp [down]))]
    exact faultTray_faulted ht rfl (by simp [on]) .goodLost
  · unfold trayLineEdge
    dsimp only
    split
    case h_1 state => exact absurd state a
    case h_2 state => exact absurd state b
    case h_3 => rfl

/-- A tray whose module is ABSENT: output-seen is lost, and the tray goes to OFF or to FAULT or stays, by its state
(R88, R96). -/
theorem trayAbsent_cases (t : Nat) (x : Shelf) :
    let r := vget x.bay.trays t
    let s := setSeen t .unknown x
    let y := trayAbsent t x
    (r.state = .unknown ∨ r.state = .queued → y = trayTo t .off id s) ∧
    (r.state = .starting ∨ r.state = .on → y = faultTray t .absent s) ∧
    (r.state ≠ .unknown → r.state ≠ .queued → r.state ≠ .starting → r.state ≠ .on → y = s) := by
  have same : trayState (setSeen t .unknown x) t = (vget x.bay.trays t).state := (setSeen_untold .unknown t x).state
  unfold trayAbsent withdrawTray
  simp only [same]
  refine ⟨fun waits => ?_, fun runs => ?_, fun a b c d => ?_⟩
  · obtain state | state := waits <;> simp [state]
  · obtain state | state := runs <;> simp [state]
  · split
    case h_1 state => exact absurd state a
    case h_2 state => exact absurd state b
    case h_3 state => exact absurd state c
    case h_4 state => exact absurd state d
    case h_5 => rfl

/-- An absence of an UNKNOWN or QUEUED tray takes it to OFF, and of a STARTING or ON one to FAULT (R96). -/
theorem trayAbsent_spec (ht : t < 24) (x : Shelf) :
    let r := vget x.bay.trays t
    let y := trayAbsent t x
    (r.state = .unknown ∨ r.state = .queued → TrayEnters t .off { r with seen := .unknown, fault := none } x y) ∧
    (r.state = .starting ∨ r.state = .on → TrayFaulted t { r with seen := .unknown } .absent x y) ∧
    (r.state ≠ .unknown → r.state ≠ .queued → r.state ≠ .starting → r.state ≠ .on → y = setSeen t .unknown x) := by
  have untold := setSeen_untold .unknown t x
  have record := vget_setSeen .unknown ht x
  obtain ⟨leaves, fails, stays⟩ := trayAbsent_cases t x
  refine ⟨fun waits => ?_, fun runs => ?_, stays⟩
  · have moves : (vget (setSeen t .unknown x).bay.trays t).state ≠ .off := by
      rw [record]
      intro off
      obtain state | state := waits <;> exact absurd (state.symm.trans off) (by decide)
    have enters := trayTo_enters id ht moves (by decide) (by decide)
    rw [record] at enters
    rw [leaves waits]
    exact untold.enters enters
  · rw [fails runs]
    refine untold.faulted (faultTray_faulted ht record (fun fault => ?_) .absent)
    obtain state | state := runs <;> exact absurd (state.symm.trans fault) (by decide)

/-- Where an absence changes output-seen, that is handed on, with the change of state or alone (R88). -/
theorem trayAbsent_handed (ht : t < 24) (differs : (vget x.bay.trays t).seen ≠ .unknown) :
    Task.balance ∈ (trayAbsent t x).raised ∧ Cause.tray ∈ (trayAbsent t x).causes := by
  obtain ⟨leaves, fails, stays⟩ := trayAbsent_spec ht x
  by_cases waits : (vget x.bay.trays t).state = .unknown ∨ (vget x.bay.trays t).state = .queued
  · refine (leaves waits).handed fun off => ?_
    obtain state | state := waits <;> exact absurd (state.symm.trans off) (by decide)
  by_cases runs : (vget x.bay.trays t).state = .starting ∨ (vget x.bay.trays t).state = .on
  · refine (fails runs).1.handed fun fault => ?_
    obtain state | state := runs <;> exact absurd (state.symm.trans fault) (by decide)
  · rw [not_or] at waits runs
    rw [stays waits.1 waits.2 runs.1 runs.2]
    exact setSeen_handed .unknown differs

end Report

/-! ### Outcomes of orders (R90, R91, R95) -/

section Outcome

variable {t : Nat} {x : Shelf}

/-- The code that an awaited order has. -/
theorem awaitedOf_eq (code : Byte) :
    (awaitedOf code = .on ↔ code = 0x01) ∧ (awaitedOf code = .off ↔ code = 0x02) := by
  unfold awaitedOf
  by_cases on : code = codeOutputOn
  · subst on
    decide
  · rw [if_neg on]
    by_cases off : code = codeOutputOff
    · subst off
      decide
    · rw [if_neg off]
      exact ⟨⟨nofun, fun h => absurd h on⟩, nofun, fun h => absurd h off⟩

/-- The outcome of an order that a tray does not await does nothing (R90). -/
theorem trayOutcome_unawaited {code : Byte} (o : OrderOutcome)
    (other : (vget x.bay.trays t).awaited = .nothing ∨ ((vget x.bay.trays t).awaited = .on ∧ code ≠ 0x01) ∨
      ((vget x.bay.trays t).awaited = .off ∧ code ≠ 0x02)) : trayOutcome t code o x = x := by
  obtain ⟨on, off⟩ := awaitedOf_eq code
  refine if_pos (.inr ?_)
  obtain idle | ⟨awaits, differs⟩ | ⟨awaits, differs⟩ := other
  · exact .inl idle
  · exact .inr fun same => differs (on.mp (same.symm.trans awaits))
  · exact .inr fun same => differs (off.mp (same.symm.trans awaits))

/-- The outcome of the order that a tray awaits: what an OK gives by the tray's state, and a fault otherwise (R91). -/
theorem trayOutcome_awaited {entry : TrayEntry} (used : trayAt x t = some entry) {code : Byte} (o : OrderOutcome)
    (awaiting : (vget x.bay.trays t).awaited ≠ .nothing) (awaits : (vget x.bay.trays t).awaited = awaitedOf code) :
    let r := vget x.bay.trays t
    let y := trayOutcome t code o x
    let acts := fun ok : Shelf => y = if o = .ack ackOk then ok else faultTray t (outcomeFault o) x
    (r.state = .starting → acts (startAcknowledged t x)) ∧
    (r.state = .stopping → acts (trayTo t .off (fun r => { r with awaited := .nothing }) x)) ∧
    (r.state = .shedding → acts (trayTo t .shed (fun r => { r with awaited := .nothing }) x)) := by
  have awaited : ¬((trayAt x t).isNone = true ∨ (vget x.bay.trays t).awaited = .nothing ∨
      (vget x.bay.trays t).awaited ≠ awaitedOf code) := by simp [used, awaiting, awaits.symm]
  unfold trayOutcome
  simp only [if_neg awaited]
  exact ⟨fun state => by rw [state], fun state => by rw [state], fun state => by rw [state]⟩

/-- The outcomes that fail an order, each with the fault it gives (R91). -/
abbrev OutcomeFails (o : OrderOutcome) (cause : TrayFault) : Prop :=
  (∃ st ≠ 0, o = .ack st ∧ cause = .refused) ∨ (o = .noAnswer ∧ cause = .noAnswer) ∨ (o = .portOff ∧ cause = .absent)

theorem OutcomeFails.fault {o : OrderOutcome} {cause : TrayFault} (fails : OutcomeFails o cause) :
    o ≠ .ack ackOk ∧ outcomeFault o = cause := by
  obtain ⟨st, bad, rfl, rfl⟩ | ⟨rfl, rfl⟩ | ⟨rfl, rfl⟩ := fails
  · exact ⟨fun ok => bad (OrderOutcome.ack.inj ok), rfl⟩
  · exact ⟨nofun, rfl⟩
  · exact ⟨nofun, rfl⟩

/-- A failed order takes its tray to FAULT (R91, R96). -/
theorem failed_faulted {code : Byte} {o : OrderOutcome} {cause : TrayFault} {ok : Shelf} (ht : t < 24)
    (acts : trayOutcome t code o x = if o = .ack ackOk then ok else faultTray t (outcomeFault o) x)
    (fails : OutcomeFails o cause) (other : (vget x.bay.trays t).state ≠ .fault) :
    TrayFaulted t (vget x.bay.trays t) cause x (trayOutcome t code o x) := by
  obtain ⟨bad, rfl⟩ := fails.fault
  rw [acts, if_neg bad]
  exact faultTray_faulted ht rfl other _

/-- The record of a STARTING tray whose OUTPUT-ON is acknowledged, its start timer RUNNING (R95). -/
def acknowledgedTray (now : Time) (timeout : Nat) (r : Tray) : Tray :=
  { r with awaited := .nothing, enableTime := now, startTimer := .running (now + msTime timeout) }

/-- An acknowledged OUTPUT-ON starts the timer, and completes the start where the TRAY-GOOD line is active (R95). -/
theorem startAcknowledged_eq {entry : TrayEntry} (used : trayAt x t = some entry) :
    let s := editTray t (acknowledgedTray x.shelfTime entry.startTimeout) x
    startAcknowledged t x = if (goodLineOf x t).any (lineActive x) then trayGood t x.shelfTime s else s := by
  have timeout : ((trayAt x t).map (·.startTimeout)).getD 0 = entry.startTimeout := by rw [used]; rfl
  unfold startAcknowledged
  rw [timeout]
  rfl

/-- The start of a tray whose TRAY-GOOD line is active lasts no time (R95). -/
theorem startAcknowledged_lit (ht : t < 24) {entry : TrayEntry} (used : trayAt x t = some entry)
    (starting : (vget x.bay.trays t).state = .starting) (lit : (goodLineOf x t).any (lineActive x) = true) :
    TrayEnters t .on
      { vget x.bay.trays t with
        fault := none, awaited := .nothing, enableTime := x.shelfTime, startTimer := .stopped, duration := 0 }
      x (startAcknowledged t x) := by
  let r := acknowledgedTray x.shelfTime entry.startTimeout (vget x.bay.trays t)
  have untold := editTray_untold t (acknowledgedTray x.shelfTime entry.startTimeout) x
  have good := trayGood_enters (r := r) ht (vget_editTray ht (acknowledgedTray x.shelfTime entry.startTimeout) x)
    starting x.shelfTime
  have instant : (if (x.shelfTime - r.enableTime).toNat < 2147483648 then x.shelfTime - r.enableTime else 0) = 0 := by
    rw [show r.enableTime = x.shelfTime from rfl, BitVec.sub_self]
    exact if_pos (by decide)
  rw [instant] at good
  rw [startAcknowledged_eq used, if_pos lit]
  exact untold.enters good

end Outcome

/-! ### O59 -/

/-- The start timer of a STARTING tray that has expired makes the tray FAULT (R95, R96). -/
theorem startExpiry_opening {e : Ambient} {t : Nat} {s : State} (starting : trayState s.toShelf t = .starting)
    (due : expired (s.shelfTime + e.elapsed) (vget s.bay.trays t).startTimer = true) :
    startExpiry t (opening e s).toShelf = faultTray t .noGood (opening e s).toShelf :=
  if_pos (Bool.and_eq_true_iff.mpr ⟨decide_eq_true starting, due⟩)

/-- Settles O59: each event is one move of the tray's record, from the record as it was or from one that differs in
output-seen alone. -/
theorem trayRecordsFollow : Obligations.TrayRecordsFollow := by
  refine ⟨fun e t s starting due => ⟨congrArg Host.Outcome.next (event_acts (startExpiry_opening starting due)), ?_⟩,
    fun x => by simp [adoptionComplete_eq], fun x t entry ht used => ?_⟩
  · have start : (vget (opening e s).toShelf.bay.trays t).state = .starting := starting
    obtain ⟨⟨record, told⟩, -⟩ := faultTray_faulted t.isLt rfl (by rw [start]; decide) .noGood
    dsimp only
    rw [record]
    exact ⟨rfl, rfl, rfl, rfl, told.1⟩
  refine ⟨fun code o => trayOutcome_unawaited o, fun starting on => ?_, fun stops off => ?_, fun word time => ?_,
    fun rising time => trayLineEdge_spec ht rising time x, ?_⟩
  · have acts := fun o => (trayOutcome_awaited used (code := 0x01) o (by rw [on]; decide) (by rw [on]; rfl)).1 starting
    have ok : trayOutcome t 0x01 (.ack 0x00) x = startAcknowledged t x := (acts _).trans (if_pos rfl)
    refine ⟨fun dark => ?_, fun lit => ok ▸ startAcknowledged_lit ht used starting lit,
      fun o cause fails => failed_faulted ht (acts o) fails (by rw [starting]; decide)⟩
    rw [ok, startAcknowledged_eq used, if_neg (by rw [dark]; decide)]
    rfl
  · have acts := fun o => (trayOutcome_awaited used (code := 0x02) o (by rw [off]; decide) (by rw [off]; rfl)).2
    obtain state | state := stops
    · have moves := fun o => (acts o).1 state
      refine ⟨?_, fun o cause fails => failed_faulted ht (moves o) fails (by rw [state]; decide)⟩
      rw [(moves (.ack 0x00)).trans (if_pos rfl), if_pos state]
      exact trayTo_enters _ ht (by rw [state]; decide) (by decide) (by decide)
    · have moves := fun o => (acts o).2 state
      refine ⟨?_, fun o cause fails => failed_faulted ht (moves o) fails (by rw [state]; decide)⟩
      rw [(moves (.ack 0x00)).trans (if_pos rfl), if_neg (by rw [state]; decide)]
      exact trayTo_enters _ ht (by rw [state]; decide) (by decide) (by decide)
  · have kept := setSeen_kept (wordSeen word) ht x
    obtain ⟨-, -, -, stays⟩ := trayStatus_cases ht word time x
    refine ⟨trayStatus_handed ht word time, trayStatus_adopts ht word time, fun starting => ?_, fun on => ?_,
      fun a b c => ?_⟩
    · obtain ⟨good, same⟩ := trayStatus_starting ht word time starting
      refine ⟨good, fun quiet => ?_⟩
      rw [same quiet]
      exact kept
    · obtain ⟨same, lost⟩ := trayStatus_on ht word time on
      refine ⟨fun ready => ?_, lost⟩
      rw [same ready]
      exact kept
    · rw [stays a b c]
      exact kept
  · obtain ⟨leaves, fails, stays⟩ := trayAbsent_spec ht x
    refine ⟨trayAbsent_handed ht, leaves, fails, fun a b c d => ?_⟩
    rw [stays a b c d]
    exact setSeen_kept .unknown ht x

end Sys2Proof.Machine
end


section
/-! PROOF. The Program Sequencer (O60): steps by kind and their completion (R110 to R115), its timers and its holding
(R113, R114, R116), the shelf stop (R119) and autostart (R120). -/

namespace Sys2Proof.Machine

/-! ### Halts and the completion of a step (R110, R115) -/

/-- A sequencer record halted at a step, IDLE with its timers STOPPED (R115; log entry 62). -/
def haltedSeq (cause : HaltCause) (source : Nat) (q : Sequencer) : Sequencer :=
  { q with
    state := .idle, pointer := none, stepTimer := .stopped, delayTimer := .stopped
    outcome := some (.halted cause source) }

/-- A halt is a change of the sequencer record and a notice (R115). -/
theorem haltRun_eq (cause : HaltCause) (source word : Nat) (x : Shelf) :
    haltRun cause source word x = { x with
      seq := haltedSeq cause source x.seq
      notices := offerNotice
        { time := x.shelfTime, source := 7, index := source, code := 12, more := false
          word1 := haltCauseNumber cause, word2 := word } x.notices } := rfl

/-- The record of a step that completes, before the step it names is looked at (R110, R114). -/
def completedSeq (q : Sequencer) : Sequencer :=
  { q with state := .running, runCount := q.runCount + 1, stepTimer := .stopped, delayTimer := .stopped }

/-- A completion halts with LOOP at the 32nd of one walk, enters the step it names where that is in use, and halts with
BAD-STEP where it is not (R110, R115). -/
theorem completeStep_eq (n : Nat) (x : Shelf) :
    let s := { x with seq := completedSeq x.seq }
    completeStep n x =
      if 31 ≤ x.seq.runCount then haltRun .loop (x.seq.pointer.getD 0) n s
      else if (stepAt x n).isSome then emit (.seqEnter n) s
      else haltRun .badStep (x.seq.pointer.getD 0) n s := by
  have limit : (Config.loopLimit ≤ x.seq.runCount + 1) = (31 ≤ x.seq.runCount) :=
    propext (Nat.add_le_add_iff_right (n := 1))
  unfold completeStep
  simp only [limit]
  rfl

/-! ### The condition of a waiting step (R113) -/

theorem stepCondition_iff (x : Shelf) (entry : StepEntry) : stepCondition x entry = true ↔ StepHolds x entry := by
  unfold stepCondition StepHolds
  cases entry.kind with
  | awaitTrays =>
    refine ⟨fun all t ht bit used => ?_, fun each => List.all_eq_true.mpr fun t mem => ?_⟩
    · have waits := List.all_eq_true.mp all t (List.mem_filter.mpr ⟨List.mem_range.mpr ht, bit⟩)
      simpa [Option.isSome_iff_ne_none.mp used] using waits
    · obtain ⟨ht, bit⟩ := List.mem_filter.mp mem
      cases entry : trayAt x t with
      | none => rfl
      | some e => simpa using each t (List.mem_range.mp ht) bit (by rw [entry]; rfl)
  | awaitHeadroom => simp
  | awaitEnergy => simp
  | delay => simp
  | start => simp
  | branchZone => simp
  | finish => simp

/-! ### Waiting (R113, R114, R116) -/

section Waiting

variable {x : Shelf} {n : Nat} {entry : StepEntry}

theorem waitingStep_at (waiting : x.seq.state = .waiting) (pointer : x.seq.pointer = some n)
    (step : stepAt x n = some entry) : waitingStep x = some entry := by
  rw [waitingStep, if_pos waiting, pointer]
  exact step

/-- A sequencer that does not wait has nothing to test. -/
theorem testStep_idle (other : x.seq.state ≠ .waiting) : testStep x = x := by
  rw [testStep, waitingStep, if_neg other]

/-- A waiting step completes with next where its condition holds, but for DELAY (R113). -/
theorem testStep_at (waiting : x.seq.state = .waiting) (pointer : x.seq.pointer = some n)
    (step : stepAt x n = some entry) :
    testStep x = if entry.kind ≠ .delay ∧ stepCondition x entry = true then completeStep entry.next x else x := by
  rw [testStep, waitingStep_at waiting pointer step]

/-- The timer of a waiting step, in microseconds (R114). -/
theorem timerFor_eq (now : Time) (ms : Nat) :
    timerFor now ms = if ms = 0 then .stopped else .running (now + BitVec.ofNat 32 (1000 * ms)) := by
  rw [timerFor, msTime, Nat.mul_comm]

/-- The record of a step that waits, with the timer of its kind (R113, R114). -/
def waitingSeq (now : Time) (entry : StepEntry) (q : Sequencer) : Sequencer :=
  { q with
    state := .waiting, runCount := 0
    stepTimer := if entry.kind = .delay then .stopped else timerFor now entry.timeout
    delayTimer := if entry.kind = .delay then timerFor now entry.argument else .stopped }

theorem waitAt_eq (entry : StepEntry) (x : Shelf) :
    let s := { x with seq := waitingSeq x.shelfTime entry x.seq }
    waitAt entry x = if x.ride.state = .normal then s else holdSequencer s := by
  unfold waitAt
  simp only [rideNormal, decide_eq_true_eq]
  rfl

/-- The event of a timer of the waiting step: the step completes with the step that the timer names. -/
theorem timerEvent_completes {e : Ambient} {s : State} (waiting : s.seq.state = .waiting) (pointer : s.seq.pointer = some n)
    (step : stepAt s.toShelf n = some entry) :
    stepExpiry (opening e s).toShelf = completeStep entry.alternate (opening e s).toShelf ∧
      delayExpiry (opening e s).toShelf = completeStep entry.next (opening e s).toShelf := by
  have found : waitingStep (opening e s).toShelf = some entry := waitingStep_at waiting pointer step
  unfold stepExpiry delayExpiry
  rw [found]
  exact ⟨rfl, rfl⟩

end Waiting

/-! ### Entering a step (R110 to R114) -/

/-- The state in which a step is entered and counted, before it is carried out (R110). -/
def enteredAt (n : Nat) (x : Shelf) : Shelf :=
  { x with
    seq := { x.seq with
      state := .running, pointer := some n, stepsTaken := min (x.seq.stepsTaken + 1) 65535 } }

section Enter

variable {x : Shelf} {n : Nat} {entry : StepEntry} (step : stepAt x n = some entry)
include step

/-- A step is carried out by its kind in the state in which it is counted. -/
theorem enterStep_at : enterStep n x =
    match entry.kind with
    | .start => emit (.seqStart (traysOfSet entry.traySet)) (enteredAt n x)
    | .branchZone =>
      completeStep (if zoneWet (enteredAt n x) entry.argument then entry.alternate else entry.next) (enteredAt n x)
    | .finish => endRun n (enteredAt n x)
    | .awaitTrays | .awaitHeadroom | .awaitEnergy | .delay =>
      if stepCondition (enteredAt n x) entry then completeStep entry.next (enteredAt n x)
      else waitAt entry (enteredAt n x) := by
  rw [enterStep, step]
  rfl

/-- START asks for the trays of its set (R111). -/
theorem enterStep_start (kind : entry.kind = .start) :
    enterStep n x = emit (.seqStart (traysOfSet entry.traySet)) (enteredAt n x) := by
  rw [enterStep_at step, kind]

/-- BRANCH-ZONE completes by its zone (R112). -/
theorem enterStep_branch (kind : entry.kind = .branchZone) :
    enterStep n x = completeStep
      (if (zoneAt x entry.argument).isSome ∧ (vget x.zones entry.argument).state = .wet then entry.alternate
        else entry.next) (enteredAt n x) := by
  have wet : (zoneWet (enteredAt n x) entry.argument = true) =
      ((zoneAt x entry.argument).isSome ∧ (vget x.zones entry.argument).state = .wet) :=
    propext (zoneWet_iff (enteredAt n x) entry.argument)
  rw [enterStep_at step, kind]
  simp only [wet]

/-- END ends the run (R112, R115). -/
theorem enterStep_finish (kind : entry.kind = .finish) : enterStep n x = endRun n (enteredAt n x) := by
  rw [enterStep_at step, kind]

/-- A step of a waiting kind completes where its condition holds, and waits where it does not (R113). -/
theorem enterStep_waiting
    (kind : entry.kind = .awaitTrays ∨ entry.kind = .awaitHeadroom ∨ entry.kind = .awaitEnergy ∨ entry.kind = .delay) :
    enterStep n x =
      if stepCondition x entry = true then completeStep entry.next (enteredAt n x) else waitAt entry (enteredAt n x) := by
  have same : stepCondition (enteredAt n x) entry = stepCondition x entry := rfl
  rw [← same, enterStep_at step]
  obtain kind | kind | kind | kind := kind <;> rw [kind]

/-- A step whose condition holds completes with next (R113). -/
theorem enterStep_holds (holds : StepHolds x entry) : enterStep n x = completeStep entry.next (enteredAt n x) := by
  have kind : entry.kind = .awaitTrays ∨ entry.kind = .awaitHeadroom ∨ entry.kind = .awaitEnergy ∨
      entry.kind = .delay := by
    unfold StepHolds at holds
    cases kind : entry.kind <;> simp [kind] at holds ⊢
  rw [enterStep_waiting step kind, if_pos ((stepCondition_iff x entry).mpr holds)]

/-- A step whose condition does not hold waits (R113, R114; log entry 39). -/
theorem enterStep_waits
    (kind : entry.kind = .awaitTrays ∨ entry.kind = .awaitHeadroom ∨ entry.kind = .awaitEnergy ∨ entry.kind = .delay)
    (fails : ¬StepHolds x entry) : enterStep n x = waitAt entry (enteredAt n x) := by
  rw [enterStep_waiting step kind, if_neg (mt (stepCondition_iff x entry).mp fails)]

end Enter

/-! ### Runs that start (R117, R120) -/

/-- The record with which a run starts (R117, R120). -/
def startedSeq (entry : Nat) (origin : Origin) (q : Sequencer) : Sequencer :=
  { q with
    state := .running, entry := some entry, origin := some origin, runCount := 0
    stepsTaken := 0, outcome := none, autostart := none }

/-- A run enters its entry step, or halts at once with BAD-STEP where that is not in use. -/
theorem startRun_eq (n : Nat) (origin : Origin) (x : Shelf) :
    let s := { x with seq := startedSeq n origin x.seq }
    startRun n origin x = if (stepAt x n).isSome then emit (.seqEnter n) s else haltRun .badStep n n s := rfl

theorem autostartCondition_iff (x : Shelf) : autostartCondition x = true ↔
    (∀ t < 24, (trayAt x t).isSome → trayState x t ≠ .unknown) ∧ x.ride.state = .normal ∧ x.shelfStop = false ∧
      x.seq.state = .idle := by
  simp [autostartCondition, adoptionComplete_eq, rideNormal, and_assoc]

/-- Without a pending autostart, or while its condition fails, the test does nothing (R120). -/
theorem autostartTest_waits {x : Shelf} (h : x.seq.autostart = none ∨ autostartCondition x = false) :
    autostartTest x = x := by
  unfold autostartTest
  split
  case h_1 n pending =>
    obtain none | fails := h
    · rw [none] at pending
      cases pending
    · exact if_neg (by rw [fails]; decide)
  case h_2 => rfl

theorem autostartTest_starts {x : Shelf} {n : Nat} (pending : x.seq.autostart = some n)
    (condition : autostartCondition x = true) : autostartTest x = startRun n .autostart x := by
  rw [autostartTest, pending]
  exact if_pos condition

/-! ### START (R111) -/

/-- A START step whose trays have all been asked for completes (R111). -/
theorem startTrays_nil {x : Shelf} {n : Nat} {entry : StepEntry} (running : x.seq.state = .running)
    (pointer : x.seq.pointer = some n) (step : stepAt x n = some entry) : startTrays [] x = completeStep entry.next x := by
  have found : x.seq.pointer.bind (stepAt x) = some entry := by
    rw [pointer]
    exact step
  rw [startTrays, if_neg (not_not.mpr running)]
  simp only [found]

/-- An admission request takes an OFF tray to QUEUED at the tail of the start queue, and asks for an evaluation (R92,
R93). -/
theorem requestAdmission_spec {t : Nat} {x : Shelf} (origin : QueuedBy) (ht : t < 24) (used : (trayAt x t).isSome)
    (off : trayState x t = .off) :
    let y := requestAdmission t origin x
    vget y.bay.trays t = { vget x.bay.trays t with
      state := .queued, fault := none, queuedBy := some origin, stateTime := x.shelfTime } ∧
    (t ∉ x.bay.queue → y.bay.queue = x.bay.queue ++ [t]) ∧ y.admitDue = true ∧ TrayTold t x y := by
  let f := fun r : Tray => { r with queuedBy := some origin }
  have moves : (vget x.bay.trays t).state ≠ .queued := fun queued => absurd (off.symm.trans queued) (by decide)
  dsimp only
  rw [requestAdmission_off used off]
  refine ⟨vget_trayTo_self .queued f x ht, fun absent => ?_, admitDue_afterTray_lists _ _ _ _ (.inl rfl),
    trayTo_told .queued f x ht moves⟩
  rw [trayTo_bay, queue_moveTray_queued _ _ _ ht, if_neg absent]

/-! ### Holding and resuming (R116) -/

/-- A HELD sequencer that finds NORMAL waits again, its timers running on, and tests its condition (R116). -/
theorem resumeSequencer_normal {x : Shelf} (held : x.seq.state = .held) (normal : x.ride.state = .normal) :
    resumeSequencer x = testStep { x with
      seq := { x.seq with
        state := .waiting, stepTimer := thaw x.shelfTime x.seq.stepTimer
        delayTimer := thaw x.shelfTime x.seq.delayTimer } } :=
  if_pos ⟨held, decide_eq_true normal⟩

theorem resumeSequencer_stays {x : Shelf} (h : x.seq.state ≠ .held ∨ x.ride.state ≠ .normal) : resumeSequencer x = x := by
  refine if_neg fun both => ?_
  obtain ⟨held, normal⟩ := both
  exact h.elim (· held) (· (of_decide_eq_true normal))

/-! ### O60 -/

/-- Settles O60: a completion by its count and the step it names, an entry by the step's kind, and the timers, the ride
state, the shelf stop and autostart by what each does with the waiting step or the run. -/
theorem programStepsAndTimers : Obligations.ProgramStepsAndTimers := by
  refine ⟨fun e s n entry waiting pointer step => ?_, fun e s => rfl,
    fun x => ⟨autostartCondition_iff x, autostartTest_waits, fun n pending condition => ?_⟩,
    fun x n entry step => ?_, fun x n entry trays running pointer step => ?_, fun x t origin ht => ?_, fun x => ?_,
    fun x => ?_, fun x n => ?_⟩
  · obtain ⟨alternate, next⟩ := timerEvent_completes (e := e) waiting pointer step
    exact ⟨fun due => congrArg Host.Outcome.next (event_acts ((if_pos due).trans alternate)),
      fun due => congrArg Host.Outcome.next (event_acts ((if_pos due).trans next))⟩
  · have starts := (autostartTest_starts pending condition).trans (startRun_eq n .autostart x)
    refine ⟨fun used => starts.trans (if_pos used), fun unused => starts.trans (if_neg ?_)⟩
    rw [unused]
    nofun
  · refine ⟨enterStep_start step, enterStep_branch step, enterStep_finish step, enterStep_holds step,
      fun kind fails => ?_⟩
    have waits := (enterStep_waits step kind fails).trans (waitAt_eq entry (enteredAt n x))
    simp only [← timerFor_eq]
    exact ⟨fun normal => waits.trans (if_pos normal), fun other => waits.trans (if_neg other)⟩
  · exact ⟨startTrays_nil running pointer step, fun t => if_neg (not_not.mpr running)⟩
  · refine ⟨requestAdmission_spec origin ht, fun h => if_neg fun both => ?_⟩
    obtain ⟨used, off⟩ := both
    obtain unused | other := h
    · rw [unused] at used
      cases used
    · exact other off
  · refine ⟨fun waiting => if_pos waiting, fun other => if_neg other, resumeSequencer_stays,
      fun held normal n entry pointer step => ?_, stepCondition_iff x, testStep_idle,
      fun waiting n entry pointer step => ⟨fun kind holds => ?_, fun rests => ?_⟩⟩
    · exact (resumeSequencer_normal held normal).trans (testStep_at rfl pointer step)
    · exact (testStep_at waiting pointer step).trans (if_pos ⟨kind, (stepCondition_iff x entry).mpr holds⟩)
    · refine (testStep_at waiting pointer step).trans (if_neg fun both => ?_)
      exact rests.elim both.1 (· ((stepCondition_iff x entry).mp both.2))
  · exact ⟨fun idle => if_pos idle, fun runs => if_neg runs, fun cause source word => haltRun_eq cause source word x⟩
  · have completes := completeStep_eq n x
    refine ⟨fun short used => ?_, fun short unused => ?_, fun long => completes.trans (if_pos long)⟩
    · exact completes.trans ((if_neg (Nat.not_le.mpr short)).trans (if_pos used))
    · refine completes.trans ((if_neg (Nat.not_le.mpr short)).trans (if_neg ?_))
      rw [unused]
      nofun

end Sys2Proof.Machine
end


section
/-! PROOF. What NORMAL alone allows (O14, R116, R170), as one more property that every kind of change of an event keeps
(`ClosedEvent`). -/

namespace Sys2Proof.Machine

/-- Outside NORMAL neither a restart is pending nor the sequencer WAITING. -/
theorem noWork_of_ride {s : Shelf} (work : NormalWork s) (ride : s.ride.state ≠ .normal) :
    s.restart = none ∧ s.seq.state ≠ .waiting := by
  obtain ⟨restart, waiting⟩ := work
  exact ⟨not_not.mp fun pending => ride (restart pending), fun waits => ride (waiting waits)⟩

/-- Where neither a restart is pending nor the sequencer WAITING, any ride state will do. -/
theorem normalWork_of_noWork {s : Shelf} (restart : s.restart = none) (waiting : s.seq.state ≠ .waiting) :
    NormalWork s :=
  ⟨fun pending => absurd restart pending, fun waits => absurd waits waiting⟩

/-- A restart becomes pending, and the sequencer WAITING, in NORMAL alone; and NORMAL is left with neither. -/
theorem closedEvent_normalWork : ClosedEvent NormalWork where
  free _ work := work
  links _ _ _ work := work
  polls _ _ _ _ work := work
  balance _ _ work := work
  bay _ _ work := work
  ride {s} r _ _ change work := by
    obtain ⟨restart, waiting⟩ := work
    obtain same | normal | ⟨noRestart, noWaiting⟩ := change
    · exact ⟨fun pending => same.trans (restart pending), fun waits => same.trans (waiting waits)⟩
    · exact ⟨fun _ => normal, fun _ => normal⟩
    · exact normalWork_of_noWork (s := { s with ride := r }) noRestart noWaiting
  seq q waits work := by
    obtain ⟨restart, waiting⟩ := work
    exact ⟨restart, fun now => (waits now).elim waiting id⟩
  restart x pending work := by
    obtain ⟨restart, waiting⟩ := work
    exact ⟨fun now => restart (pending now), waiting⟩
  rideOn {s} r ride _ _ work := by
    obtain ⟨restart, waiting⟩ := noWork_of_ride work ride
    exact normalWork_of_noWork (s := { s with ride := r }) restart waiting
  clock _ _ work := work
  tables _ work := work
  rx _ _ work := work
  pend normal work := by
    obtain ⟨-, waiting⟩ := work
    exact ⟨fun _ => normal, waiting⟩
  reset kind _ := by cases kind <;> exact ⟨fun _ => rfl, fun _ => rfl⟩

/-- Settles O14: RESTART is taken and a step waits in NORMAL alone, and a change of the ride state that leaves NORMAL has
dropped the restart and held the sequencer first (`ClosedEvent.rideTo`). -/
theorem normalWorkKept : Obligations.NormalWorkKept := fun c _ _ work next =>
  closedEvent_normalWork.exec c work next

end Sys2Proof.Machine
end


section
/-! PROOF. The requests for runs: RUN-PROGRAM and ABORT-PROGRAM (O33, R117, R118). -/

namespace Sys2Proof.Machine

/-! ### RUN-PROGRAM (R117) -/

section Run

variable {n : Nat} {x : Shelf}

theorem requestRun_high (high : 31 < n) : requestRun n x = (stInvalid, x) := if_pos high

theorem requestRun_ride (low : n ≤ 31) (ride : x.ride.state ≠ .normal) : requestRun n x = (stRide, x) := by
  simp [requestRun, rideNormal, Nat.not_lt.mpr low, ride]

theorem requestRun_runs (low : n ≤ 31) (normal : x.ride.state = .normal) (runs : x.seq.state ≠ .idle) :
    requestRun n x = (stBusy, x) := by
  simp [requestRun, rideNormal, Nat.not_lt.mpr low, normal, runs]

theorem requestRun_stopped (low : n ≤ 31) (normal : x.ride.state = .normal) (idle : x.seq.state = .idle)
    (stop : x.shelfStop = true) : requestRun n x = (stBusy, x) := by
  simp [requestRun, rideNormal, Nat.not_lt.mpr low, normal, idle, stop]

/-- With the tests on the part's state passed, the entry step decides. -/
theorem requestRun_free (low : n ≤ 31) (normal : x.ride.state = .normal) (idle : x.seq.state = .idle)
    (free : x.shelfStop = false) :
    requestRun n x = if (stepAt x n).isNone then (stNoEntry, x) else (stStarted, startRun n .request x) := by
  simp [requestRun, rideNormal, Nat.not_lt.mpr low, normal, idle, free]

/-- A run whose entry step is in use enters it, its record set. -/
theorem startRun_used {origin : Origin} (used : (stepAt x n).isSome) :
    startRun n origin x = emit (.seqEnter n) { x with seq := startedSeq n origin x.seq } :=
  (startRun_eq n origin x).trans (if_pos used)

theorem requestRun_starts (low : n ≤ 31) (normal : x.ride.state = .normal) (idle : x.seq.state = .idle)
    (free : x.shelfStop = false) (used : (stepAt x n).isSome) :
    requestRun n x = (stStarted, emit (.seqEnter n) { x with seq := startedSeq n .request x.seq }) := by
  rw [requestRun_free low normal idle free, if_neg (by simpa using Option.isSome_iff_ne_none.mp used),
    startRun_used used]

end Run

/-! ### ABORT-PROGRAM (R118) -/

/-- An abort withdraws the trays queued by PROGRAM in queue order, and then halts at the pointer (R118). -/
theorem abortRun_eq (cause : HaltCause) (x : Shelf) :
    abortRun cause x = emitAll
      ((programTrays x).map Task.withdraw ++ [.seqHalt cause (x.seq.pointer.getD 0) (programTrays x).length]) x := by
  simp [abortRun, emit, emitAll]

/-! ### The commands -/

section Commands

variable (e : Ambient) {s : State} (calm : Calm s)
include calm

theorem exec_runProgram_refused {step status : Byte}
    (given : requestRun step.toNat (heard e s).toShelf = (status, (heard e s).toShelf)) :
    exec (.runProgram e step) s = .next (answered rqRunProgram status [] (heard e s)) :=
  congrArg Host.Outcome.next
    (request_refused e calm (f := requestRun step.toNat) (by simp) rfl (fun _ => rfl) given)

theorem exec_runProgram_starts {step : Byte} {g : Shelf → Shelf}
    (given : requestRun step.toNat (heard e s).toShelf = (stStarted, g (heard e s).toShelf)) :
    exec (.runProgram e step) s = .next (closing (told rqRunProgram stStarted [] (onShelf g (heard e s)))) :=
  congrArg Host.Outcome.next
    (request_decided e calm.1 (f := requestRun step.toNat) (by simp) rfl (fun _ => rfl) given)

theorem exec_abortProgram_idle (idle : s.seq.state = .idle) :
    exec (.abortProgram e) s = .next (answered rqAbortProgram stInvalid [] (heard e s)) :=
  congrArg Host.Outcome.next
    (request_refused e calm (f := requestAbort) (by simp) rfl (fun _ => rfl) (if_pos idle))

theorem exec_abortProgram_aborts (runs : s.seq.state ≠ .idle) {g : Shelf → Shelf}
    (given : abortRun .abort (heard e s).toShelf = g (heard e s).toShelf) :
    exec (.abortProgram e) s = .next (closing (told rqAbortProgram stDone [] (onShelf g (heard e s)))) := by
  refine congrArg Host.Outcome.next
    (request_decided e calm.1 (f := requestAbort) (by simp) rfl (fun _ => rfl) ?_)
  rw [← given]
  exact if_neg runs

end Commands

/-- Settles O33: each request by the first test of R117 or R118 that holds, in the state in which it is heard, whose ride
state, sequencer, shelf stop and start queue are those of the state before. -/
theorem programRequestsDecided : Obligations.ProgramRequestsDecided := by
  refine ⟨fun e step s calm => ⟨fun high => ?_, fun low => ⟨fun ride => ?_, fun normal => ⟨fun runs => ?_, fun idle =>
    ⟨fun stop => ?_, fun free => ⟨fun unused => ?_, fun used => ?_⟩⟩⟩⟩⟩,
    fun e s calm => ⟨exec_abortProgram_idle e calm, fun runs => ?_⟩⟩
  · exact exec_runProgram_refused e calm (requestRun_high high)
  · exact exec_runProgram_refused e calm (requestRun_ride low ride)
  · exact exec_runProgram_refused e calm (requestRun_runs low normal runs)
  · exact exec_runProgram_refused e calm (requestRun_stopped low normal idle stop)
  · refine exec_runProgram_refused e calm
      ((requestRun_free (x := (heard e s).toShelf) low normal idle free).trans (if_pos ?_))
    rw [unused]
    rfl
  · exact exec_runProgram_starts e calm
      (g := fun x => emit (.seqEnter step.toNat) { x with seq := startedSeq step.toNat .request x.seq })
      (requestRun_starts low normal idle free used)
  · exact exec_abortProgram_aborts e calm runs (abortRun_eq .abort (heard e s).toShelf)

end Sys2Proof.Machine
end

section
/-! PROOF. The Leak Zone Unit (O57): the record that an evaluation gives (R126 to R128), what a change of a zone's state
hands on (R129 to R131), the states of points (R124, R125), CLEAR-ZONE (R132) and the apply of a Zones entry (R135). -/

namespace Sys2Proof.Machine

/-! ### The record an evaluation gives (R126 to R128) -/

theorem zoneNext_wet {state : ZoneState} (wet unknown confirmCount : Nat) (was : state = .wet) :
    zoneNext state wet unknown confirmCount = .wet := by
  rw [was]
  rfl

/-- Outside WET the counts alone decide (R126). -/
theorem zoneNext_of_ne_wet {state : ZoneState} (wet unknown confirmCount : Nat) (other : state ≠ .wet) :
    zoneNext state wet unknown confirmCount =
      if confirmCount ≤ wet then .wet else if wet = 0 ∧ unknown = 0 then .dry else .suspect := by
  cases state with
  | dry => rfl
  | suspect => rfl
  | wet => exact absurd rfl other

section Evaluation

variable (entry : ZoneEntry) (points : List PointState) (now : Time) (z : Zone)

theorem evaluateZone_state :
    (evaluateZone entry points now z).state =
      zoneNext z.state (countPoints .wet points) (countPoints .unknown points) entry.confirmCount := rfl

/-- The latch takes the time of an entry to WET (R129). -/
theorem evaluateZone_latch :
    (evaluateZone entry points now z).latch =
      if z.state ≠ .wet ∧ (evaluateZone entry points now z).state = .wet then now else z.latch := rfl

/-- The epoch moves with the state and the two counts (R126). -/
theorem evaluateZone_epoch :
    let y := evaluateZone entry points now z
    y.epoch = if y.state = z.state ∧ y.wet = z.wet ∧ y.unknown = z.unknown then z.epoch else z.epoch + 1 := by
  intro y
  have moved : y.epoch = if (y.state ≠ z.state || y.wet ≠ z.wet || y.unknown ≠ z.unknown) = true
      then z.epoch + 1 else z.epoch := rfl
  rw [moved]
  by_cases same : y.state = z.state ∧ y.wet = z.wet ∧ y.unknown = z.unknown
  · obtain ⟨state, wet, unknown⟩ := same
    simp [state, wet, unknown]
  · rw [if_neg same, if_pos]
    simpa [or_assoc, imp_iff_not_or] using same

/-- The first wet point outside WET (R127, R128). -/
abbrev WetRises : Prop := z.state ≠ .wet ∧ z.wet = 0 ∧ 0 < countPoints .wet points

theorem wetRises_iff :
    (z.state ≠ .wet && z.wet = 0 && 0 < countPoints .wet points) = true ↔ WetRises points z := by
  simp [WetRises, and_assoc]

theorem evaluateZone_firstWet :
    (evaluateZone entry points now z).firstWet = if WetRises points z then now else z.firstWet :=
  if_congr (wetRises_iff points z) rfl rfl

theorem evaluateZone_timer :
    let y := evaluateZone entry points now z
    y.timer =
      if y.state ≠ .suspect ∨ y.wet = 0 then .stopped
      else if ¬WetRises points z then z.timer
      else if entry.confirmTime = 0 then .stopped
      else .running (now + msTime entry.confirmTime) := by
  simp only [← wetRises_iff, Bool.not_eq_true, ← Bool.not_eq_true']
  rfl

end Evaluation

/-- An evaluation by state (R126, R129). -/
theorem evaluateZone_judged (entry : ZoneEntry) (points : List PointState) (now : Time) (z : Zone) :
    let y := evaluateZone entry points now z
    (z.state = .wet → y.state = .wet ∧ y.latch = z.latch) ∧
    (z.state ≠ .wet → entry.confirmCount ≤ y.wet → y.state = .wet ∧ y.latch = now) ∧
    (z.state ≠ .wet → y.wet < entry.confirmCount →
      y.latch = z.latch ∧ (y.wet = 0 → y.unknown = 0 → y.state = .dry) ∧
        (0 < y.wet ∨ 0 < y.unknown → y.state = .suspect)) := by
  intro y
  have state := evaluateZone_state entry points now z
  have latch := evaluateZone_latch entry points now z
  have next : z.state ≠ .wet → y.state = if entry.confirmCount ≤ y.wet then .wet
      else if y.wet = 0 ∧ y.unknown = 0 then .dry else .suspect :=
    fun other => state.trans (zoneNext_of_ne_wet _ _ _ other)
  refine ⟨fun was => ⟨state.trans (zoneNext_wet _ _ _ was), ?_⟩, fun other enough => ?_, fun other few => ?_⟩
  · exact latch.trans (if_neg fun h => h.1 was)
  · have wet : y.state = .wet := (next other).trans (if_pos enough)
    exact ⟨wet, latch.trans (if_pos ⟨other, wet⟩)⟩
  · have counted := (next other).trans (if_neg (Nat.not_le.mpr few))
    refine ⟨latch.trans (if_neg fun h => ?_), fun dry known => ?_, fun some => ?_⟩
    · rw [counted] at h
      split at h <;> exact absurd h.2 nofun
    · rw [counted, if_pos ⟨dry, known⟩]
    · rw [counted, if_neg (by omega)]

/-- The confirm timer of an evaluation (R127). -/
theorem evaluateZone_timed (entry : ZoneEntry) (points : List PointState) (now : Time) (z : Zone) :
    let y := evaluateZone entry points now z
    (y.state ≠ .suspect ∨ y.wet = 0 → y.timer = .stopped) ∧
    (y.state = .suspect → WetRises points z → entry.confirmTime ≠ 0 →
      y.timer = .running (now + msTime entry.confirmTime)) ∧
    (y.state = .suspect → WetRises points z → entry.confirmTime = 0 → y.timer = .stopped) ∧
    (y.state = .suspect → 0 < y.wet → 0 < z.wet → y.timer = z.timer) := by
  intro y
  have timer := evaluateZone_timer entry points now z
  have runs : y.state = .suspect → 0 < y.wet → ¬(y.state ≠ .suspect ∨ y.wet = 0) :=
    fun suspect wet h => h.elim (absurd suspect) (Nat.ne_of_gt wet)
  have starts : y.state = .suspect → WetRises points z →
      y.timer = if entry.confirmTime = 0 then .stopped else .running (now + msTime entry.confirmTime) := by
    intro suspect rises
    have ⟨_, _, wet⟩ := rises
    rw [timer, if_neg (runs suspect wet), if_neg (not_not_intro rises)]
  exact ⟨fun idle => timer.trans (if_pos idle), fun suspect rises on => (starts suspect rises).trans (if_neg on),
    fun suspect rises off => (starts suspect rises).trans (if_pos off), fun suspect wet wetBefore =>
      (timer.trans (if_neg (runs suspect wet))).trans (if_pos fun ⟨_, unwet, _⟩ => Nat.ne_of_gt wetBefore unwet)⟩

/-! ### A change of a zone's state (R129 to R131) -/

/-- What a change hands on: its notice, locks at an entry to WET, releases on leaving it, and the drive lines. -/
theorem tellZone_eq (z : Nat) {old new : ZoneState} (cause : ZoneCause) (x : Shelf) (moves : old ≠ new) :
    tellZone z old new cause x = { x with
      notices := (zoneNotice z old new cause x).notices
      raised :=
        if new = .wet then x.raised ++ (zoneTrays x z).map Task.lockTray
        else if old = .wet then x.raised ++ (zoneTrays x z).map Task.releaseTray
        else x.raised
      drives := if old = .wet ∨ new = .wet then (setDrives x).drives else x.drives } := by
  by_cases enters : new = .wet
  · subst enters
    simp only [tellZone, moves, false_and, or_true, if_true, if_false]
    rfl
  · by_cases leaves : old = .wet
    · simp only [tellZone, ne_eq, leaves, enters, not_false_eq_true, and_self, true_or, if_true, if_false]
      rfl
    · simp only [tellZone, leaves, enters, false_and, or_self, if_false]
      rfl

section Moves

variable {z : Nat} (cause : ZoneCause) {f : Zone → Zone} {x : Shelf} {new : Zone}

theorem putZone_stays (takes : f (vget x.zones z) = new) (same : (vget x.zones z).state = new.state) :
    putZone z cause f x = { x with zones := vset x.zones z new } := by
  subst takes
  exact (putZone_eq z cause f x).trans (if_pos same)

/-- A record of another state is taken, posted with its cause and handed on (R129, R130, R131). -/
theorem putZone_moves (hz : z < 8) (takes : f (vget x.zones z) = new) (moves : (vget x.zones z).state ≠ new.state) :
    let old := vget x.zones z
    let y := putZone z cause f x
    y = { x with
      zones := vset x.zones z new
      notices := offerNotice
        { time := x.shelfTime, source := 8, index := z, code := 9, more := false
          word1 := twoItems (zoneStateNumber old.state) (zoneStateNumber new.state)
          word2 := twoItems new.epoch.toNat (zoneCauseNumber cause) } x.notices
      raised :=
        if new.state = .wet then x.raised ++ (zoneTrays x z).map Task.lockTray
        else if old.state = .wet then x.raised ++ (zoneTrays x z).map Task.releaseTray
        else x.raised
      drives := y.drives } ∧
    (old.state = .wet ∨ new.state = .wet → ∀ d < 8, vget y.drives d = driveLevel y d) ∧
    (¬(old.state = .wet ∨ new.state = .wet) → y.drives = x.drives) := by
  subst takes
  intro old y
  have epoch : (vget (vset x.zones z (f old)) z).epoch = (f old).epoch := by rw [vget_vset_self _ _ _ hz]
  have acts : y = _ := ((putZone_eq z cause f x).trans (if_neg moves)).trans (tellZone_eq z cause _ moves)
  have drives : y.drives = if old.state = .wet ∨ (f old).state = .wet
      then (setDrives { x with zones := vset x.zones z (f old) }).drives else x.drives :=
    congrArg Shelf.drives acts
  refine ⟨?_, fun wet d hd => ?_, fun dry => drives.trans (if_neg dry)⟩
  · rw [drives, ← epoch]
    exact acts
  · rw [acts]
    dsimp only
    rw [if_pos wet]
    exact vget_ofFn _ hd

end Moves

/-! ### CLEAR-ZONE (R132) -/

section Clear

variable {z : Nat} {epoch : Byte} {x : Shelf}

theorem requestClearZone_high (high : 7 < z) : requestClearZone z epoch x = (stInvalid, x) := if_pos high

/-- With the zone in range and its entry in use, the record decides. -/
theorem requestClearZone_used (low : z ≤ 7) (used : (zoneAt x z).isSome) :
    requestClearZone z epoch x =
      if (vget x.zones z).state ≠ .wet then (stInvalid, x)
      else if (vget x.zones z).epoch ≠ epoch then (stStaleEpoch, x)
      else if ∃ p ∈ (vget x.zones z).points, p ≠ .dry then (stNotDry, x)
      else (stDone, clearZone z x) := by
  simp only [requestClearZone, Nat.not_lt.mpr low, if_false, Option.isNone_iff_eq_none,
    Option.isSome_iff_ne_none.mp used, List.any_eq_true, decide_eq_true_eq]

theorem requestClearZone_unused (low : z ≤ 7) (unused : zoneAt x z = none) :
    requestClearZone z epoch x = (stNoEntry, x) := by
  simp [requestClearZone, Nat.not_lt.mpr low, unused]

theorem requestClearZone_other (low : z ≤ 7) (used : (zoneAt x z).isSome) (other : (vget x.zones z).state ≠ .wet) :
    requestClearZone z epoch x = (stInvalid, x) :=
  (requestClearZone_used low used).trans (if_pos other)

theorem requestClearZone_stale (low : z ≤ 7) (used : (zoneAt x z).isSome) (wet : (vget x.zones z).state = .wet)
    (stale : (vget x.zones z).epoch ≠ epoch) : requestClearZone z epoch x = (stStaleEpoch, x) := by
  rw [requestClearZone_used low used, if_neg (not_not_intro wet), if_pos stale]

theorem requestClearZone_notDry (low : z ≤ 7) (used : (zoneAt x z).isSome) (wet : (vget x.zones z).state = .wet)
    (fresh : (vget x.zones z).epoch = epoch) (damp : ∃ p ∈ (vget x.zones z).points, p ≠ .dry) :
    requestClearZone z epoch x = (stNotDry, x) := by
  rw [requestClearZone_used low used, if_neg (not_not_intro wet), if_neg (not_not_intro fresh), if_pos damp]

theorem requestClearZone_clears (low : z ≤ 7) (used : (zoneAt x z).isSome) (wet : (vget x.zones z).state = .wet)
    (fresh : (vget x.zones z).epoch = epoch) (dry : ∀ p ∈ (vget x.zones z).points, p = .dry) :
    requestClearZone z epoch x = (stDone, clearZone z x) := by
  rw [requestClearZone_used low used, if_neg (not_not_intro wet), if_neg (not_not_intro fresh),
    if_neg fun ⟨p, listed, damp⟩ => damp (dry p listed)]

end Clear

section Commands

variable (e : Ambient) {zone epoch : Byte} {s : State} (calm : Calm s)
include calm

theorem exec_clearZone_refused {status : Byte}
    (given : requestClearZone zone.toNat epoch (heard e s).toShelf = (status, (heard e s).toShelf)) :
    exec (.clearZone e zone epoch) s = .next (answered rqClearZone status [] (heard e s)) :=
  congrArg Host.Outcome.next
    (request_refused e calm (f := requestClearZone zone.toNat epoch) (by simp) rfl (fun _ => rfl) given)

theorem exec_clearZone_clears
    (given : requestClearZone zone.toNat epoch (heard e s).toShelf =
      (stDone, clearZone zone.toNat (heard e s).toShelf)) :
    exec (.clearZone e zone epoch) s =
      .next (closing (told rqClearZone stDone [] (onShelf (clearZone zone.toNat) (heard e s)))) :=
  congrArg Host.Outcome.next
    (request_decided e calm.1 (f := requestClearZone zone.toNat epoch) (by simp) rfl (fun _ => rfl) given)

end Commands

/-- A clear makes the zone DRY, its latch time kept, and hands the change on (R130, R132). -/
theorem clearZone_spec {z : Nat} {x : Shelf} (hz : z < 8) (wet : (vget x.zones z).state = .wet) :
    let y := clearZone z x
    let cleared := { vget x.zones z with state := .dry, epoch := (vget x.zones z).epoch + 1 }
    y.zones = vset x.zones z cleared ∧
      y.raised = x.raised ++ (zoneTrays x z).map Task.releaseTray ∧
      y.notices = offerNotice
        { time := x.shelfTime, source := 8, index := z, code := 9, more := false
          word1 := twoItems 2 0, word2 := twoItems cleared.epoch.toNat 4 } x.notices ∧
      (∀ d < 8, vget y.drives d = driveLevel y d) ∧
      y = { x with zones := y.zones, raised := y.raised, notices := y.notices, drives := y.drives } := by
  intro y cleared
  obtain ⟨eq, driven, -⟩ :=
    putZone_moves .clear (f := fun r => epochUp { r with state := .dry }) (new := cleared) hz rfl (by rw [wet]; nofun)
  change y = _ at eq
  have released := congrArg Shelf.raised eq
  have posted := congrArg Shelf.notices eq
  rw [wet] at posted
  refine ⟨congrArg Shelf.zones eq, ?_, posted, driven (.inl wet), ?_⟩
  · rw [released, if_neg (by nofun), if_pos wet]
  · rw [eq]

/-! ### The confirm timer (R127) -/

theorem confirmDue_opening {e : Ambient} {z : Nat} {s : State} (suspect : (vget s.zones z).state = .suspect)
    (due : expired (s.shelfTime + e.elapsed) (vget s.zones z).timer = true) :
    confirmDue z (opening e s).toShelf = true :=
  Bool.and_eq_true_iff.mpr ⟨decide_eq_true suspect, due⟩

theorem exec_confirmTimerExpiry_due (e : Ambient) {z : Fin 8} {s : State} (suspect : (vget s.zones z).state = .suspect)
    (due : expired (s.shelfTime + e.elapsed) (vget s.zones z).timer = true) :
    exec (.confirmTimerExpiry e z) s = .next (closing (onShelf (confirmExpiry z) (opening e s))) := by
  refine congrArg (fun x => Host.Outcome.next (closing x)) ?_
  unfold onShelf
  dsimp only
  rw [if_pos (confirmDue_opening suspect due)]

theorem confirmExpiry_spec {z : Nat} {x : Shelf} (hz : z < 8) (suspect : (vget x.zones z).state = .suspect) :
    let y := confirmExpiry z x
    let old := vget x.zones z
    y.zones = vset x.zones z
      { old with state := .wet, timer := .stopped, latch := x.shelfTime, epoch := old.epoch + 1 } ∧
    y.raised = x.raised ++ (zoneTrays x z).map Task.lockTray ∧
    y.notices = offerNotice
      { time := x.shelfTime, source := 8, index := z, code := 9, more := false
        word1 := twoItems 1 2, word2 := twoItems (old.epoch + 1).toNat 3 } x.notices ∧
    ∀ d < 8, vget y.drives d = driveLevel y d := by
  intro y old
  obtain ⟨eq, driven, -⟩ := putZone_moves .time (x := x)
    (f := fun r => epochUp { r with state := .wet, timer := .stopped, latch := x.shelfTime })
    (new := { old with state := .wet, timer := .stopped, latch := x.shelfTime, epoch := old.epoch + 1 }) hz rfl
    (by rw [suspect]; nofun)
  change y = _ at eq
  have posted := congrArg Shelf.notices eq
  rw [suspect] at posted
  exact ⟨congrArg Shelf.zones eq, congrArg Shelf.raised eq, posted, driven (.inr rfl)⟩

/-! ### Points (R124) -/

/-- The state of a point whose signal is a LEAK signal, by its band (R124). -/
def pointOfBand : Band → PointState
  | .low | .critLow => .wet
  | .normal | .high | .critHigh => .dry
  | .unknown => .unknown

theorem pointState_signal_fed {x : Shelf} (z : Nat) {n : Nat} {g : SampleEntry} (fed : feeding x n = some g)
    (leak : g.kind = .leak) : pointState x z (.signal n) = pointOfBand (vget x.signals n).band := by
  simp only [pointState, fed, leak, if_true]
  cases (vget x.signals n).band <;> rfl

theorem pointState_signal_unfed {x : Shelf} (z : Nat) {n : Nat}
    (unfed : ¬∃ g, feeding x n = some g ∧ g.kind = .leak) : pointState x z (.signal n) = .unknown := by
  cases fed : feeding x n with
  | none => simp only [pointState, fed]
  | some g =>
    simp only [pointState, fed]
    exact if_neg fun leak => unfed ⟨g, fed, leak⟩

theorem pointState_signal_spec (x : Shelf) (z n : Nat) :
    let fed := ∃ g, feeding x n = some g ∧ g.kind = .leak
    let band := (vget x.signals n).band
    (fed → band = .low ∨ band = .critLow → pointState x z (.signal n) = .wet) ∧
    (fed → band = .normal ∨ band = .high ∨ band = .critHigh → pointState x z (.signal n) = .dry) ∧
    (¬fed ∨ band = .unknown → pointState x z (.signal n) = .unknown) := by
  intro fed band
  have judged : fed → pointState x z (.signal n) = pointOfBand band :=
    fun ⟨_, found, leak⟩ => pointState_signal_fed z found leak
  refine ⟨fun leak low => ?_, fun leak high => ?_, fun unknown => ?_⟩
  · rw [judged leak]
    obtain low | low := low <;> rw [low] <;> rfl
  · rw [judged leak]
    obtain high | high | high := high <;> rw [high] <;> rfl
  · by_cases leak : fed
    · rw [judged leak, unknown.resolve_left (not_not_intro leak)]
      rfl
    · exact pointState_signal_unfed z leak

theorem pointState_line_spec (x : Shelf) (z l : Nat) :
    let mine := (senseAt x l).role = .leak ∧ (senseAt x l).index = z
    let active := (vget x.lines l).accepted = some (senseAt x l).active
    (mine → active → pointState x z (.line l) = .wet) ∧
    (mine → ¬active → pointState x z (.line l) = .dry) ∧
    (¬mine → pointState x z (.line l) = .unknown) := by
  intro mine active
  have judged : mine → pointState x z (.line l) = if lineActive x l then .wet else .dry := fun h => if_pos h
  exact ⟨fun h on => (judged h).trans (if_pos ((lineActive_iff x l).mpr on)),
    fun h off => (judged h).trans (if_neg (mt (lineActive_iff x l).mp off)), fun other => if_neg other⟩

/-! ### Evaluations (R125, R126, R129, R131) -/

theorem pointStates_used {x : Shelf} {z : Nat} {entry : ZoneEntry} (used : zoneAt x z = some entry) :
    pointStates x z = entry.points.map (pointState x z) := by
  rw [pointStates, used]

theorem zonesTouched_ascend (x : Shelf) : (zonesTouched x).Pairwise (· < ·) := List.pairwise_lt_range.filter _

theorem mem_zonesTouched {x : Shelf} {z : Nat} :
    z ∈ zonesTouched x ↔ z < 8 ∧ ∃ entry, zoneAt x z = some entry ∧
      entry.points.map (pointState x z) ≠ (vget x.zones z).points := by
  simp only [zonesTouched, Config.zoneCount, List.mem_filter, List.mem_range, Bool.and_eq_true, decide_eq_true_eq,
    Option.isSome_iff_exists]
  refine and_congr_right fun _ => ⟨?_, ?_⟩
  · rintro ⟨⟨entry, used⟩, moved⟩
    exact ⟨entry, used, by rwa [← pointStates_used used]⟩
  · rintro ⟨entry, used, moved⟩
    exact ⟨⟨entry, used⟩, by rwa [pointStates_used used]⟩

/-- No evaluation leaves WET, and so none releases trays (R126, R130). -/
theorem ne_wet_of_evaluateZone_moves {entry : ZoneEntry} {points : List PointState} {now : Time} {z : Zone}
    (moves : (evaluateZone entry points now z).state ≠ z.state) : z.state ≠ .wet :=
  fun was => moves ((evaluateZone_state ..).trans ((zoneNext_wet _ _ _ was).trans was.symm))

/-- The number of the cause of a change that an evaluation makes, by the state entered: POINT, DRY, COUNT (R131). -/
def evaluationNumber : ZoneState → Nat
  | .suspect => 0
  | .dry => 1
  | .wet => 2

theorem zoneCauseNumber_evaluationCause (st : ZoneState) :
    zoneCauseNumber (evaluationCause st) = evaluationNumber st := by
  cases st <;> rfl

section Evaluates

variable {x : Shelf} {z : Nat}

theorem zoneEvaluation_unused (unused : zoneAt x z = none) : zoneEvaluation z x = x := by
  rw [zoneEvaluation, unused]

theorem zoneEvaluation_used {entry : ZoneEntry} (used : zoneAt x z = some entry) :
    let new := evaluateZone entry (entry.points.map (pointState x z)) x.shelfTime (vget x.zones z)
    zoneEvaluation z x = putZone z (evaluationCause new.state) (fun _ => new) x := by
  rw [zoneEvaluation, used]
  dsimp only
  rw [pointStates_used used]

/-- The record of an evaluation is kept, and a change of the state posted and handed on (R129, R130, R131). -/
theorem zoneEvaluation_spec (hz : z < 8) {entry : ZoneEntry} (used : zoneAt x z = some entry) :
    let y := zoneEvaluation z x
    let old := vget x.zones z
    let new := evaluateZone entry (entry.points.map (pointState x z)) x.shelfTime old
    (new.state = old.state → y = { x with zones := vset x.zones z new }) ∧
    (new.state ≠ old.state →
      y = { x with
        zones := vset x.zones z new
        notices := offerNotice
          { time := x.shelfTime, source := 8, index := z, code := 9, more := false
            word1 := twoItems (zoneStateNumber old.state) (zoneStateNumber new.state)
            word2 := twoItems new.epoch.toNat (evaluationNumber new.state) } x.notices
        raised := if new.state = .wet then x.raised ++ (zoneTrays x z).map Task.lockTray else x.raised
        drives := y.drives } ∧
      (new.state = .wet → ∀ d < 8, vget y.drives d = driveLevel y d) ∧
      (new.state ≠ .wet → y.drives = x.drives)) := by
  intro y old new
  have put : y = putZone z (evaluationCause new.state) (fun _ => new) x := zoneEvaluation_used used
  refine ⟨fun same => put.trans (putZone_stays _ rfl same.symm), fun moves => ?_⟩
  have dryBefore : old.state ≠ .wet := ne_wet_of_evaluateZone_moves moves
  obtain ⟨eq, driven, undriven⟩ := putZone_moves (evaluationCause new.state) (f := fun _ => new) hz rfl moves.symm
  rw [if_neg dryBefore, zoneCauseNumber_evaluationCause, ← put] at eq
  rw [← put] at driven undriven
  exact ⟨eq, fun wet => driven (.inr wet), fun other => undriven fun h => h.elim dryBefore other⟩

end Evaluates

/-! ### The trays of a zone (R122) -/

theorem zoneTrays_ascend (x : Shelf) (z : Nat) : (zoneTrays x z).Pairwise (· < ·) :=
  (List.pairwise_lt_range.filter _).filter _

theorem mem_zoneTrays {x : Shelf} {z t : Nat} :
    t ∈ zoneTrays x z ↔ t < 24 ∧ ∃ g, trayAt x t = some g ∧ g.zone = some z := by
  simp only [zoneTrays, traysInUse, Config.trayCount, List.mem_filter, List.mem_range, Option.any_eq_true,
    decide_eq_true_eq, and_assoc]
  refine and_congr_right fun _ => ⟨And.right, fun names => ⟨?_, names⟩⟩
  obtain ⟨g, used, -⟩ := names
  exact Option.isSome_of_eq_some used

/-! ### The apply of a Zones entry (R135) -/

/-- The record that an apply gives, before its epoch is moved (R135). -/
def appliedZone (old new : Option ZoneEntry) (r : Zone) : Zone :=
  match old, new with
  | some _, some _ => r
  | none, some entry => { emptyZone entry.points.length r with state := .dry }
  | some _, none => { r with state := .dry, points := [], wet := 0, unknown := 0, timer := .stopped }
  | none, none => r

theorem applyZone_eq (z : Nat) (old : Option ZoneEntry) (x : Shelf) :
    applyZone z old x = { x with
      zones := vset x.zones z (epochUp (appliedZone old (zoneAt x z) (vget x.zones z)))
      raised := if (zoneAt x z).isSome then x.raised ++ [.zoneEval z] else x.raised } := by
  cases old <;> cases used : zoneAt x z <;> simp only [applyZone, used] <;> rfl

theorem vget_applyZone {z : Nat} (old : Option ZoneEntry) (x : Shelf) (hz : z < 8) :
    vget (applyZone z old x).zones z = epochUp (appliedZone old (zoneAt x z) (vget x.zones z)) := by
  rw [applyZone_eq]
  exact vget_vset_self _ _ _ hz

theorem applyZone_spec (old : Option ZoneEntry) (x : Shelf) (z : Nat) (hz : z < 8) :
    let y := applyZone z old x
    let r := vget x.zones z
    let becomes := fun (new : Zone) => vget y.zones z = { new with epoch := r.epoch + 1 }
    y = { x with zones := y.zones, raised := y.raised } ∧
    (∀ w ≠ z, vget y.zones w = vget x.zones w) ∧
    (y.raised = if (zoneAt x z).isSome then x.raised ++ [.zoneEval z] else x.raised) ∧
    (old.isSome → (zoneAt x z).isSome → becomes r) ∧
    (old = none → ∀ entry, zoneAt x z = some entry →
      becomes { r with
        state := .dry, points := List.replicate entry.points.length .dry, wet := 0, unknown := 0
        timer := .stopped, firstWet := 0 }) ∧
    (old.isSome → zoneAt x z = none →
      becomes { r with state := .dry, points := [], wet := 0, unknown := 0, timer := .stopped }) ∧
    (old = none → zoneAt x z = none → becomes r) := by
  intro y r becomes
  have eq : y = _ := applyZone_eq z old x
  have record := vget_applyZone old x hz
  refine ⟨?_, fun w other => ?_, congrArg Shelf.raised eq, fun was used => ?_, fun was entry used => ?_,
    fun was unused => ?_, fun was unused => ?_⟩
  · rw [eq]
  · rw [eq]
    exact vget_vset_ne _ _ other.symm
  · obtain ⟨before, rfl⟩ := Option.isSome_iff_exists.mp was
    obtain ⟨entry, used⟩ := Option.isSome_iff_exists.mp used
    rw [used] at record
    exact record
  · subst was
    rw [used] at record
    exact record
  · obtain ⟨before, rfl⟩ := Option.isSome_iff_exists.mp was
    rw [unused] at record
    exact record
  · subst was
    rw [unused] at record
    exact record

/-! ### O57 -/

/-- Settles O57: the request by the first test of R132 that holds; the three changes of a zone's state (an evaluation, an
expired confirm timer, a clear) as one record taken and handed on; the rest from the record, the points and the apply. -/
theorem zonesEvaluatedAndCleared : Obligations.ZonesEvaluatedAndCleared := by
  refine ⟨fun e zone epoch s calm => ⟨fun high => ?_, fun low => ⟨fun unused => ?_, fun used => ⟨fun other => ?_,
      fun wet => ⟨fun stale => ?_, fun fresh => ⟨fun damp => ?_, fun dry => ?_⟩⟩⟩⟩⟩,
    fun z x hz wet => clearZone_spec hz wet, fun entry points now z => ?_,
    fun e z s suspect due => exec_confirmTimerExpiry_due e suspect due,
    fun x z hz suspect => confirmExpiry_spec hz suspect,
    fun x z => ⟨pointState_signal_spec x z, pointState_line_spec x z⟩,
    fun x => ⟨zonesTouched x, rfl, zonesTouched_ascend x, fun z => mem_zonesTouched⟩,
    fun x z hz => ⟨zoneEvaluation_unused, fun entry used => zoneEvaluation_spec hz used⟩,
    fun x z => ⟨zoneTrays_ascend x z, fun t => mem_zoneTrays⟩, applyZone_spec⟩
  · exact exec_clearZone_refused e calm (requestClearZone_high high)
  · exact exec_clearZone_refused e calm (requestClearZone_unused low unused)
  · exact exec_clearZone_refused e calm (requestClearZone_other low used other)
  · exact exec_clearZone_refused e calm (requestClearZone_stale low used wet stale)
  · exact exec_clearZone_refused e calm (requestClearZone_notDry low used wet fresh damp)
  · exact exec_clearZone_clears e calm (requestClearZone_clears low used wet fresh dry)
  · obtain ⟨kept, confirmed, few⟩ := evaluateZone_judged entry points now z
    have firstWet := evaluateZone_firstWet entry points now z
    exact ⟨rfl, rfl, rfl, kept, confirmed, few, evaluateZone_epoch entry points now z,
      fun rises => firstWet.trans (if_pos rises), fun stays => firstWet.trans (if_neg stays),
      evaluateZone_timed entry points now z⟩

end Sys2Proof.Machine
end

section
/-! PROOF. The downstream Port Engines (R152, R153, R162) through the operations of the blocks: none but those of the
ports themselves, phase 4 of start-up and the resets touches one. One lemma for each operation, in the order of the
model's files; each rewrites the engines of the operation's state to those of its argument. The operations that a
report reaches leave presence and the transactions in flight too (R143, R144). -/

namespace Sys2Proof.Machine

/-- Two states have the same downstream Port Engines. -/
abbrev SameDown (s t : Shelf) : Prop := t.engSp = s.engSp ∧ t.engTp = s.engTp

@[simp] theorem sameDown_iff {s t : Shelf} : SameDown s t ↔ t.engSp = s.engSp ∧ t.engTp = s.engTp := Iff.rfl

/-- Two states have the same downstream Port Engines, modules and transactions in flight. -/
abbrev SamePorts (s t : Shelf) : Prop :=
  t.engSp = s.engSp ∧ t.engTp = s.engTp ∧ t.modules = s.modules ∧
    t.pollSp.inFlight = s.pollSp.inFlight ∧ t.pollTp.inFlight = s.pollTp.inFlight

@[simp] theorem samePorts_iff {s t : Shelf} :
    SamePorts s t ↔ t.engSp = s.engSp ∧ t.engTp = s.engTp ∧ t.modules = s.modules ∧
      t.pollSp.inFlight = s.pollSp.inFlight ∧ t.pollTp.inFlight = s.pollTp.inFlight := Iff.rfl

@[simp] theorem engSp_ite (c : Prop) [Decidable c] (s t : Shelf) :
    (if c then s else t).engSp = if c then s.engSp else t.engSp := apply_ite Shelf.engSp c s t

@[simp] theorem engTp_ite (c : Prop) [Decidable c] (s t : Shelf) :
    (if c then s else t).engTp = if c then s.engTp else t.engTp := apply_ite Shelf.engTp c s t

@[simp] theorem modules_ite (c : Prop) [Decidable c] (s t : Shelf) :
    (if c then s else t).modules = if c then s.modules else t.modules := apply_ite Shelf.modules c s t

@[simp] theorem pollSp_ite (c : Prop) [Decidable c] (s t : Shelf) :
    (if c then s else t).pollSp = if c then s.pollSp else t.pollSp := apply_ite Shelf.pollSp c s t

@[simp] theorem pollTp_ite (c : Prop) [Decidable c] (s t : Shelf) :
    (if c then s else t).pollTp = if c then s.pollTp else t.pollTp := apply_ite Shelf.pollTp c s t

@[simp] theorem inFlight_ite (c : Prop) [Decidable c] (x y : PollEngine) :
    (if c then x else y).inFlight = if c then x.inFlight else y.inFlight := apply_ite PollEngine.inFlight c x y

/-- A list of operations, none of which touches a downstream Port Engine. -/
theorem sameDown_foldl {α : Type} {f : Shelf → α → Shelf} (hf : ∀ s a, SameDown s (f s a))
    (l : List α) (s : Shelf) : SameDown s (l.foldl f s) :=
  keep_foldl (P := SameDown s)
    (fun x a h => ⟨(hf x a).1.trans h.1, (hf x a).2.trans h.2⟩) l ⟨rfl, rfl⟩

/-- A Poll Engine that is set with the transaction it had in flight. -/
theorem samePorts_setPoll (p : Port) {e : PollEngine} {s : Shelf}
    (flight : e.inFlight = (pollEngine s p).inFlight) : SamePorts s (setPoll p e s) := by
  cases p with
  | up => exact ⟨rfl, rfl, rfl, rfl, rfl⟩
  | sp => exact ⟨rfl, rfl, rfl, flight, rfl⟩
  | tp => exact ⟨rfl, rfl, rfl, rfl, flight⟩

theorem samePorts_foldl {α : Type} {f : Shelf → α → Shelf} (hf : ∀ s a, SamePorts s (f s a))
    (l : List α) (s : Shelf) : SamePorts s (l.foldl f s) := by
  refine keep_foldl (P := SamePorts s) (fun x a h => ?_) l ⟨rfl, rfl, rfl, rfl, rfl⟩
  obtain ⟨sp, tp, modules, flightSp, flightTp⟩ := hf x a
  obtain ⟨sp', tp', modules', flightSp', flightTp'⟩ := h
  exact ⟨sp.trans sp', tp.trans tp', modules.trans modules', flightSp.trans flightSp', flightTp.trans flightTp'⟩

/-! ### Shared operations -/

@[simp] theorem sameDown_answerOrder (address code status : Byte) (s : Shelf) :
    SameDown s (answerOrder address code status s) := by simp [answerOrder]

@[simp] theorem sameDown_editPoll (p : Port) (f : PollEngine → PollEngine) (s : Shelf) :
    SameDown s (editPoll p f s) := by simp [editPoll]

@[simp] theorem sameDown_foldl_addCause (cs : List Cause) (s : Shelf) :
    SameDown s (cs.foldl addCause s) := by
  rw [foldl_addCause_eq]
  exact ⟨rfl, rfl⟩

/-! ### The Balance Unit -/

@[simp] theorem sameDown_overcommitNotice (old new : Balance) (s : Shelf) :
    SameDown s (overcommitNotice old new s) := by simp [overcommitNotice]

@[simp] theorem sameDown_tellMonitorAndSequencer (h0Changed : Bool) (s : Shelf) :
    SameDown s (tellMonitorAndSequencer h0Changed s) := by simp [tellMonitorAndSequencer]

/-- At each of the three turns the Ride-Through Controller may take. -/
@[simp] theorem sameDown_handOnBalance (old new : Balance) (s : Shelf) :
    SameDown s (handOnBalance old new s) := by
  unfold handOnBalance
  dsimp only
  split <;> split <;> simp

@[simp] theorem sameDown_recompute (causes : List Cause) (s : Shelf) :
    SameDown s (recompute causes s) := by simp [recompute]

@[simp] theorem sameDown_performBalance (s : Shelf) : SameDown s (performBalance s) := by
  simp [performBalance]

/-! ### Orders -/

@[simp] theorem samePorts_placeControl (o : ControlOrder) (s : Shelf) :
    SamePorts s (placeControl o s) := by
  unfold placeControl
  dsimp only
  split
  · exact samePorts_setPoll _ rfl
  · simp

@[simp] theorem samePorts_orderModule (roster : Nat) (target : Target) (code : Byte) (argument : Nat)
    (s : Shelf) : SamePorts s (orderModule roster target code argument s) := by
  unfold orderModule
  split <;> simp

@[simp] theorem sameDown_forgetOrders (t : Nat) (s : Shelf) : SameDown s (forgetOrders t s) :=
  ⟨rfl, rfl⟩

@[simp] theorem sameDown_placeOn (t : Nat) (s : Shelf) : SameDown s (placeOn t s) := by
  unfold placeOn
  split <;> simp

@[simp] theorem samePorts_placeOff (t : Nat) (s : Shelf) : SamePorts s (placeOff t s) := by
  unfold placeOff
  split <;> simp

@[simp] theorem samePorts_placeBbm (k : Nat) (code : Byte) (argument : Nat) (s : Shelf) :
    SamePorts s (placeBbm k code argument s) := by
  unfold placeBbm
  split <;> simp

@[simp] theorem samePorts_placeBbmOnce (k : Nat) (code : Byte) (s : Shelf) :
    SamePorts s (placeBbmOnce k code s) := by simp [placeBbmOnce]

@[simp] theorem sameDown_dischargeBatteries (s : Shelf) : SameDown s (dischargeBatteries s) :=
  sameDown_foldl (by simp) _ s

@[simp] theorem sameDown_holdBatteries (s : Shelf) : SameDown s (holdBatteries s) :=
  sameDown_foldl (by simp) _ s

/-! ### The Tray Controller -/

@[simp] theorem samePorts_trayNotice (t : Nat) (old new : TrayState) (s : Shelf) :
    SamePorts s (trayNotice t old new s) := by simp [trayNotice]

@[simp] theorem samePorts_afterTray (before : Shelf) (old new : TrayState) (s : Shelf) :
    SamePorts s (afterTray before old new s) := by simp [afterTray]

@[simp] theorem samePorts_trayTo (t : Nat) (new : TrayState) (f : Tray → Tray) (s : Shelf) :
    SamePorts s (trayTo t new f s) := by simp [trayTo]

@[simp] theorem samePorts_faultTray (t : Nat) (cause : TrayFault) (s : Shelf) :
    SamePorts s (faultTray t cause s) := by simp [faultTray]

@[simp] theorem samePorts_trayGood (t : Nat) (goodTime : Time) (s : Shelf) :
    SamePorts s (trayGood t goodTime s) := by simp [trayGood]

@[simp] theorem sameDown_stopTray (t : Nat) (s : Shelf) : SameDown s (stopTray t s) := by
  unfold stopTray
  split <;> simp

@[simp] theorem sameDown_withdrawTray (t : Nat) (s : Shelf) : SameDown s (withdrawTray t s) := by
  simp [withdrawTray]

@[simp] theorem sameDown_countShed (s : Shelf) : SameDown s (countShed s) := ⟨rfl, rfl⟩

@[simp] theorem sameDown_shedTray (t : Nat) (s : Shelf) : SameDown s (shedTray t s) := by
  simp [shedTray]

@[simp] theorem sameDown_lockTrayOnly (t : Nat) (s : Shelf) : SameDown s (lockTrayOnly t s) := by
  simp [lockTrayOnly]

@[simp] theorem sameDown_lockTray (t : Nat) (s : Shelf) : SameDown s (lockTray t s) := by
  simp [lockTray]

@[simp] theorem sameDown_releaseTray (t : Nat) (s : Shelf) : SameDown s (releaseTray t s) := by
  simp [releaseTray]

@[simp] theorem sameDown_clearTray (t : Nat) (s : Shelf) : SameDown s (clearTray t s) := by
  simp [clearTray]

@[simp] theorem sameDown_requestAdmission (t : Nat) (origin : QueuedBy) (s : Shelf) :
    SameDown s (requestAdmission t origin s) := by simp [requestAdmission]

@[simp] theorem sameDown_shelfStopTray (t : Nat) (s : Shelf) : SameDown s (shelfStopTray t s) := by
  unfold shelfStopTray
  split <;> simp

@[simp] theorem samePorts_setSeen (t : Nat) (seen : Seen) (s : Shelf) :
    SamePorts s (setSeen t seen s) := by simp [setSeen]

@[simp] theorem samePorts_adoptedOn (t : Nat) (s : Shelf) : SamePorts s (adoptedOn t s) := by
  simp [adoptedOn]

@[simp] theorem samePorts_trayStatus (t word : Nat) (sampleTime : Time) (s : Shelf) :
    SamePorts s (trayStatus t word sampleTime s) := by
  unfold trayStatus
  dsimp only
  split <;> simp

@[simp] theorem sameDown_trayLineEdge (t : Nat) (rising : Bool) (edgeTime : Time) (s : Shelf) :
    SameDown s (trayLineEdge t rising edgeTime s) := by
  unfold trayLineEdge
  dsimp only
  split <;> simp

@[simp] theorem sameDown_trayAbsent (t : Nat) (s : Shelf) : SameDown s (trayAbsent t s) := by
  unfold trayAbsent
  dsimp only
  split <;> simp

@[simp] theorem sameDown_startAcknowledged (t : Nat) (s : Shelf) :
    SameDown s (startAcknowledged t s) := by simp [startAcknowledged]

/-- An outcome acts on a STARTING, a STOPPING and a SHEDDING tray alone. -/
@[simp] theorem sameDown_trayOutcome (t : Nat) (code : Byte) (o : OrderOutcome) (s : Shelf) :
    SameDown s (trayOutcome t code o s) := by
  unfold trayOutcome
  dsimp only
  split
  · simp
  · split <;> simp

@[simp] theorem sameDown_admitTray (t : Nat) (s : Shelf) : SameDown s (admitTray t s) := by
  simp [admitTray]

@[simp] theorem sameDown_admissionTry (s : Shelf) : SameDown s (admissionTry s) := by
  unfold admissionTry
  split <;> simp

@[simp] theorem sameDown_interceptOn (address : Byte) (t : Nat) (s : Shelf) :
    SameDown s (interceptOn address t s) := by
  unfold interceptOn
  split <;> simp

@[simp] theorem sameDown_interceptOff (address : Byte) (t : Nat) (s : Shelf) :
    SameDown s (interceptOff address t s) := by
  unfold interceptOff
  split
  · simp
  · dsimp only
    split <;> simp

/-! ### The Guard -/

@[simp] theorem sameDown_relayOrder (r : Nat) (p : Port) (address code : Byte) (argument : Nat)
    (s : Shelf) : SameDown s (relayOrder r p address code argument s) := by simp [relayOrder]

@[simp] theorem sameDown_guardTable (r : Nat) (e : RosterEntry) (address code : Byte)
    (argument : Nat) (s : Shelf) : SameDown s (guardTable r e address code argument s) := by
  unfold guardTable
  split <;> simp

@[simp] theorem sameDown_decideOrder (address code : Byte) (argument : Nat) (s : Shelf) :
    SameDown s (decideOrder address code argument s) := by
  unfold decideOrder
  split <;> simp

/-! ### The Ride-Through Controller -/

@[simp] theorem samePorts_setRide (f : Ride → Ride) (s : Shelf) : SamePorts s (setRide f s) := by
  simp [setRide]

@[simp] theorem samePorts_energyUpdate (s : Shelf) : SamePorts s (energyUpdate s) := by
  simp [energyUpdate, reanchor]

@[simp] theorem samePorts_recomputeCapacity (s : Shelf) : SamePorts s (recomputeCapacity s) := by
  simp [recomputeCapacity]

@[simp] theorem samePorts_batteryLost (k : Nat) (s : Shelf) : SamePorts s (batteryLost k s) := by
  simp [batteryLost]

@[simp] theorem samePorts_rideOrders (k : Nat) (s : Shelf) : SamePorts s (rideOrders k s) := by
  unfold rideOrders
  split <;> simp

@[simp] theorem samePorts_rideBattery (k : Nat) (old new : BbmState) (s : Shelf) :
    SamePorts s (rideBattery k old new s) := by simp [rideBattery]

@[simp] theorem sameDown_dropRestart (s : Shelf) : SameDown s (dropRestart s) := ⟨rfl, rfl⟩

@[simp] theorem sameDown_holdSequencer (s : Shelf) : SameDown s (holdSequencer s) := by
  simp [holdSequencer]

@[simp] theorem sameDown_leaveNormal (s : Shelf) : SameDown s (leaveNormal s) := by
  simp [leaveNormal]

@[simp] theorem sameDown_reachNormal (s : Shelf) : SameDown s (reachNormal s) := by
  simp [reachNormal]

@[simp] theorem sameDown_rideTo (new : RideState) (f : Ride → Ride) (s : Shelf) :
    SameDown s (rideTo new f s) := by simp [rideTo]

@[simp] theorem sameDown_shedStarting (s : Shelf) : SameDown s (shedStarting s) := by
  simp [shedStarting]

@[simp] theorem sameDown_enterRide (line : Bool) (d : Nat) (s : Shelf) :
    SameDown s (enterRide line d s) := by simp [enterRide]

@[simp] theorem sameDown_secondLoss (d : Nat) (s : Shelf) : SameDown s (secondLoss d s) := by
  simp [secondLoss]

@[simp] theorem sameDown_postRideEnter (d : Nat) (s : Shelf) : SameDown s (postRideEnter d s) := by
  simp [postRideEnter]

@[simp] theorem sameDown_postDepleted (trays : Nat) (s : Shelf) :
    SameDown s (postDepleted trays s) := by simp [postDepleted]

@[simp] theorem sameDown_enterDepleted (s : Shelf) : SameDown s (enterDepleted s) := by
  simp [enterDepleted]

@[simp] theorem sameDown_enterNormal (s : Shelf) : SameDown s (enterNormal s) := by
  simp [enterNormal]

@[simp] theorem sameDown_stackChanged (s : Shelf) : SameDown s (stackChanged s) := by
  simp [stackChanged]

@[simp] theorem sameDown_enterReturning (s : Shelf) : SameDown s (enterReturning s) := by
  simp [enterReturning]

@[simp] theorem sameDown_qualifyStep (returnOk : Bool) (s : Shelf) :
    SameDown s (qualifyStep returnOk s) := ⟨rfl, rfl⟩

@[simp] theorem sameDown_rideRecord (deficit line returnOk : Bool) (d : Nat) (s : Shelf) :
    SameDown s (rideRecord deficit line returnOk d s) := by
  unfold rideRecord
  split <;> simp

@[simp] theorem sameDown_projectAndShed (d eUse : Nat) (s : Shelf) :
    SameDown s (projectAndShed d eUse s) := by simp [projectAndShed]

@[simp] theorem sameDown_energyTick (s : Shelf) : SameDown s (energyTick s) := by
  simp [energyTick]

/-! ### The Module Monitor -/

@[simp] theorem samePorts_editPsm (i : Nat) (f : Psm → Psm) (s : Shelf) :
    SamePorts s (editPsm i f s) := ⟨rfl, rfl, rfl, rfl, rfl⟩

@[simp] theorem samePorts_psmTo (i : Nat) (new : PsmState) (reason : PsmReason) (cause : Cause)
    (s : Shelf) : SamePorts s (psmTo i new reason cause s) := by simp [psmTo]

@[simp] theorem samePorts_checkPsm (i : Nat) (trigger : PsmTrigger) (s : Shelf) :
    SamePorts s (checkPsm i trigger s) := by
  unfold checkPsm
  split <;> simp

@[simp] theorem sameDown_psmLine (i : Nat) (active : Bool) (s : Shelf) :
    SameDown s (psmLine i active s) := by simp [psmLine]

@[simp] theorem sameDown_psmAbsent (i : Nat) (s : Shelf) : SameDown s (psmAbsent i s) := by
  simp [psmAbsent]

@[simp] theorem samePorts_tellBbmState (k : Nat) (old new : BbmState) (reason : BbmReason)
    (s : Shelf) : SamePorts s (tellBbmState k old new reason s) := by simp [tellBbmState]

@[simp] theorem samePorts_putBbm (k : Nat) (reason : BbmReason) (f : Bbm → Bbm) (s : Shelf) :
    SamePorts s (putBbm k reason f s) := by simp [putBbm]

@[simp] theorem samePorts_adoptBbm (k : Nat) (word : Option Nat) (s : Shelf) :
    SamePorts s (adoptBbm k word s) := by simp [adoptBbm]

@[simp] theorem samePorts_bbmStatusWord (k word : Nat) (s : Shelf) :
    SamePorts s (bbmStatusWord k word s) := by simp [bbmStatusWord]

@[simp] theorem samePorts_bbmStatusWords (k : Nat) (words : List Nat) (s : Shelf) :
    SamePorts s (words.foldl (fun s w => bbmStatusWord k w s) s) := samePorts_foldl (by simp) words s

@[simp] theorem samePorts_bbmReport (k : Nat) (words : List Nat) (s : Shelf) :
    SamePorts s (bbmReport k words s) := by simp [bbmReport]

@[simp] theorem sameDown_bbmAbsent (k : Nat) (s : Shelf) : SameDown s (bbmAbsent k s) := by
  simp [bbmAbsent]

@[simp] theorem sameDown_failBbm (k : Nat) (cause : BbmFault) (reason : BbmReason) (s : Shelf) :
    SameDown s (failBbm k cause reason s) := by simp [failBbm]

@[simp] theorem sameDown_bbmOutcome (k : Nat) (code : Byte) (argument : Nat) (o : OrderOutcome)
    (s : Shelf) : SameDown s (bbmOutcome k code argument o s) := by
  unfold bbmOutcome
  split
  · simp
  · split <;> simp

@[simp] theorem sameDown_orderRate (rates : List (Nat × Nat)) (s : Shelf) :
    SameDown s (orderRate rates s) := sameDown_foldl (by simp) rates s

@[simp] theorem sameDown_holdDischarging (s : Shelf) : SameDown s (holdDischarging s) :=
  sameDown_foldl (by simp) _ s

@[simp] theorem sameDown_chargeEvaluation (s : Shelf) : SameDown s (chargeEvaluation s) := by
  simp [chargeEvaluation]

@[simp] theorem sameDown_chargeZero (s : Shelf) : SameDown s (chargeZero s) := by
  simp [chargeZero]

/-! ### The Signal Screen -/

@[simp] theorem samePorts_bandNotice (n : Nat) (old : Band) (notify : Bool) (s : Shelf) :
    SamePorts s (bandNotice n old notify s) := by simp [bandNotice]

@[simp] theorem samePorts_putSignal (n : Nat) (notify : Bool) (f : Signal → Signal) (s : Shelf) :
    SamePorts s (putSignal n notify f s) := by simp [putSignal]

@[simp] theorem samePorts_checkPsms (trigger : PsmTrigger) (is : List Nat) (s : Shelf) :
    SamePorts s (checkPsms trigger is s) := samePorts_foldl (by simp) is s

@[simp] theorem samePorts_handOnSignals (h : HandOn) (trigger : PsmTrigger) (s : Shelf) :
    SamePorts s (handOnSignals h trigger s) := by simp [handOnSignals]

@[simp] theorem sameDown_staleSignal (n : Nat) (notify : Bool) (s : Shelf) :
    SameDown s (staleSignal n notify s) := by simp [staleSignal]

@[simp] theorem sameDown_staleAll (es : List SampleEntry) (s : Shelf) :
    SameDown s (staleAll es s) := by
  have marked := sameDown_foldl (f := fun s (e : SampleEntry) => staleSignal e.signal e.notify s)
    (by simp) es s
  simp [staleAll, marked]

@[simp] theorem samePorts_applySample (e : SampleEntry) (raw : Nat) (time : Time) (s : Shelf) :
    SamePorts s (applySample e raw time s) := by simp [applySample]

@[simp] theorem samePorts_applySamples (time : Time) (samples : List (SampleEntry × Nat))
    (x : Shelf × List (Nat × SignalKind)) : SamePorts x.1 (applySamples time samples x).1 := by
  induction samples generalizing x with
  | nil => exact ⟨rfl, rfl, rfl, rfl, rfl⟩
  | cons sample rest ih => simp [applySamples, ih]

/-- The owner of each kind of module takes its words one after another. -/
@[simp] theorem samePorts_deliverStatus (e : RosterEntry) (r : Nat) (words : List Nat) (time : Time)
    (s : Shelf) : SamePorts s (deliverStatus e r words time s) := by
  have psms := samePorts_foldl (f := fun s w => editPsm e.index (psmStatusWord w) s) (by simp) words s
  have trays := samePorts_foldl (f := fun s w => trayStatus e.index w time s) (by simp) words s
  unfold deliverStatus
  split <;> simp [psms, trays]

@[simp] theorem samePorts_evaluateReporter (e : RosterEntry) (r : Nat) (words : List Nat)
    (s : Shelf) : SamePorts s (evaluateReporter e r words s) := by
  unfold evaluateReporter
  split <;> simp

@[simp] theorem samePorts_takeReport (r : Nat) (pairs : List (Nat × Nat)) (time : Time)
    (s : Shelf) : SamePorts s (takeReport r pairs time s) := by
  unfold takeReport
  split <;> simp

/-! ### The Sense Line Unit -/

@[simp] theorem sameDown_editLine (l : Nat) (f : SenseLine → SenseLine) (s : Shelf) :
    SameDown s (editLine l f s) := ⟨rfl, rfl⟩

@[simp] theorem sameDown_followShelfStop (s : Shelf) : SameDown s (followShelfStop s) := by
  simp [followShelfStop]

/-- Each role has its own receiver; a TRAY-GOOD line tells its tray of edges alone. -/
@[simp] theorem sameDown_deliverLine (e : SenseEntry) (l : Nat) (active : Bool)
    (edge : Option Time) (s : Shelf) : SameDown s (deliverLine e l active edge s) := by
  unfold deliverLine
  split
  case h_4 => split <;> simp
  all_goals simp

@[simp] theorem sameDown_acceptLevel (l : Nat) (level : Level) (time : Time) (s : Shelf) :
    SameDown s (acceptLevel l level time s) := by simp [acceptLevel]

@[simp] theorem sameDown_takeSample (l : Nat) (level : Level) (s : Shelf) :
    SameDown s (takeSample l level s) := by simp [takeSample]

@[simp] theorem sameDown_filterSample (l : Nat) (level : Level) (s : Shelf) :
    SameDown s (filterSample l level s) := by simp [filterSample]

@[simp] theorem sameDown_acceptance (first : Bool) (l : Nat) (level : Level) (s : Shelf) :
    SameDown s (acceptance first l level s) := by simp [acceptance]

@[simp] theorem sameDown_withdrawLine (old : SenseEntry) (s : Shelf) :
    SameDown s (withdrawLine old s) := by
  unfold withdrawLine
  split <;> simp

@[simp] theorem sameDown_withdrawSense (l : Nat) (old : SenseEntry) (s : Shelf) :
    SameDown s (withdrawSense l old s) := by simp [withdrawSense]

@[simp] theorem sameDown_deliverSense (l : Nat) (old : SenseEntry) (s : Shelf) :
    SameDown s (deliverSense l old s) := by simp [deliverSense]

/-! ### The Leak Zone Unit -/

@[simp] theorem sameDown_editZone (z : Nat) (f : Zone → Zone) (s : Shelf) :
    SameDown s (editZone z f s) := ⟨rfl, rfl⟩

@[simp] theorem sameDown_tellZone (z : Nat) (old new : ZoneState) (cause : ZoneCause) (s : Shelf) :
    SameDown s (tellZone z old new cause s) := by simp [tellZone, zoneNotice]

@[simp] theorem sameDown_putZone (z : Nat) (cause : ZoneCause) (f : Zone → Zone) (s : Shelf) :
    SameDown s (putZone z cause f s) := by simp [putZone]

@[simp] theorem sameDown_zoneEvaluation (z : Nat) (s : Shelf) : SameDown s (zoneEvaluation z s) := by
  unfold zoneEvaluation
  split <;> simp

@[simp] theorem sameDown_zonesChanged (s : Shelf) : SameDown s (zonesChanged s) := by
  simp [zonesChanged]

@[simp] theorem sameDown_confirmExpiry (z : Nat) (s : Shelf) : SameDown s (confirmExpiry z s) := by
  simp [confirmExpiry]

@[simp] theorem sameDown_clearZone (z : Nat) (s : Shelf) : SameDown s (clearZone z s) := by
  simp [clearZone]

@[simp] theorem sameDown_applyZone (z : Nat) (old : Option ZoneEntry) (s : Shelf) :
    SameDown s (applyZone z old s) := by
  unfold applyZone
  split <;> simp

@[simp] theorem sameDown_placeZone (z : Nat) (s : Shelf) : SameDown s (placeZone z s) := by
  unfold placeZone
  split <;> simp

/-! ### The Program Sequencer -/

@[simp] theorem sameDown_haltRun (cause : HaltCause) (source word : Nat) (s : Shelf) :
    SameDown s (haltRun cause source word s) := by simp [haltRun]

@[simp] theorem sameDown_endRun (step : Nat) (s : Shelf) : SameDown s (endRun step s) := by
  simp [endRun]

@[simp] theorem sameDown_completeStep (named : Nat) (s : Shelf) :
    SameDown s (completeStep named s) := by simp [completeStep]

@[simp] theorem sameDown_waitAt (e : StepEntry) (s : Shelf) : SameDown s (waitAt e s) := by
  simp [waitAt]

@[simp] theorem sameDown_enterStep (n : Nat) (s : Shelf) : SameDown s (enterStep n s) := by
  unfold enterStep
  split
  · simp
  · dsimp only
    split <;> simp

@[simp] theorem sameDown_startTrays (trays : List Nat) (s : Shelf) :
    SameDown s (startTrays trays s) := by
  unfold startTrays
  split
  · simp
  · split
    · split <;> simp
    · simp

@[simp] theorem sameDown_testStep (s : Shelf) : SameDown s (testStep s) := by
  unfold testStep
  split <;> simp

@[simp] theorem sameDown_resumeSequencer (s : Shelf) : SameDown s (resumeSequencer s) := by
  simp [resumeSequencer]

@[simp] theorem sameDown_stepExpiry (s : Shelf) : SameDown s (stepExpiry s) := by
  unfold stepExpiry
  split <;> simp

@[simp] theorem sameDown_delayExpiry (s : Shelf) : SameDown s (delayExpiry s) := by
  unfold delayExpiry
  split <;> simp

@[simp] theorem sameDown_startRun (entry : Nat) (origin : Origin) (s : Shelf) :
    SameDown s (startRun entry origin s) := by simp [startRun]

@[simp] theorem sameDown_abortRun (cause : HaltCause) (s : Shelf) :
    SameDown s (abortRun cause s) := by simp [abortRun]

@[simp] theorem sameDown_seqShelfStop (s : Shelf) : SameDown s (seqShelfStop s) := by
  simp [seqShelfStop]

@[simp] theorem sameDown_autostartTest (s : Shelf) : SameDown s (autostartTest s) := by
  unfold autostartTest
  split <;> simp

/-! ### The downstream ports -/

@[simp] theorem sameDown_editModule (r : Nat) (f : Module → Module) (s : Shelf) :
    SameDown s (editModule r f s) := ⟨rfl, rfl⟩

@[simp] theorem sameDown_tellOwner (e : RosterEntry) (r : Nat) (s : Shelf) :
    SameDown s (tellOwner e r s) := by
  unfold tellOwner
  split <;> simp

@[simp] theorem sameDown_signalsStale (r : Nat) (s : Shelf) : SameDown s (signalsStale r s) := by
  simp [signalsStale]

@[simp] theorem sameDown_moduleAbsentAs (e : RosterEntry) (r : Nat) (missed : Bool) (s : Shelf) :
    SameDown s (moduleAbsentAs e r missed s) := by simp [moduleAbsentAs, tellAbsent, absentNotice]

@[simp] theorem sameDown_moduleAbsent (r : Nat) (missed : Bool) (s : Shelf) :
    SameDown s (moduleAbsent r missed s) := by
  unfold moduleAbsent
  split <;> simp

@[simp] theorem sameDown_countMiss (r : Nat) (s : Shelf) : SameDown s (countMiss r s) := by
  simp [countMiss]

@[simp] theorem sameDown_offerTelemetry (f : Frame) (s : Shelf) :
    SameDown s (offerTelemetry f s) := by simp [offerTelemetry]

@[simp] theorem sameDown_copyReport (r : Nat) (payload : List Byte) (s : Shelf) :
    SameDown s (copyReport r payload s) := by
  unfold copyReport
  split <;> simp

@[simp] theorem sameDown_pollAnswered (r : Nat) (payload : List Byte) (s : Shelf) :
    SameDown s (pollAnswered r payload s) := by simp [pollAnswered]

/-- A POLL, an attempt of a control order and a relayed order end each in its own way. -/
@[simp] theorem sameDown_endAnswered (p : Port) (tx : Transaction) (f : Frame) (s : Shelf) :
    SameDown s (endAnswered p tx f s) := by
  unfold endAnswered
  dsimp only
  split
  · simp
  · split
    · simp
    · split <;> simp
    · simp

@[simp] theorem sameDown_endFailed (p : Port) (tx : Transaction) (s : Shelf) :
    SameDown s (endFailed p tx s) := by
  unfold endFailed
  dsimp only
  split
  · simp
  · split
    · simp
    · split <;> simp
    · simp

@[simp] theorem sameDown_clearMisses (p : Port) (s : Shelf) : SameDown s (clearMisses p s) :=
  sameDown_foldl (by simp) _ s

@[simp] theorem sameDown_abandonFlight (pe : PollEngine) (s : Shelf) :
    SameDown s (abandonFlight pe s) := by
  unfold abandonFlight
  cases pe.inProgress <;> cases pe.inFlight <;> simp

@[simp] theorem sameDown_refuseRelayed (os : List RelayedOrder) (s : Shelf) :
    SameDown s (refuseRelayed os s) := sameDown_foldl (by simp) os s

@[simp] theorem sameDown_absentAll (rs : List Nat) (s : Shelf) : SameDown s (absentAll rs s) := by
  simp [absentAll]

/-! ### The edit window -/

@[simp] theorem sameDown_openWindow (table first count : Nat) (s : Shelf) :
    SameDown s (openWindow table first count s).2 := by
  unfold openWindow
  repeat' split
  all_goals simp

@[simp] theorem sameDown_writeWindow (entry : Nat) (record : Record) (s : Shelf) :
    SameDown s (writeWindow entry record s).2 := by
  unfold writeWindow
  split
  · simp
  · dsimp only
    repeat' split
    all_goals simp

@[simp] theorem sameDown_discardWindow (s : Shelf) : SameDown s (discardWindow s).2 := by
  unfold discardWindow
  split <;> simp

@[simp] theorem sameDown_expireWindow (s : Shelf) : SameDown s (expireWindow s) := by
  unfold expireWindow
  split <;> simp

/-! ### Reads that clear their marks -/

@[simp] theorem sameDown_readLine (line : Nat) (s : Shelf) : SameDown s (readLine line s).2 := by
  unfold readLine
  repeat' split
  all_goals simp [clearCapture]

/-! ### EDIT-APPLY -/

@[simp] theorem sameDown_answerFlight (r : Nat) (pe : PollEngine) (s : Shelf) :
    SameDown s (answerFlight r pe s) := by
  unfold answerFlight
  split <;> simp

@[simp] theorem sameDown_tellPortOff (s : Shelf) (o : ControlOrder) :
    SameDown s (tellPortOff s o) := by
  unfold tellPortOff
  split <;> simp

@[simp] theorem sameDown_removeOrders (p : Port) (r : Nat) (s : Shelf) :
    SameDown s (removeOrders p r s) := by
  have told := fun os s => sameDown_foldl sameDown_tellPortOff os s
  simp [removeOrders, told]

@[simp] theorem sameDown_removeOld (old : List Record) (r : Nat) (s : Shelf) :
    SameDown s (removeOld old r s) := by
  unfold removeOld
  split <;> simp [removeModule]

@[simp] theorem sameDown_admitNew (old : List Record) (r : Nat) (s : Shelf) :
    SameDown s (admitNew old r s) := by simp [admitNew]

@[simp] theorem sameDown_applyRoster (old : List Record) (latched : List Nat) (s : Shelf) :
    SameDown s (applyRoster old latched s) := by
  have removed := sameDown_foldl (f := fun s r => removeOld old r s) (by simp) latched s
  have admitted := sameDown_foldl (f := fun s r => admitNew old r s) (by simp) latched
  simp [applyRoster, removed, admitted]

@[simp] theorem sameDown_absentUnlisted (s : Shelf) : SameDown s (absentUnlisted s) := by
  simp [absentUnlisted]

@[simp] theorem sameDown_applySignal (old : List Record) (n : Nat) (s : Shelf) :
    SameDown s (applySignal old n s) := by
  unfold applySignal
  split <;> simp

@[simp] theorem sameDown_applySampleMap (old : List Record) (s : Shelf) :
    SameDown s (applySampleMap old s) := by
  have applied := sameDown_foldl (f := fun s n => applySignal old n s) (by simp)
    (List.range Config.signalCount) s
  simp [applySampleMap, applied]

@[simp] theorem sameDown_applyLimits (old : List Record) (s : Shelf) :
    SameDown s (applyLimits old s) := by
  have cleared := sameDown_foldl
    (f := fun s (e : SampleEntry) => { s with signals := vmod s.signals e.signal clearPending })
    (by simp) (limitedBy old s) s
  simp [applyLimits, cleared]

@[simp] theorem sameDown_applyLines (old : List Record) (latched : List Nat) (s : Shelf) :
    SameDown s (applyLines old latched s) := by
  simp [applyLines, sameDown_foldl]

@[simp] theorem sameDown_dropOutput (i : Nat) (s : Shelf) : SameDown s (dropOutput i s) := ⟨rfl, rfl⟩

@[simp] theorem sameDown_dropPsm (i : Nat) (s : Shelf) : SameDown s (dropPsm i s) := by
  simp [dropPsm]

@[simp] theorem sameDown_applyPsm (old : List Record) (i : Nat) (s : Shelf) :
    SameDown s (applyPsm old i s) := by
  unfold applyPsm
  split <;> simp

@[simp] theorem sameDown_markUnread (k : Nat) (s : Shelf) : SameDown s (markUnread k s) := ⟨rfl, rfl⟩

@[simp] theorem sameDown_applyBbm (old : List Record) (k : Nat) (s : Shelf) :
    SameDown s (applyBbm old k s) := by
  unfold applyBbm
  split <;> simp

@[simp] theorem sameDown_renewTray (t : Nat) (s : Shelf) : SameDown s (renewTray t s) := by
  simp [renewTray]

@[simp] theorem sameDown_moveToRoster (t : Nat) (s : Shelf) : SameDown s (moveToRoster t s) := by
  simp [moveToRoster]

@[simp] theorem sameDown_applyKeptTray (t : Nat) (a b : TrayEntry) (s : Shelf) :
    SameDown s (applyKeptTray t a b s) := by simp [applyKeptTray]

@[simp] theorem sameDown_applyTray (old : List Record) (t : Nat) (s : Shelf) :
    SameDown s (applyTray old t s) := by
  unfold applyTray
  split <;> simp

@[simp] theorem sameDown_applyTrays (old : List Record) (latched : List Nat) (s : Shelf) :
    SameDown s (applyTrays old latched s) := by
  simp [applyTrays, sameDown_foldl]

/-- Each table has its own side effects. -/
@[simp] theorem sameDown_applyEffects (t : Nat) (old : List Record) (latched : List Nat)
    (s : Shelf) : SameDown s (applyEffects t old latched s) := by
  simp [applyEffects, sameDown_foldl]

@[simp] theorem sameDown_endApply (s : Shelf) : SameDown s (endApply s) := by
  unfold endApply
  split <;> simp

@[simp] theorem sameDown_replaceEntries (w : Window) (s : Shelf) :
    SameDown s (replaceEntries w s) := by simp [replaceEntries]

@[simp] theorem sameDown_applyWindow (s : Shelf) : SameDown s (applyWindow s).2 := by
  unfold applyWindow
  split
  · simp
  · dsimp only
    repeat' split
    all_goals simp

/-! ### The configuration store -/

@[simp] theorem sameDown_completeOperation (weak : Bool) (s : State) :
    SameDown s.toShelf (completeOperation weak s).toShelf := by
  unfold completeOperation
  split
  · simp
  · split <;> simp [completionNotice]

/-! ### Start-up -/

@[simp] theorem sameDown_loadTables (st : Store) (s : Shelf) : SameDown s (loadTables st s) := by
  have loaded := sameDown_foldl (f := loadInto st) (fun _ _ => ⟨rfl, rfl⟩) loadOrder s
  simp [loadTables, editEngine, setEngine, loaded]

@[simp] theorem sameDown_placeTables (s : Shelf) : SameDown s (placeTables s) := by
  simp [placeTables, sameDown_foldl]

@[simp] theorem sameDown_startUp (kind : ResetKind) (st : Store) (s : Shelf) :
    SameDown s (startUp kind st s) := by simp [startUp]

@[simp] theorem sameDown_startAutostart (s : Shelf) : SameDown s (startAutostart s) := by
  simp [startAutostart]

@[simp] theorem sameDown_postStarted (kind : ResetKind) (s : Shelf) :
    SameDown s (postStarted kind s) := by simp [postStarted]



end Sys2Proof.Machine
end

section
/-! PROOF. The depths of the queues (O12, R147, R148, R161, R167, R168). Those of UP, of its classes and of the Poll
Engines are one more property that every kind of change of an event keeps (`ClosedEvent`). The receive queues of SP and
TP lie outside it: no operation puts an entry there, which is said of the operations that change a downstream Port
Engine. -/

namespace Sys2Proof.Machine

/-! ### The receive queues of SP and TP -/

/-- The downstream receive queues of `t` are no longer than those of `s`. -/
abbrev DownWithin (s t : Shelf) : Prop :=
  t.engSp.rx.length ≤ s.engSp.rx.length ∧ t.engTp.rx.length ≤ s.engTp.rx.length

theorem DownWithin.refl (s : Shelf) : DownWithin s s := ⟨Nat.le_refl _, Nat.le_refl _⟩

theorem DownWithin.trans {s t u : Shelf} (first : DownWithin s t) (second : DownWithin t u) : DownWithin s u := by
  obtain ⟨sp, tp⟩ := first
  obtain ⟨sp', tp'⟩ := second
  exact ⟨sp'.trans sp, tp'.trans tp⟩

theorem SameDown.within {s t : Shelf} (same : SameDown s t) : DownWithin s t := by
  obtain ⟨sp, tp⟩ := same
  rw [DownWithin, sp, tp]
  exact DownWithin.refl s

/-- A choice between two states. -/
theorem downWithin_ite {c : Prop} [Decidable c] {s a b : Shelf} (yes : DownWithin s a) (no : DownWithin s b) :
    DownWithin s (if c then a else b) := keep_ite (fun _ => yes) fun _ => no

/-- A Port Engine changes, and its receive queue at most loses entries. -/
theorem downWithin_editEngine (p : Port) {f : PortEngine → PortEngine} (s : Shelf)
    (shrinks : ∀ g, (f g).rx.length ≤ g.rx.length := by simp) : DownWithin s (editEngine p f s) := by
  cases p with
  | up => exact DownWithin.refl s
  | sp => exact ⟨shrinks _, Nat.le_refl _⟩
  | tp => exact ⟨Nat.le_refl _, shrinks _⟩

/-! ### The downstream ports -/

theorem downWithin_countStray (p : Port) (s : Shelf) : DownWithin s (countStray p s) :=
  downWithin_editEngine p s

theorem downWithin_judge (p : Port) (x : RxEntry) (s : Shelf) : DownWithin s (judge p x s) := by
  have failed : ∀ tx z, DownWithin z (endFailed p tx z) := fun tx z => (sameDown_endFailed p tx z).within
  have stray := downWithin_countStray p s
  unfold judge
  split
  · refine downWithin_ite ?_ stray
    split
    · exact failed _ s
    · exact downWithin_ite ((downWithin_editEngine p s).trans (failed _ _))
        (downWithin_ite (sameDown_endAnswered p _ _ s).within stray)
  · exact stray

theorem downWithin_beginTx (p : Port) (tx : Transaction) (f : Frame) (s : Shelf) : DownWithin s (beginTx p tx f s) :=
  (sameDown_editPoll p _ s).within.trans (downWithin_editEngine p _)

theorem downWithin_tryPoll (p : Port) (s : Shelf) : DownWithin s (tryPoll p s).2 := by
  unfold tryPoll
  split
  · dsimp only
    split
    · exact (sameDown_editPoll p _ s).within.trans (downWithin_beginTx p _ _ _)
    · exact (sameDown_editPoll p _ s).within
  · exact DownWithin.refl s

theorem downWithin_beginAttempt (p : Port) (x : Progress) (s : Shelf) : DownWithin s (beginAttempt p x s) :=
  (sameDown_editPoll p _ s).within.trans (downWithin_beginTx p _ _ _)

theorem downWithin_arbitrateOrders (p : Port) (s : Shelf) : DownWithin s (arbitrateOrders p s) := by
  have taken : ∀ pe, DownWithin s (setPoll p pe s) := fun pe => SameDown.within (by simp)
  unfold arbitrateOrders
  dsimp only
  split
  · exact downWithin_beginAttempt p _ s
  · exact (taken _).trans (downWithin_beginAttempt p _ _)
  · exact (taken _).trans (downWithin_beginTx p _ _ _)
  · exact downWithin_tryPoll p s

theorem downWithin_arbitrate (p : Port) (s : Shelf) : DownWithin s (arbitrate p s) := by
  have polled := downWithin_tryPoll p s
  have ordered := downWithin_arbitrateOrders p
  refine downWithin_ite (downWithin_ite ?_ (ordered s)) (DownWithin.refl s)
  split <;> rename_i tried <;> rw [tried] at polled
  · exact polled
  · exact polled.trans (ordered _)

theorem downWithin_enablePort (p : Port) (s : Shelf) : DownWithin s (enablePort p s) :=
  ((downWithin_editEngine p s).trans (sameDown_editPoll p _ _).within).trans
    (sameDown_clearMisses p _).within

/-- A downstream port stopped, with its orders and its transaction dropped (R153). -/
def portOff (p : Port) (s : Shelf) : Shelf :=
  editEngine p (fun e => { e with enabled := false, assembling := none, rx := [], buffer := none, shifter := none })
    (setPoll p
      { pollEngine s p with
        inFlight := none, inProgress := none, control := [], command := [], emptyTimer := .stopped } s)

/-- A disable stops the port, and then acts on the outcomes of what it held (R153; log entry 23). -/
theorem disablePort_eq (p : Port) (s : Shelf) :
    disablePort p s =
      absentAll (modulesOn (emitAll ((pollEngine s p).control.flatMap fun o => outcomeTasks o .portOff)
          (abandonFlight (pollEngine s p) (portOff p s))) p)
        (refuseRelayed (pollEngine s p).command
          (emitAll ((pollEngine s p).control.flatMap fun o => outcomeTasks o .portOff)
            (abandonFlight (pollEngine s p) (portOff p s)))) := rfl

theorem downWithin_portOff (p : Port) (s : Shelf) : DownWithin s (portOff p s) :=
  have idle : ∀ pe, SameDown s (setPoll p pe s) := fun pe => by simp
  (idle _).within.trans (downWithin_editEngine p _)

theorem downWithin_disablePort (p : Port) (s : Shelf) : DownWithin s (disablePort p s) := by
  have told : SameDown (portOff p s) (disablePort p s) := by
    rw [disablePort_eq]
    simp
  exact (downWithin_portOff p s).trans told.within

theorem downWithin_startPort (p : Port) (s : Shelf) : DownWithin s (startPort p s) :=
  (downWithin_editEngine p s).trans
    (downWithin_ite (downWithin_enablePort p _) (sameDown_absentAll _ _).within)

/-! ### The reactions of an event -/

/-- Phase 4 of start-up enables ports; every other reaction leaves the downstream Port Engines alone. -/
theorem downWithin_perform (task : Task) (s : Shelf) : DownWithin s (perform task s) := by
  cases task with
  | startPorts => exact (downWithin_startPort .sp s).trans (downWithin_startPort .tp _)
  | _ => exact SameDown.within (by simp [perform])

theorem downWithin_nextReaction {s t : Shelf} (h : nextReaction s = some t) : DownWithin s t := by
  unfold nextReaction at h
  split at h
  · cases h
    exact downWithin_perform _ _
  · split at h
    · cases h
      exact (sameDown_admissionTry s).within
    · split at h
      · cases h
        exact downWithin_perform _ _
      · cases h

theorem downWithin_runReactions (n : Nat) (s : Shelf) : DownWithin s (runReactions n s) := by
  induction n generalizing s with
  | zero => exact DownWithin.refl s
  | succ n ih =>
    unfold runReactions
    split
    · exact (downWithin_nextReaction ‹_›).trans (ih _)
    · exact DownWithin.refl s

theorem downWithin_react (s : Shelf) : DownWithin s (react s) := downWithin_runReactions _ s

/-! ### Requests -/

theorem downWithin_answerWith (code : Byte) (a : Shelf → Answer) (s : State) :
    DownWithin s.toShelf (answerWith code a s).toShelf := DownWithin.refl s.toShelf

theorem downWithin_storeAnswer (code : Byte) (a : State → Answer) (s : State) :
    DownWithin s.toShelf (storeAnswer code a s).toShelf := DownWithin.refl s.toShelf

theorem downWithin_actWith (code : Byte) {f : Shelf → Byte × Shelf} {s : State}
    (hf : DownWithin s.toShelf (f s.toShelf).2) : DownWithin s.toShelf (actWith code f s).toShelf := hf

theorem downWithin_actAndTell (code : Byte) {f : Shelf → Answer × Shelf} {s : State}
    (hf : DownWithin s.toShelf (f s.toShelf).2) : DownWithin s.toShelf (actAndTell code f s).toShelf := hf

theorem downWithin_storeWith (code : Byte) {f : State → Byte × State} {s : State}
    (same : (f s).2.toShelf = s.toShelf) : DownWithin s.toShelf (storeWith code f s).toShelf := by
  change DownWithin s.toShelf (f s).2.toShelf
  rw [same]
  exact DownWithin.refl _

theorem downWithin_readPort (port : Nat) (s : Shelf) : DownWithin s (readPort port s).2 := by
  unfold readPort
  split
  · exact downWithin_editEngine _ s
  · exact DownWithin.refl s

theorem sameDown_requestClearTray (tray : Nat) (s : Shelf) : SameDown s (requestClearTray tray s).2 := by
  unfold requestClearTray
  repeat' split
  all_goals simp

theorem sameDown_requestRun (step : Nat) (s : Shelf) : SameDown s (requestRun step s).2 := by
  unfold requestRun
  repeat' split
  all_goals simp

theorem sameDown_requestAbort (s : Shelf) : SameDown s (requestAbort s).2 := by
  unfold requestAbort
  split <;> simp

theorem sameDown_requestClearZone (zone : Nat) (epoch : Byte) (s : Shelf) :
    SameDown s (requestClearZone zone epoch s).2 := by
  unfold requestClearZone
  repeat' split
  all_goals simp

theorem downWithin_requestEnable (port : Nat) (s : Shelf) : DownWithin s (requestEnable port s).2 := by
  unfold requestEnable
  split
  · split
    · exact DownWithin.refl s
    · exact downWithin_enablePort _ s
  · exact DownWithin.refl s

theorem downWithin_requestDisable (port : Nat) (s : Shelf) : DownWithin s (requestDisable port s).2 := by
  unfold requestDisable
  split
  · split
    · exact DownWithin.refl s
    · split
      · exact downWithin_disablePort _ s
      · exact DownWithin.refl s
  · exact DownWithin.refl s

theorem downWithin_handleRestart (s : State) : DownWithin s.toShelf (handleRestart s).toShelf := by
  unfold handleRestart
  dsimp only
  split
  · exact SameDown.within (by simp)
  · exact DownWithin.refl _

/-- Every request code has its own operation. -/
theorem downWithin_dispatch (code : Byte) (args : List Byte) (s : State) :
    DownWithin s.toShelf (dispatch code args s).toShelf := by
  unfold dispatch
  refine keep_iteState (fun _ => downWithin_answerWith _ _ _) fun _ => ?_
  refine keep_iteState (fun _ => downWithin_actWith _ (sameDown_openWindow _ _ _ _).within) fun _ => ?_
  refine keep_iteState (fun _ => downWithin_actWith _ (sameDown_writeWindow _ _ _).within) fun _ => ?_
  refine keep_iteState (fun _ => downWithin_actAndTell _ (sameDown_applyWindow _).within) fun _ => ?_
  refine keep_iteState (fun _ => downWithin_actWith _ (sameDown_discardWindow _).within) fun _ => ?_
  refine keep_iteState (fun _ => downWithin_storeWith _ (toShelf_storeErase _ _ _)) fun _ => ?_
  refine keep_iteState (fun _ => downWithin_storeWith _ (toShelf_storeWrite _ _ _ _)) fun _ => ?_
  refine keep_iteState (fun _ => downWithin_storeWith _ (toShelf_storeVerify _ _ _)) fun _ => ?_
  refine keep_iteState (fun _ => downWithin_storeAnswer _ _ _) fun _ => ?_
  refine keep_iteState (fun _ => downWithin_handleRestart s) fun _ => ?_
  refine keep_iteState (fun _ => downWithin_actAndTell _ (sameDown_readLine _ _).within) fun _ => ?_
  refine keep_iteState (fun _ => downWithin_answerWith _ _ _) fun _ => ?_
  refine keep_iteState (fun _ => downWithin_answerWith _ _ _) fun _ => ?_
  refine keep_iteState (fun _ => downWithin_answerWith _ _ _) fun _ => ?_
  refine keep_iteState (fun _ => downWithin_answerWith _ _ _) fun _ => ?_
  refine keep_iteState (fun _ => downWithin_answerWith _ _ _) fun _ => ?_
  refine keep_iteState (fun _ => downWithin_answerWith _ _ _) fun _ => ?_
  refine keep_iteState (fun _ => downWithin_actWith _ (sameDown_requestClearTray _ _).within) fun _ => ?_
  refine keep_iteState (fun _ => downWithin_actWith _ (sameDown_requestRun _ _).within) fun _ => ?_
  refine keep_iteState (fun _ => downWithin_actWith _ (sameDown_requestAbort _).within) fun _ => ?_
  refine keep_iteState (fun _ => downWithin_answerWith _ _ _) fun _ => ?_
  refine keep_iteState (fun _ => downWithin_answerWith _ _ _) fun _ => ?_
  refine keep_iteState (fun _ => downWithin_actWith _ (sameDown_requestClearZone _ _ _).within) fun _ => ?_
  refine keep_iteState (fun _ => downWithin_answerWith _ _ _) fun _ => ?_
  refine keep_iteState (fun _ => downWithin_actWith _ (downWithin_requestEnable _ _)) fun _ => ?_
  exact keep_iteState (fun _ => downWithin_actWith _ (downWithin_requestDisable _ _))
    fun _ => downWithin_actAndTell _ (downWithin_readPort _ _)

theorem downWithin_handleRequest (payload : List Byte) (s : State) :
    DownWithin s.toShelf (handleRequest payload s).toShelf := by
  unfold handleRequest
  dsimp only
  split
  · exact downWithin_dispatch _ _ _
  · exact downWithin_answerWith _ _ _

/-! ### The Router, and the arbiters -/

theorem sameDown_offerUp (x : RxEntry) (s : Shelf) : SameDown s (offerUp x s) := by simp [offerUp, overrunUp]

theorem downWithin_takeEntry (x : RxEntry) (s : State) : DownWithin s.toShelf (takeEntry x s).toShelf := by
  unfold takeEntry
  split
  · exact DownWithin.refl _
  · split
    · exact downWithin_countStray .up _
    · split
      · exact (sameDown_decideOrder _ _ _ _).within
      · exact downWithin_handleRequest _ _

theorem downWithin_arriveUp (x : RxEntry) (s : State) : DownWithin s.toShelf (arriveUp x s).toShelf :=
  keep_iteState (fun _ => downWithin_takeEntry x s) fun _ => (sameDown_offerUp x s.toShelf).within

theorem downWithin_damageUp (s : State) : DownWithin s.toShelf (damageUp s).toShelf :=
  (downWithin_editEngine .up s.toShelf).trans (downWithin_arriveUp .damage _)

theorem downWithin_receiveUp (f : Frame) (s : State) : DownWithin s.toShelf (receiveUp f s).toShelf := by
  unfold receiveUp
  refine keep_iteState (fun _ => keep_iteState (fun _ => ?_) fun _ => downWithin_damageUp s) fun _ => DownWithin.refl _
  exact (downWithin_editEngine .up s.toShelf).trans (downWithin_arriveUp (.frame f) _)

theorem downWithin_routeWaiting (n : Nat) (s : State) : DownWithin s.toShelf (routeWaiting n s).toShelf := by
  induction n generalizing s with
  | zero => exact DownWithin.refl _
  | succ n ih =>
    unfold routeWaiting
    split
    · refine keep_iteState (fun _ => ?_) fun _ => DownWithin.refl _
      have taken := downWithin_takeEntry ‹RxEntry›
        (onShelf (fun s => { s with engUp := { s.engUp with rx := ‹List RxEntry› } }) s)
      exact (taken.trans (downWithin_react _)).trans (ih _)
    · exact DownWithin.refl _

theorem sameDown_arbitrateUp (s : Shelf) : SameDown s (arbitrateUp s) := by
  unfold arbitrateUp
  refine keep_ite (fun _ => ?_) fun _ => ⟨rfl, rfl⟩
  split
  case h_1 f t chosen =>
    have links := withLinks_chooseUp chosen
    change SameDown s t
    rw [links]
    exact ⟨rfl, rfl⟩
  case h_2 => exact ⟨rfl, rfl⟩

theorem downWithin_onShelf {f : Shelf → Shelf} (hf : ∀ x, DownWithin x (f x)) (s : State) :
    DownWithin s.toShelf (onShelf f s).toShelf := hf s.toShelf

theorem downWithin_closing (s : State) : DownWithin s.toShelf (closing s).toShelf := by
  refine DownWithin.trans ?_
    (downWithin_onShelf (fun x => (downWithin_arbitrate .sp x).trans (downWithin_arbitrate .tp _)) _)
  refine DownWithin.trans ?_ (downWithin_routeWaiting _ _)
  refine DownWithin.trans ?_ (downWithin_onShelf (fun x => (sameDown_arbitrateUp x).within) _)
  exact (downWithin_onShelf downWithin_react s).trans (downWithin_routeWaiting _ _)

/-! ### Resets, events and commands -/

/-- A reset empties every receive queue. -/
theorem downWithin_resetBlocks (kind : ResetKind) (s : Shelf) : DownWithin s (resetBlocks kind s) := by
  cases kind <;> exact ⟨Nat.zero_le _, Nat.zero_le _⟩

theorem downWithin_resetPart (kind : ResetKind) (s : State) : DownWithin s.toShelf (resetPart kind s).toShelf :=
  (downWithin_resetBlocks kind s.toShelf).trans (sameDown_startUp kind _ _).within

theorem downWithin_endUp (s : State) : DownWithin s.toShelf (endUp s).toShelf :=
  keep_iteState
    (fun _ => keep_iteState (fun _ => downWithin_resetPart .restart s)
      fun _ => downWithin_editEngine .up s.toShelf)
    fun _ => DownWithin.refl _

theorem downWithin_damageOn (p : Port) (s : State) : DownWithin s.toShelf (damageOn p s).toShelf :=
  keep_iteState (fun _ => downWithin_damageUp s) fun _ =>
    (downWithin_editEngine p s.toShelf).trans (downWithin_judge p .damage _)

theorem downWithin_deliverOn (p : Port) (f : Frame) (s : State) :
    DownWithin s.toShelf (deliverOn p f s).toShelf :=
  keep_iteState (fun _ => downWithin_receiveUp f s) fun _ =>
    (downWithin_editEngine p s.toShelf).trans (downWithin_judge p (.frame f) _)

theorem downWithin_endDown (p : Port) (s : Shelf) : DownWithin s (endDown p s) :=
  downWithin_ite
    ((downWithin_editEngine p s).trans (sameDown_editPoll p _ _).within)
    (DownWithin.refl s)

theorem sameDown_shiftUp (s : Shelf) : SameDown s (shiftUp s) := by
  unfold shiftUp
  split <;> simp

theorem sameDown_replyExpiry (p : Port) (s : Shelf) : SameDown s (replyExpiry p s) := by
  unfold replyExpiry
  split <;> simp

theorem downWithin_wholeEvent (e : Ambient) {f : State → State} (s : State)
    (hf : ∀ s, DownWithin s.toShelf (f s).toShelf) : DownWithin s.toShelf (wholeEvent e f s).toShelf :=
  (hf (opening e s)).trans (downWithin_closing _)

theorem downWithin_event (e : Ambient) {f : Shelf → Shelf} (s : State) (hf : ∀ s, DownWithin s (f s)) :
    DownWithin s.toShelf (event e f s).toShelf :=
  downWithin_wholeEvent e (f := onShelf f) s fun s => hf s.toShelf

/-- No command lengthens a downstream receive queue, row after row of the table. -/
theorem exec_downWithin (c : Instr) (s : State) : ∃ t, exec c s = .next t ∧ DownWithin s.toShelf t.toShelf := by
  cases c with
  | powerOnReset => exact ⟨_, rfl, downWithin_wholeEvent _ s (downWithin_resetPart .powerOn)⟩
  | resetLine => exact ⟨_, rfl, downWithin_wholeEvent _ s (downWithin_resetPart .line)⟩
  | restartPerform =>
    exact ⟨_, rfl, downWithin_wholeEvent _ s fun s =>
      keep_iteState (fun _ => downWithin_endUp s) fun _ => DownWithin.refl _⟩
  | frameReceived =>
    refine ⟨_, rfl, downWithin_wholeEvent _ s fun s => ?_⟩
    split
    · exact downWithin_deliverOn _ _ s
    all_goals exact DownWithin.refl _
  | frameDamaged | gapLimitExpiry =>
    exact ⟨_, rfl, downWithin_wholeEvent _ s fun s =>
      keep_iteState (fun _ => downWithin_damageOn _ s) fun _ => DownWithin.refl _⟩
  | transmitEnd =>
    exact ⟨_, rfl, downWithin_wholeEvent _ s fun s =>
      keep_iteState (fun _ => downWithin_endUp s) fun _ => downWithin_endDown _ s.toShelf⟩
  | storeOperationComplete =>
    exact ⟨_, rfl, downWithin_wholeEvent _ s fun s => (sameDown_completeOperation _ s).within⟩
  | upStrayFrame | order | requestInvalidCode =>
    exact ⟨_, rfl, downWithin_wholeEvent _ s (downWithin_receiveUp _)⟩
  | startCharacterReceived =>
    exact ⟨_, rfl, downWithin_event _ s fun s =>
      downWithin_ite (downWithin_editEngine _ s) (DownWithin.refl s)⟩
  | shifterFinishesFrame => exact ⟨_, rfl, downWithin_event _ s fun s => (sameDown_shiftUp s).within⟩
  | replyTimerExpiry => exact ⟨_, rfl, downWithin_event _ s fun s => (sameDown_replyExpiry _ s).within⟩
  | emptyPassTimerExpiry =>
    exact ⟨_, rfl, downWithin_event _ s fun s => SameDown.within (by simp [emptyPassExpiry])⟩
  | forwardIntervalExpiry =>
    exact ⟨_, rfl, downWithin_event _ s fun s => SameDown.within (by simp [forwardExpiry])⟩
  | staleTimeExpiry => exact ⟨_, rfl, downWithin_event _ s fun s => SameDown.within (by simp [staleExpiry])⟩
  | startTimerExpiry => exact ⟨_, rfl, downWithin_event _ s fun s => SameDown.within (by simp [startExpiry])⟩
  | upDamageMarkTaken | editIdleTimerExpiry | lineEdge | firstAcceptance | energyTick | qualifyTimerExpiry
  | confirmTimerExpiry | stepTimerExpiry | delayTimerExpiry | autostart | filterSample =>
    exact ⟨_, rfl, downWithin_event _ s fun s => SameDown.within (by simp)⟩
  | _ => exact ⟨_, rfl, downWithin_wholeEvent _ s (downWithin_receiveUp _)⟩

/-! ### O12 -/

/-- The receive queue of UP, the upstream classes and the Poll Engines are within their bounds. -/
def LinksAndPollsBounded (s : Shelf) : Prop :=
  s.engUp.rx.length ≤ Config.rxDepth ∧ LinksBounded s ∧ PollBounded s.pollSp ∧ PollBounded s.pollTp

/-- Every kind of change of an event keeps these bounds: a change of the classes or of a Poll Engine is one that does,
and a reset empties every queue. -/
theorem closedEvent_linksAndPollsBounded : ClosedEvent LinksAndPollsBounded where
  free _ h := h
  links x kept same h := by
    obtain ⟨rx, links, sp, tp⟩ := h
    exact ⟨same ▸ rx, kept links, sp, tp⟩
  polls a b sp' tp' h := by
    obtain ⟨rx, links, sp, tp⟩ := h
    exact ⟨rx, links, sp' sp, tp' tp⟩
  balance _ _ h := h
  bay _ _ h := h
  ride _ _ _ _ h := h
  seq _ _ h := h
  restart _ _ h := h
  rideOn _ _ _ _ h := h
  clock _ _ h := h
  tables _ h := h
  rx e kept h := by
    obtain ⟨rx, rest⟩ := h
    exact ⟨kept rx, rest⟩
  pend _ h := h
  reset kind _ := by
    have empty : LinksAndPollsBounded resetShelf := by
      unfold LinksAndPollsBounded
      decide
    cases kind <;> exact empty

/-- Settles O12: the queues of UP and of the Poll Engines by `ClosedEvent`, the receive queues of SP and TP because no
operation lengthens them (`exec_downWithin`). -/
theorem queuesKept : Obligations.QueuesKept := by
  intro c s t bounded next
  obtain ⟨rx, replies, notices, telemetry, run, sp, tp⟩ := bounded
  have up : LinksAndPollsBounded s.toShelf := ⟨rx .up (by simp), ⟨replies, notices, telemetry, run⟩, sp, tp⟩
  obtain ⟨rxUp, ⟨replies', notices', telemetry', run'⟩, sp', tp'⟩ := closedEvent_linksAndPollsBounded.exec c up next
  obtain ⟨_, done, rxSp, rxTp⟩ := exec_downWithin c s
  cases done.symm.trans next
  refine ⟨fun p _ => ?_, replies', notices', telemetry', run', sp', tp'⟩
  cases p with
  | up => exact rxUp
  | sp => exact rxSp.trans (rx .sp (by simp))
  | tp => exact rxTp.trans (rx .tp (by simp))

end Sys2Proof.Machine
end

section
/-! PROOF. PORT-ENABLE and PORT-DISABLE (O34, R152, R153): the modules of a port, an enabled port, and a disabled one
with the outcomes of what it held. -/

namespace Sys2Proof.Machine

/-! ### The modules of a port -/

theorem modulesOn_ascends (x : Shelf) (p : Port) : (modulesOn x p).Pairwise (· < ·) :=
  (List.pairwise_lt_range.filter _).filter _

theorem mem_modulesOn (x : Shelf) (p : Port) (r : Nat) :
    r ∈ modulesOn x p ↔ r < 48 ∧ ∃ m, rosterAt x r = some m ∧ m.port = p := by
  simp only [modulesOn, rostersInUse, List.mem_filter, List.mem_range, Option.any_eq_true, decide_eq_true_eq,
    Config.rosterCount]
  constructor
  · rintro ⟨⟨low, _⟩, on⟩
    exact ⟨low, on⟩
  · rintro ⟨low, m, entry, on⟩
    exact ⟨⟨low, Option.isSome_of_eq_some entry⟩, m, entry, on⟩

theorem modulesOn_of_tables {x y : Shelf} (tables : y.tables = x.tables) (p : Port) :
    modulesOn y p = modulesOn x p := by
  unfold modulesOn rostersInUse rosterAt recordAt
  rw [tables]

/-! ### An enabled port (R152) -/

/-- No miss is counted on a module. -/
def unmissed (m : Module) : Module := { m with misses := 0 }

theorem foldl_unmissed_eq (rs : List Nat) (x : Shelf) :
    rs.foldl (fun s r => editModule r unmissed s) x =
      { x with modules := (rs.foldl (fun s r => editModule r unmissed s) x).modules } := by
  induction rs generalizing x with
  | nil => rfl
  | cons r rs ih =>
    rw [List.foldl_cons, ih]
    rfl

theorem vget_foldl_unmissed (rs : List Nat) (x : Shelf) {r : Nat} (hr : r < 48) :
    vget (rs.foldl (fun s r => editModule r unmissed s) x).modules r =
      if r ∈ rs then unmissed (vget x.modules r) else vget x.modules r := by
  induction rs generalizing x with
  | nil => rfl
  | cons u rs ih =>
    have once : vget (editModule u unmissed x).modules r =
        if u = r then unmissed (vget x.modules r) else vget x.modules r := by
      simp [editModule, vget_vmod, hr]
    rw [List.foldl_cons, ih, once]
    by_cases same : u = r
    · simp [same, unmissed]
    · simp [same, Ne.symm same]

/-- A port idle on the settings of its entry, its search at the start. -/
def portOn (p : Port) (x : Shelf) : Shelf :=
  setPoll p { pollEngine x p with position := 31, pass := 7, nonPollRun := 0, emptyTimer := .stopped }
    (setEngine p
      { engine x p with
        enabled := true, settings := portEntry x p, assembling := none, rx := [], buffer := none, shifter := none } x)

theorem enablePort_eq (p : Port) (x : Shelf) :
    enablePort p x = (modulesOn x p).foldl (fun s r => editModule r unmissed s) (portOn p x) := by cases p <;> rfl

theorem modules_enablePort (p : Port) (x : Shelf) {r : Nat} (hr : r < 48) :
    vget (enablePort p x).modules r =
      if r ∈ modulesOn x p then { vget x.modules r with misses := 0 } else vget x.modules r := by
  have same : (portOn p x).modules = x.modules := by simp [portOn]
  rw [enablePort_eq, vget_foldl_unmissed _ _ hr, same]
  rfl

/-- Enabling touches the port's two engines and the presence records. -/
theorem enablePort_portOn (p : Port) (x : Shelf) :
    enablePort p x = { portOn p x with modules := (enablePort p x).modules } := by
  rw [enablePort_eq]
  exact foldl_unmissed_eq _ _

theorem enablePort_spec {p : Port} (down : p ≠ .up) (x : Shelf) :
    engine (enablePort p x) p = { engine x p with
        enabled := true, settings := portEntry x p, assembling := none, rx := [], buffer := none
        shifter := none } ∧
      pollEngine (enablePort p x) p = { pollEngine x p with
        position := 31, pass := 7, nonPollRun := 0, emptyTimer := .stopped } ∧
      enablePort p x = { x with
        engSp := (enablePort p x).engSp, engTp := (enablePort p x).engTp
        pollSp := (enablePort p x).pollSp, pollTp := (enablePort p x).pollTp
        modules := (enablePort p x).modules } := by
  rw [enablePort_portOn]
  cases p with
  | up => exact absurd rfl down
  | sp | tp => exact ⟨rfl, rfl, rfl⟩

/-- Enabling leaves no reaction, and UP as it is. -/
theorem still_enablePort {p : Port} (down : p ≠ .up) {s : State} (still : Still s) :
    Still (onShelf (enablePort p) s) := by
  obtain ⟨-, -, frame⟩ := enablePort_spec down s.toShelf
  change Quiet (enablePort p s.toShelf) ∧ (enablePort p s.toShelf).engUp.rx = []
  rw [frame]
  exact still

/-! ### A disabled port (R153) -/

/-- What a reply does to the REPLY queue and the reply wait depends on these alone (R165). -/
theorem placeReply_congr (f : TxFrame) {x y : Shelf} (replies : y.replies = x.replies)
    (wait : y.replyWait = x.replyWait) :
    (placeReply f y).replies = (placeReply f x).replies ∧ (placeReply f y).replyWait = (placeReply f x).replyWait := by
  unfold placeReply
  rw [replies, wait]
  split <;> exact ⟨by simp, by simp⟩

theorem answerPortOff_congr (os : List (Byte × Byte)) {x y : Shelf} (replies : y.replies = x.replies)
    (wait : y.replyWait = x.replyWait) :
    (answerPortOff os y).replies = (answerPortOff os x).replies ∧
      (answerPortOff os y).replyWait = (answerPortOff os x).replyWait := by
  induction os generalizing x y with
  | nil => exact ⟨replies, wait⟩
  | cons o os ih =>
    obtain ⟨replies', wait'⟩ := placeReply_congr ⟨orderAck o.1 o.2 0x84, false⟩ replies wait
    exact ih replies' wait'

/-- The answers touch the REPLY queue and the reply wait alone. -/
theorem answerPortOff_eq (os : List (Byte × Byte)) (x : Shelf) :
    answerPortOff os x = { x with
      replies := (answerPortOff os x).replies, replyWait := (answerPortOff os x).replyWait } := by
  have placed : answerPortOff os x = placeReplies (os.map fun o => orderAck o.1 o.2 0x84) x := by
    rw [placeReplies, List.foldl_map]
    rfl
  rw [placed, placeReplies_eq]

theorem answerPortOff_emitAll (os : List (Byte × Byte)) (ts : List Task) (x : Shelf) :
    answerPortOff os (emitAll ts x) = emitAll ts (answerPortOff os x) := by
  obtain ⟨replies, wait⟩ := answerPortOff_congr os (x := x) (y := emitAll ts x) rfl rfl
  rw [answerPortOff_eq os (emitAll ts x), replies, wait, answerPortOff_eq os x]
  rfl

/-- The relayed orders that a disable answers PORT-OFF: the one in flight, then those queued (R153). -/
def relayedAll (pe : PollEngine) : List (Byte × Byte) :=
  ((pe.inFlight.toList.filter fun tx => tx.kind = .command ∧ tx.discarded = false).map
      fun tx => (tx.address, tx.code.getD 0)) ++
    pe.command.map fun o => (o.address, o.code)

/-- The outcomes of the part's own orders at a disable: of the one in progress, then of those queued (R153). -/
def ordersOff (pe : PollEngine) : List Task :=
  (pe.inProgress.toList.flatMap fun g => outcomeTasks g.order .portOff) ++
    pe.control.flatMap fun o => outcomeTasks o .portOff

/-- The modules that a disable makes ABSENT (R153). -/
def absences (x : Shelf) (p : Port) : List Task :=
  ((modulesOn x p).filter fun r => (vget x.modules r).presence ≠ .absent).map fun r => Task.moduleAbsent r false

/-- A relayed order in flight is answered, unless its module has left the Roster (R153, R154). -/
theorem answerPortOff_flight (tx : Transaction) (x : Shelf) :
    (if tx.kind = .command ∧ !tx.discarded then answerOrder tx.address (tx.code.getD 0) ackPortOff x else x) =
      answerPortOff (([tx].filter fun tx => tx.kind = .command ∧ tx.discarded = false).map
        fun tx => (tx.address, tx.code.getD 0)) x := by
  by_cases mine : tx.kind = .command ∧ tx.discarded = false
  · simp [mine, answerPortOff]
    rfl
  · simp [mine, answerPortOff]

theorem abandonFlight_eq (pe : PollEngine) (x : Shelf) :
    abandonFlight pe x =
      answerPortOff ((pe.inFlight.toList.filter fun tx => tx.kind = .command ∧ tx.discarded = false).map
          fun tx => (tx.address, tx.code.getD 0))
        (emitAll (pe.inProgress.toList.flatMap fun g => outcomeTasks g.order .portOff) x) := by
  have nothing : emitAll [] x = x := by simp [emitAll]
  unfold abandonFlight
  cases pe.inProgress with
  | none =>
    simp only [Option.toList_none, List.flatMap_nil, nothing]
    cases pe.inFlight with
    | none => rfl
    | some tx => exact answerPortOff_flight tx x
  | some g =>
    simp only [Option.toList_some, List.flatMap_singleton]
    cases pe.inFlight with
    | none => rfl
    | some tx => exact answerPortOff_flight tx _

/-- A disable, its outcomes in their order: the part's own orders, the relayed orders, the modules. -/
theorem disablePort_outcomes (p : Port) (x : Shelf) :
    disablePort p x =
      emitAll (ordersOff (pollEngine x p) ++ absences x p)
        (answerPortOff (relayedAll (pollEngine x p)) (portOff p x)) := by
  have refused : refuseRelayed (pollEngine x p).command
      (emitAll ((pollEngine x p).control.flatMap fun o => outcomeTasks o .portOff)
        (abandonFlight (pollEngine x p) (portOff p x))) =
      emitAll (ordersOff (pollEngine x p)) (answerPortOff (relayedAll (pollEngine x p)) (portOff p x)) := by
    rw [refuseRelayed_eq, abandonFlight_eq, answerPortOff_emitAll, ← answerPortOff_append, answerPortOff_emitAll]
    simp [emitAll, ordersOff, relayedAll]
  have tables : (emitAll ((pollEngine x p).control.flatMap fun o => outcomeTasks o .portOff)
      (abandonFlight (pollEngine x p) (portOff p x))).tables = x.tables := by
    rw [abandonFlight_eq, answerPortOff_eq]
    cases p <;> rfl
  have modules : (emitAll (ordersOff (pollEngine x p))
      (answerPortOff (relayedAll (pollEngine x p)) (portOff p x))).modules = x.modules := by
    rw [answerPortOff_eq]
    cases p <;> rfl
  rw [disablePort_eq, refused, modulesOn_of_tables tables, absentAll, modules, absences]
  simp [emitAll]

theorem disablePort_spec (p : Port) (x : Shelf) :
    disablePort p x = { portOff p x with
      raised := x.raised ++ (ordersOff (pollEngine x p) ++ absences x p)
      replies := (answerPortOff (relayedAll (pollEngine x p)) x).replies
      replyWait := (answerPortOff (relayedAll (pollEngine x p)) x).replyWait } := by
  have kept : (portOff p x).replies = x.replies ∧ (portOff p x).replyWait = x.replyWait ∧
      (portOff p x).raised = x.raised := by cases p <;> exact ⟨rfl, rfl, rfl⟩
  obtain ⟨replies, wait, raised⟩ := kept
  obtain ⟨replies', wait'⟩ := answerPortOff_congr (relayedAll (pollEngine x p)) replies wait
  rw [disablePort_outcomes, answerPortOff_eq, replies', wait', emitAll, raised]

/-! ### The requests -/

section Requests

variable {n : Nat} {x : Shelf}

theorem requestEnable_refused {p : Port} (is : named ports n = some p)
    (refused : p = .up ∨ (engine x p).enabled = true) : requestEnable n x = (stInvalid, x) := by
  rw [requestEnable, is]
  exact if_pos refused

theorem requestEnable_enables {p : Port} (is : named ports n = some p) (down : p ≠ .up)
    (off : (engine x p).enabled = false) : requestEnable n x = (stDone, enablePort p x) := by
  rw [requestEnable, is]
  exact if_neg (by simp [down, off])

theorem requestDisable_up (is : named ports n = some .up) : requestDisable n x = (stInvalid, x) := by
  rw [requestDisable, is]
  rfl

theorem requestDisable_disables {p : Port} (is : named ports n = some p) (down : p ≠ .up)
    (on : (engine x p).enabled = true) : requestDisable n x = (stDone, disablePort p x) := by
  rw [requestDisable, is]
  exact (if_neg down).trans (if_pos on)

theorem requestDisable_off {p : Port} (is : named ports n = some p) (down : p ≠ .up)
    (off : (engine x p).enabled = false) : requestDisable n x = (stDone, x) := by
  rw [requestDisable, is]
  exact (if_neg down).trans (if_neg (by simp [off]))

/-- A number of no port. -/
theorem requestPort_outside (high : 2 < n) :
    requestEnable n x = (stInvalid, x) ∧ requestDisable n x = (stInvalid, x) := by
  rw [requestEnable, requestDisable, named_ports_isNone high]
  exact ⟨rfl, rfl⟩

end Requests

section Commands

variable (e : Ambient) {s : State} (calm : Calm s)
include calm

theorem exec_portEnable_refused {p status : Byte}
    (given : requestEnable p.toNat (heard e s).toShelf = (status, (heard e s).toShelf)) :
    exec (.portEnable e p) s = .next (answered rqPortEnable status [] (heard e s)) :=
  congrArg Host.Outcome.next (request_refused e calm (f := requestEnable p.toNat) (by simp) rfl (fun _ => rfl) given)

theorem exec_portDisable_refused {p status : Byte}
    (given : requestDisable p.toNat (heard e s).toShelf = (status, (heard e s).toShelf)) :
    exec (.portDisable e p) s = .next (answered rqPortDisable status [] (heard e s)) :=
  congrArg Host.Outcome.next (request_refused e calm (f := requestDisable p.toNat) (by simp) rfl (fun _ => rfl) given)

theorem exec_portEnable_enables {p : Port} {b : Byte} (down : p ≠ .up)
    (given : requestEnable b.toNat (heard e s).toShelf = (stDone, enablePort p (heard e s).toShelf)) :
    exec (.portEnable e b) s = .next (answered rqPortEnable stDone [] (onShelf (enablePort p) (heard e s))) :=
  congrArg Host.Outcome.next
    ((request_decided e calm.1 (f := requestEnable b.toNat) (by simp) rfl (fun _ => rfl) given).trans
      (closing_told rqPortEnable stDone [] (still_enablePort down (still_heard e calm))))

theorem exec_portDisable_disables {p : Port} {b : Byte}
    (given : requestDisable b.toNat (heard e s).toShelf = (stDone, disablePort p (heard e s).toShelf)) :
    exec (.portDisable e b) s =
      .next (closing (told rqPortDisable stDone [] (onShelf (disablePort p) (heard e s)))) :=
  congrArg Host.Outcome.next
    (request_decided e calm.1 (f := requestDisable b.toNat) (by simp) rfl (fun _ => rfl) given)

/-- UP and the numbers of no port are refused by both requests. -/
theorem exec_port_outside {b : Byte} (outside : b.toNat = 0 ∨ 2 < b.toNat) :
    exec (.portEnable e b) s = .next (answered rqPortEnable stInvalid [] (heard e s)) ∧
      exec (.portDisable e b) s = .next (answered rqPortDisable stInvalid [] (heard e s)) := by
  obtain up | high := outside
  · have is : named ports b.toNat = some .up := by
      rw [up]
      rfl
    exact ⟨exec_portEnable_refused e calm (requestEnable_refused is (.inl rfl)),
      exec_portDisable_refused e calm (requestDisable_up is)⟩
  · obtain ⟨enable, disable⟩ := requestPort_outside (x := (heard e s).toShelf) high
    exact ⟨exec_portEnable_refused e calm enable, exec_portDisable_refused e calm disable⟩

end Commands

/-- The opening of a request's event leaves which ports run. -/
theorem enabled_heard (e : Ambient) (s : State) (p : Port) :
    (engine (heard e s).toShelf p).enabled = (engine s.toShelf p).enabled := by cases p <;> rfl

/-- Settles O34: each request by the port it names and whether that port runs; an enabled port as `portOn`, a disabled
one as `portOff` with the outcomes of what it held. -/
theorem portRequestsDecided : Obligations.PortRequestsDecided := by
  refine ⟨fun e s calm => ⟨fun b => exec_port_outside e calm, fun p down => ⟨fun on => ?_, fun off => ?_⟩⟩,
    fun p x => ⟨modulesOn_ascends x p, mem_modulesOn x p⟩, fun p x down => ⟨?_, ?_⟩⟩
  · have is : named ports (BitVec.ofNat 8 (portNumber p)).toNat = some p := by rw [toNat_portNumber, named_portNumber]
    have runs := (enabled_heard e s p).trans on
    exact ⟨exec_portEnable_refused e calm (requestEnable_refused is (.inr runs)),
      exec_portDisable_disables e calm (requestDisable_disables is down runs)⟩
  · have is : named ports (BitVec.ofNat 8 (portNumber p)).toNat = some p := by rw [toNat_portNumber, named_portNumber]
    have stopped := (enabled_heard e s p).trans off
    exact ⟨exec_portEnable_enables e calm down (requestEnable_enables is down stopped),
      exec_portDisable_refused e calm (requestDisable_off is down stopped)⟩
  · obtain ⟨engine, poll, frame⟩ := enablePort_spec down x
    exact ⟨engine, poll, fun r hr => modules_enablePort p x hr, frame⟩
  · dsimp only
    rw [disablePort_spec]
    cases p with
    | up => exact absurd rfl down
    | sp | tp =>
      refine ⟨rfl, rfl, rfl, rfl, rfl, rfl, rfl, rfl, rfl, rfl, ⟨?_, rfl, rfl⟩, rfl⟩
      simp only [ordersOff, absences, List.append_assoc]

end Sys2Proof.Machine
end

section
/-! PROOF. The Guard (O35, R148, R150, R151): the entries its tests look up, an ORDER from its frame to the decision,
the tests in order, and the relay. -/

namespace Sys2Proof.Machine

/-! ### Look-ups in ascending order -/

/-- The first answer of an ascending search is that of the lowest place that has one. -/
theorem findSome?_range_eq_some {β : Type} {n : Nat} {f : Nat → Option β} {b : β} :
    (List.range n).findSome? f = some b ↔ ∃ i < n, f i = some b ∧ ∀ u < i, f u = none := by
  rw [List.findSome?_eq_some_iff]
  constructor
  · rintro ⟨front, i, back, split, found, before⟩
    have place : i = front.length := by
      have there : (List.range n)[front.length]? = some i := by rw [split]; simp
      obtain ⟨_, same⟩ := List.getElem?_eq_some_iff.mp there
      simpa using same.symm
    have low : front.length < n := by
      have size := congrArg List.length split
      simp at size
      omega
    have lower : front = List.range front.length := by
      have taken := congrArg (List.take front.length) split
      simpa [List.take_range, Nat.min_eq_left low.le] using taken.symm
    refine ⟨i, place ▸ low, found, fun u hu => before u ?_⟩
    rw [lower, List.mem_range]
    exact place ▸ hu
  · rintro ⟨i, low, found, before⟩
    refine ⟨List.range i, i, (List.range n).drop (i + 1), ?_, found, fun u hu => before u (List.mem_range.mp hu)⟩
    have cut := (List.take_append_drop i (List.range n)).symm
    rwa [List.drop_eq_getElem_cons (by simpa using low), List.getElem_range, List.take_range,
      Nat.min_eq_left low.le] at cut

theorem findSome?_range_eq_none {β : Type} {n : Nat} {f : Nat → Option β} :
    (List.range n).findSome? f = none ↔ ∀ i < n, f i = none := by
  simp [List.findSome?_eq_none_iff]

/-- What one Roster entry answers to a search for an address. -/
def moduleHere (x : Shelf) (a u : Nat) : Option (Nat × RosterEntry) :=
  (rosterAt x u).bind fun e => if e.address = a then some (u, e) else none

theorem moduleAt_search (x : Shelf) (a : Nat) : moduleAt x a = (List.range 48).findSome? (moduleHere x a) := by
  refine congrArg (List.findSome? · (List.range 48)) (funext fun u => ?_)
  unfold moduleHere
  cases rosterAt x u <;> rfl

theorem moduleHere_eq_some {x : Shelf} {a u r : Nat} {m : RosterEntry} :
    moduleHere x a u = some (r, m) ↔ u = r ∧ rosterAt x u = some m ∧ m.address = a := by
  simp only [moduleHere, Option.bind_eq_some_iff, Option.ite_none_right_eq_some, Option.some.injEq, Prod.mk.injEq]
  constructor
  · rintro ⟨e, entry, here, place, rfl⟩
    exact ⟨place, entry, here⟩
  · rintro ⟨place, entry, here⟩
    exact ⟨m, entry, here, place, rfl⟩

theorem moduleHere_eq_none {x : Shelf} {a u : Nat} :
    moduleHere x a u = none ↔ ∀ g, rosterAt x u = some g → g.address ≠ a := by
  simp [moduleHere, Option.bind_eq_none_iff]

theorem moduleAt_eq_some (x : Shelf) (a r : Nat) (m : RosterEntry) :
    moduleAt x a = some (r, m) ↔
      (r < 48 ∧ rosterAt x r = some m ∧ m.address = a ∧ ∀ u < r, ∀ g, rosterAt x u = some g → g.address ≠ a) := by
  simp only [moduleAt_search, findSome?_range_eq_some, moduleHere_eq_some, moduleHere_eq_none]
  constructor
  · rintro ⟨_, low, ⟨rfl, entry, here⟩, before⟩
    exact ⟨low, entry, here, before⟩
  · rintro ⟨low, entry, here, before⟩
    exact ⟨r, low, ⟨rfl, entry, here⟩, before⟩

theorem moduleAt_eq_none (x : Shelf) (a : Nat) :
    moduleAt x a = none ↔ ∀ r < 48, ∀ m, rosterAt x r = some m → m.address ≠ a := by
  simp only [moduleAt_search, findSome?_range_eq_none, moduleHere_eq_none]

/-- What one Guard entry answers to a search for a code and a kind. -/
def guardHere (x : Shelf) (c : Byte) (kind : ModuleKind) (u : Nat) : Option GuardAction :=
  (guardAt x u).bind fun e => if e.code = c ∧ e.kind = kind then some e.action else none

theorem guardAction_search (x : Shelf) (c : Byte) (kind : ModuleKind) :
    guardAction x c kind = (List.range 32).findSome? (guardHere x c kind) := by
  refine congrArg (List.findSome? · (List.range 32)) (funext fun u => ?_)
  unfold guardHere
  cases guardAt x u <;> rfl

theorem guardHere_eq_some {x : Shelf} {c : Byte} {kind : ModuleKind} {u : Nat} {action : GuardAction} :
    guardHere x c kind u = some action ↔ guardAt x u = some ⟨c, kind, action⟩ := by
  simp only [guardHere, Option.bind_eq_some_iff, Option.ite_none_right_eq_some, Option.some.injEq]
  constructor
  · rintro ⟨e, entry, ⟨rfl, rfl⟩, rfl⟩
    exact entry
  · exact fun entry => ⟨_, entry, ⟨rfl, rfl⟩, rfl⟩

theorem guardHere_eq_none {x : Shelf} {c : Byte} {kind : ModuleKind} {u : Nat} :
    guardHere x c kind u = none ↔ ∀ g, guardAt x u = some g → ¬(g.code = c ∧ g.kind = kind) := by
  simp [guardHere, Option.bind_eq_none_iff]

theorem guardAction_eq_some (x : Shelf) (c : Byte) (kind : ModuleKind) (action : GuardAction) :
    guardAction x c kind = some action ↔
      ∃ i < 32, guardAt x i = some ⟨c, kind, action⟩ ∧
        ∀ u < i, ∀ g, guardAt x u = some g → ¬(g.code = c ∧ g.kind = kind) := by
  simp only [guardAction_search, findSome?_range_eq_some, guardHere_eq_some, guardHere_eq_none]

theorem guardAction_eq_none (x : Shelf) (c : Byte) (kind : ModuleKind) :
    guardAction x c kind = none ↔ ∀ i < 32, ∀ g, guardAt x i = some g → ¬(g.code = c ∧ g.kind = kind) := by
  simp only [guardAction_search, findSome?_range_eq_none, guardHere_eq_none]

theorem psmOf_eq_some (x : Shelf) (r j : Nat) :
    psmOf x r = some j ↔
      (j < 6 ∧ (∃ g, psmAt x j = some g ∧ g.roster = r) ∧ ∀ u < j, ∀ g, psmAt x u = some g → g.roster ≠ r) := by
  rw [psmOf, find?_eq_some_lowest List.pairwise_lt_range]
  simp only [List.mem_range, Option.any_eq_true, decide_eq_true_eq, not_exists, not_and, Config.psmCount]
  constructor
  · rintro ⟨low, here, before⟩
    exact ⟨low, here, fun u lower => before u (lower.trans low) lower⟩
  · rintro ⟨low, here, before⟩
    exact ⟨low, here, fun u _ lower => before u lower⟩

theorem psmOf_eq_none (x : Shelf) (r : Nat) :
    psmOf x r = none ↔ ∀ j < 6, ∀ g, psmAt x j = some g → g.roster ≠ r := by
  simp [psmOf, List.find?_eq_none, Config.psmCount, Option.any_eq_false]

/-! ### From the frame to the Guard -/

/-- An ORDER to an address of 1 to 62 reaches the Guard at once on a part whose Router is free. -/
theorem exec_order_decided (e : Ambient) {a : Byte} (c : Byte) (v : BitVec 16) {s : State} (ready : Ready s)
    (low : 1 ≤ a.toNat) (high : a.toNat ≤ 62) :
    exec (.order e a c v) s = .next (closing (onShelf (decideOrder a c v.toNat) (heard e s))) := by
  obtain ⟨enabled, rx, wait, restart⟩ := ready
  have runs : (opening e s).engUp.enabled = true := enabled
  have valid : frameValid (orderUp a c v) = true := by
    simp [frameValid, validKind, orderUp, kindOrder, be16, Config.maxPayload]
  have here : (heard e s).engUp.rx = [] ∧ routerFree (heard e s).toShelf = true :=
    ⟨rx, by simp [routerFree, heard, opening, onShelf, hunt, editEngine, setEngine, wait, restart]⟩
  have mine : isStrayUp (orderUp a c v) = false := by
    have positive : a.toNat ≠ 0 := by omega
    simp [isStrayUp, orderUp, be16, positive, high]
  have argument : field16 (orderUp a c v).payload 1 = v.toNat := field16_be16 v.isLt []
  refine congrArg Host.Outcome.next ?_
  simp only [wholeEvent, receiveUp, runs, valid, if_true]
  change closing (arriveUp _ (heard e s)) = _
  rw [arriveUp, if_pos here, takeEntry, mine, argument]
  rfl

/-! ### The tests of R150 -/

section Decided

variable {a c : Byte} {v r : Nat} {m : RosterEntry} {x : Shelf}

theorem decideOrder_noModule (none : moduleAt x a.toNat = none) :
    decideOrder a c v x = answerOrder a c 0x82 x := by
  rw [decideOrder, none]
  rfl

variable (found : moduleAt x a.toNat = some (r, m))
include found

/-- With a module at the address the intercepts of the trays and the batteries come before the table. -/
theorem decideOrder_found :
    decideOrder a c v x =
      if m.kind = .tray ∧ c = codeOutputOn then interceptOn a m.index x
      else if m.kind = .tray ∧ c = codeOutputOff then interceptOff a m.index x
      else if m.kind = .bbm ∧ (c = codeDischarge ∨ c = codeHold ∨ c = codeCharge) then answerOrder a c ackDenied x
      else guardTable r m a c v x := by
  rw [decideOrder, found]

theorem decideOrder_outputOn (tray : m.kind = .tray) (on : c = 0x01) :
    decideOrder a c v x = interceptOn a m.index x :=
  (decideOrder_found found).trans (if_pos ⟨tray, on⟩)

theorem decideOrder_outputOff (tray : m.kind = .tray) (off : c = 0x02) :
    decideOrder a c v x = interceptOff a m.index x := by
  subst off
  exact (decideOrder_found found).trans ((if_neg (fun h => absurd h.2 (by decide))).trans (if_pos ⟨tray, rfl⟩))

theorem decideOrder_battery (bbm : m.kind = .bbm) (code : c = 0x10 ∨ c = 0x11 ∨ c = 0x12) :
    decideOrder a c v x = answerOrder a c 0x85 x := by
  have mine : c = codeDischarge ∨ c = codeHold ∨ c = codeCharge := by
    obtain charge | discharge | hold := code
    · exact .inr (.inr charge)
    · exact .inl discharge
    · exact .inr (.inl hold)
  rw [decideOrder_found found]
  simp only [bbm, reduceCtorEq, false_and, if_false, true_and]
  exact if_pos mine

/-- An order that no intercept takes is decided by the Guard table. -/
theorem decideOrder_table
    (others : ((m.kind = .tray && (c = 0x01 || c = 0x02)) ||
      (m.kind = .bbm && (c = 0x10 || c = 0x11 || c = 0x12)) : Bool) = false) :
    decideOrder a c v x = guardTable r m a c v x := by
  rw [decideOrder_found found]
  simp only [Bool.or_eq_false_iff, Bool.and_eq_false_iff, decide_eq_false_iff_not] at others
  obtain ⟨tray, bbm⟩ := others
  refine (if_neg ?_).trans ((if_neg ?_).trans (if_neg ?_))
  · rintro ⟨is, on⟩
    exact tray.elim (fun h => h is) fun h => h.1 on
  · rintro ⟨is, off⟩
    exact tray.elim (fun h => h is) fun h => h.2 off
  · rintro ⟨is, code⟩
    obtain h | ⟨⟨charge, discharge⟩, hold⟩ := bbm
    · exact h is
    · obtain h | h | h := code
      · exact discharge h
      · exact hold h
      · exact charge h

end Decided

/-! ### The Guard table (R151) -/

section Table

variable {r v : Nat} {m : RosterEntry} {a c : Byte} {x : Shelf}

theorem guardTable_none (none : guardAction x c m.kind = none) :
    guardTable r m a c v x = relayOrder r m.port a c v x := by
  rw [guardTable, none]
  rfl

theorem guardTable_some {action : GuardAction} (found : guardAction x c m.kind = some action) :
    (guardAnswer x r action = none → guardTable r m a c v x = relayOrder r m.port a c v x) ∧
      ∀ status, guardAnswer x r action = some status → guardTable r m a c v x = answerOrder a c status x := by
  rw [guardTable, found, Option.bind_some]
  constructor
  · intro relays
    rw [relays]
  · intro status refuses
    rw [refuses]

theorem supplyShort_iff :
    supplyShort x r = true ↔ ∃ j, psmOf x r = some j ∧ 0 < vget x.balance.g j ∧ trialHeadroom x j < 0 := by
  unfold supplyShort
  cases psmOf x r <;> simp

theorem guardTable_rideBlock (found : guardAction x c m.kind = some .rideBlock) :
    guardTable r m a c v x =
      if x.ride.state = .normal then relayOrder r m.port a c v x else answerOrder a c 0x86 x := by
  obtain ⟨relays, refuses⟩ := guardTable_some (r := r) (a := a) (v := v) found
  by_cases normal : x.ride.state = .normal
  · rw [if_pos normal]
    exact relays (by simp [guardAnswer, rideNormal, normal])
  · rw [if_neg normal]
    exact refuses 0x86 (by simp [guardAnswer, rideNormal, normal, ackRide])

theorem guardTable_supplyCheck (found : guardAction x c m.kind = some .supplyCheck) :
    guardTable r m a c v x =
      if (∃ j, psmOf x r = some j ∧ 0 < vget x.balance.g j ∧ trialHeadroom x j < 0) then answerOrder a c 0x89 x
      else relayOrder r m.port a c v x := by
  obtain ⟨relays, refuses⟩ := guardTable_some (r := r) (a := a) (v := v) found
  by_cases short : ∃ j, psmOf x r = some j ∧ 0 < vget x.balance.g j ∧ trialHeadroom x j < 0
  · rw [if_pos short]
    exact refuses 0x89 (if_pos (supplyShort_iff.mpr short))
  · rw [if_neg short]
    exact relays (if_neg (mt supplyShort_iff.mp short))

end Table

/-- Settles O35: the look-ups as lowest places, the ORDER by its frame, the tests in order, and the relay by its two
refusals. -/
theorem ordersDecided : Obligations.OrdersDecided := by
  refine ⟨fun x => ⟨moduleAt_eq_some x, moduleAt_eq_none x, guardAction_eq_some x, guardAction_eq_none x,
      psmOf_eq_some x, psmOf_eq_none x⟩, fun e a c v s ready low high => exec_order_decided e c v ready low high,
    fun a c v x => ⟨decideOrder_noModule, fun r m found => ?_⟩, fun r v p a c x _ => ⟨fun off => ?_, fun on full => ?_,
      fun on room => ?_⟩⟩
  · refine ⟨decideOrder_outputOn found, decideOrder_outputOff found, decideOrder_battery found, fun others => ?_⟩
    rw [decideOrder_table found others]
    exact ⟨guardTable_none, fun pass => (guardTable_some pass).1 rfl, fun deny => (guardTable_some deny).2 _ rfl,
      guardTable_rideBlock, guardTable_supplyCheck⟩
  · exact if_pos (by simp [off])
  · exact (if_neg (by simp [on])).trans (if_pos full)
  · exact (if_neg (by simp [on])).trans (if_neg (Nat.not_le.mpr room))

end Sys2Proof.Machine
end

section
/-! PROOF. The transmitters and the timers of the downstream ports (O38, R142, R143, R145, R162). -/

namespace Sys2Proof.Machine

/-! ### Events that leave no reaction -/

/-- An event that acts on a part at rest and leaves no reaction ends with the arbiters. -/
theorem wholeEvent_settled {e : Ambient} {s : State} (still : Still s) {f : State → State} {g : Shelf → Shelf}
    (acts : f (opening e s) = onShelf g (opening e s)) (keeps : ∀ x : State, Still x → Still (onShelf g x)) :
    wholeEvent e f s = settled g (opening e s) := by
  obtain ⟨quiet, rx⟩ := keeps (opening e s) still
  rw [wholeEvent, acts, closing_onShelf_quiet g _ quiet rx]

theorem event_settled {e : Ambient} {s : State} (still : Still s) {f g : Shelf → Shelf}
    (acts : f (opening e s).toShelf = g (opening e s).toShelf) (keeps : ∀ x : State, Still x → Still (onShelf g x)) :
    event e f s = settled g (opening e s) :=
  wholeEvent_settled (f := onShelf f) still (by unfold onShelf; rw [acts]) keeps

/-- A change of a Port Engine that keeps its receive queue leaves a part at rest. -/
theorem still_editEngine (p : Port) {f : PortEngine → PortEngine} (keeps : ∀ g, (f g).rx = g.rx) {s : State}
    (still : Still s) : Still (onShelf (editEngine p f) s) := by
  obtain ⟨quiet, rx⟩ := still
  cases p with
  | up => exact ⟨quiet, (keeps _).trans rx⟩
  | sp | tp => exact ⟨quiet, rx⟩

theorem still_editPoll (p : Port) (f : PollEngine → PollEngine) {s : State} (still : Still s) :
    Still (onShelf (editPoll p f) s) := by cases p <;> exact still

/-! ### Tests -/

theorem restartReady_iff (x : Shelf) :
    restartReady x = true ↔ x.restart = some true ∨
      (x.restart ≠ none ∧ ∃ f, x.engUp.shifter = some f ∧ f.restartDone = true) := by
  simp [restartReady, Option.any_eq_true, Option.isSome_iff_ne_none]

theorem forwardDue_iff (entry : RosterEntry) (m : Module) (now : Time) :
    forwardDue entry m now = true ↔ ∀ t, m.lastCopy = some t →
      reached now (t + BitVec.ofNat 32 (1000 * entry.interval)) = true := by
  unfold forwardDue
  cases m.lastCopy <;> simp [msTime_eq]

/-! ### Transmitters (R143, R162) -/

/-- UP's shifter finishes its last frame with no restart to carry out. -/
theorem exec_transmitEnd_up (e : Ambient) {s : State} (still : Still s) (sends : s.engUp.shifter.isSome)
    (last : s.engUp.buffer = none) (waits : restartReady s.toShelf = false) :
    exec (.transmitEnd e .up) s =
      .next (settled (editEngine .up fun g => { g with shifter := none }) (opening e s)) := by
  refine congrArg Host.Outcome.next (wholeEvent_settled still ?_ fun x => still_editEngine .up fun _ => rfl)
  have ends : upEnds (opening e s).toShelf = true := by
    change upEnds s.toShelf = true
    simp [upEnds, sends, last]
  have goesOn : ¬restartReady (opening e s).toShelf = true := Bool.eq_false_iff.mp waits
  exact (if_pos ends).trans (if_neg goesOn)

/-- What a downstream transmit-end leaves: the transmitter IDLE, the reply timer running. -/
def transmitted (p : Port) (expiry : Time) (x : Shelf) : Shelf :=
  editPoll p (fun g => { g with inFlight := g.inFlight.map fun tx => { tx with timer := .running expiry } })
    (editEngine p (fun g => { g with shifter := none }) x)

theorem endDown_sends {p : Port} {x : Shelf} (sends : (engine x p).shifter.isSome) (last : (engine x p).buffer = none) :
    endDown p x =
      transmitted p (x.shelfTime + BitVec.ofNat 32 (1000 * (engine x p).settings.replyTimeout)) x := by
  have ends : ((engine x p).shifter.isSome && decide ((engine x p).buffer = none)) = true := by simp [sends, last]
  refine (if_pos ends).trans ?_
  rw [← msTime_eq]
  cases p <;> rfl

theorem engine_opening (e : Ambient) (s : State) (p : Port) : engine (opening e s).toShelf p = engine s.toShelf p := by
  cases p <;> rfl

theorem pollEngine_opening (e : Ambient) (s : State) (p : Port) :
    pollEngine (opening e s).toShelf p = pollEngine s.toShelf p := by cases p <;> rfl

theorem exec_transmitEnd_down (e : Ambient) {p : Port} {s : State} (still : Still s) (down : p ≠ .up)
    (sends : (engine s.toShelf p).shifter.isSome) (last : (engine s.toShelf p).buffer = none) :
    exec (.transmitEnd e p) s =
      .next (settled
        (transmitted p (s.shelfTime + e.elapsed +
          BitVec.ofNat 32 (1000 * (engine s.toShelf p).settings.replyTimeout)))
        (opening e s)) := by
  refine congrArg Host.Outcome.next (wholeEvent_settled still ((if_neg down).trans ?_) fun x rest => ?_)
  · rw [← engine_opening e s p] at sends last ⊢
    unfold onShelf
    rw [endDown_sends sends last]
    rfl
  · have idle := still_editEngine p (f := fun g => { g with shifter := none }) (fun _ => rfl) rest
    exact still_editPoll p _ idle

/-- The UP shifter takes the buffered frame. -/
theorem exec_shifterFinishesFrame (e : Ambient) {s : State} {f g : TxFrame} (still : Still s)
    (sends : s.engUp.shifter = some f) (loaded : s.engUp.buffer = some g) :
    exec (.shifterFinishesFrame e) s =
      .next (settled
        (fun x => { x with
          engUp := { x.engUp with shifter := some g, buffer := none }
          restart := if f.restartDone then x.restart.map fun _ => true else x.restart })
        (opening e s)) := by
  refine congrArg Host.Outcome.next (event_settled still ?_ fun x rest => rest)
  have sends' : (opening e s).engUp.shifter = some f := sends
  have loaded' : (opening e s).engUp.buffer = some g := loaded
  unfold shiftUp
  rw [sends', loaded']

/-! ### Timers (R142, R143, R145) -/

theorem exec_emptyPassTimerExpiry (e : Ambient) {p : Port} {s : State} (still : Still s)
    (due : expired (s.shelfTime + e.elapsed) (pollEngine s.toShelf p).emptyTimer = true) :
    exec (.emptyPassTimerExpiry e p) s =
      .next (settled (editPoll p fun g => { g with emptyTimer := .stopped }) (opening e s)) := by
  rw [← pollEngine_opening e s p] at due
  exact congrArg Host.Outcome.next (event_settled still (if_pos due) fun x => still_editPoll p _)

theorem exec_replyTimerExpiry (e : Ambient) {p : Port} {s : State} {tx : Transaction}
    (flight : (pollEngine s.toShelf p).inFlight = some tx) (due : expired (s.shelfTime + e.elapsed) tx.timer = true) :
    exec (.replyTimerExpiry e p) s = .next (closing (onShelf (endFailed p tx) (opening e s))) := by
  rw [← pollEngine_opening e s p] at flight
  refine congrArg Host.Outcome.next (event_acts ?_)
  unfold replyExpiry
  rw [flight]
  exact if_pos due

theorem exec_forwardIntervalExpiry (e : Ambient) {r : Fin 48} {s : State} {entry : RosterEntry} {t : Time}
    (still : Still s) (used : rosterAt s.toShelf r = some entry) (last : (vget s.modules r).lastCopy = some t)
    (due : reached (s.shelfTime + e.elapsed) (t + BitVec.ofNat 32 (1000 * entry.interval)) = true) :
    exec (.forwardIntervalExpiry e r) s =
      .next (settled (editModule r fun m => { m with lastCopy := none }) (opening e s)) := by
  have passed : forwardDue entry (vget s.modules r) (s.shelfTime + e.elapsed) = true := by
    refine (forwardDue_iff _ _ _).mpr fun t' last' => ?_
    obtain rfl : t = t' := Option.some.inj (last.symm.trans last')
    exact due
  have used' : rosterAt (opening e s).toShelf r = some entry := used
  refine congrArg Host.Outcome.next (event_settled still (if_pos ?_) fun x rest => rest)
  rw [used']
  exact passed

/-- Settles O38: the tests by their cases, and each event as what it does to a part at rest. -/
theorem transmittersAndPortTimers : Obligations.TransmittersAndPortTimers :=
  ⟨restartReady_iff, forwardDue_iff, fun e _ still sends last waits => exec_transmitEnd_up e still sends last waits,
    fun e _ _ still down sends last => exec_transmitEnd_down e still down sends last,
    fun e _ _ _ still sends loaded => exec_shifterFinishesFrame e still sends loaded,
    fun e _ _ still _ due => exec_emptyPassTimerExpiry e still due,
    fun e _ _ _ _ flight due => exec_replyTimerExpiry e flight due,
    fun e _ _ _ _ still used last due => ⟨exec_forwardIntervalExpiry e still used last due, rfl⟩⟩

end Sys2Proof.Machine
end

section
/-! PROOF. The upstream side (O41, R149, R161 to R168, R170): the Router with UP's receive queue, the classes, and the
upstream arbiter. -/

namespace Sys2Proof.Machine

/-! ### The Router (R164, R165, R170) -/

theorem routerFree_iff (x : Shelf) : routerFree x = true ↔ x.replyWait = [] ∧ x.restart = none := by
  simp [routerFree]

/-- The frames that the Router discards: an ORDER or a REQUEST of a wrong form or address, and every other kind
(R164). -/
abbrev StrayUp (f : Frame) : Prop :=
  f.kind = kindOrder ∧ f.payload.length ≠ 3 ∨ f.kind = kindRequest ∧ f.payload = [] ∨
    f.kind ≠ kindOrder ∧ f.kind ≠ kindRequest ∨ f.kind = kindRequest ∧ f.address ≠ 0 ∨
    f.kind = kindOrder ∧ (f.address = 0 ∨ 62 < f.address.toNat)

theorem isStrayUp_iff (f : Frame) : isStrayUp f = true ↔ StrayUp f := by
  have zero : f.address.toNat = 0 ↔ f.address = 0 := (BitVec.toNat_inj (y := 0#8)).trans Iff.rfl
  have differ : kindOrder ≠ kindRequest := by decide
  unfold isStrayUp StrayUp
  by_cases order : f.kind = kindOrder
  · simp [order, differ, zero, or_assoc]
  · by_cases req : f.kind = kindRequest
    · simp [req, differ.symm]
    · simp [order, req]

section Entries

variable {f : Frame} {s : State}

theorem takeEntry_stray (stray : StrayUp f) :
    takeEntry (.frame f) s = onShelf (editEngine .up fun g => { g with stray := satInc g.stray }) s :=
  if_pos ((isStrayUp_iff f).mpr stray)

theorem takeEntry_order (known : ¬StrayUp f) (order : f.kind = kindOrder) {c : Byte} {v : Nat}
    (payload : f.payload = c :: be16 v) (low : v < 65536) :
    takeEntry (.frame f) s = onShelf (decideOrder f.address c v) s := by
  have argument : field16 f.payload 1 = v := by
    rw [payload]
    exact field16_be16 low []
  have code : f.payload.getD 0 0 = c := by rw [payload]; rfl
  have decided : takeEntry (.frame f) s =
      onShelf (decideOrder f.address (f.payload.getD 0 0) (field16 f.payload 1)) s :=
    (if_neg (mt (isStrayUp_iff f).mp known)).trans (if_pos order)
  rw [decided, argument, code]

theorem takeEntry_request (known : ¬StrayUp f) (req : f.kind = kindRequest) :
    takeEntry (.frame f) s = handleRequest f.payload s := by
  have other : f.kind ≠ kindOrder := by
    rw [req]
    decide
  exact (if_neg (mt (isStrayUp_iff f).mp known)).trans (if_neg other)

end Entries

/-! ### The receive queue (R161, R165) -/

section Arrivals

variable {s : State}

/-- An entry that finds none before it, on a Router that is free, is taken. -/
theorem arriveUp_taken (entry : RxEntry) (rx : s.engUp.rx = []) (wait : s.replyWait = []) (restart : s.restart = none) :
    arriveUp entry s = takeEntry entry s :=
  if_pos ⟨rx, (routerFree_iff _).mpr ⟨wait, restart⟩⟩

theorem arriveUp_waits (entry : RxEntry) (busy : s.engUp.rx ≠ [] ∨ s.replyWait ≠ [] ∨ s.restart ≠ none) :
    arriveUp entry s = onShelf (offerUp entry) s := by
  refine if_neg ?_
  rintro ⟨rx, free⟩
  obtain ⟨wait, restart⟩ := (routerFree_iff _).mp free
  exact busy.elim (· rx) (·.elim (· wait) (· restart))

theorem receiveUp_valid {f : Frame} (runs : s.engUp.enabled = true) (valid : frameValid f = true) :
    receiveUp f s = arriveUp (.frame f) (onShelf (hunt .up) s) :=
  (if_pos runs).trans (if_pos valid)

end Arrivals

/-- A full receive queue discards the entry, counts it, and posts the first loss (R161; log entry 25). -/
theorem offerUp_full {x : Shelf} (entry : RxEntry) (full : 2 ≤ x.engUp.rx.length) :
    let count := min (x.engUp.overruns + 1) 65535
    let counted := { x with engUp := { x.engUp with overruns := count, overrun := true } }
    (x.engUp.overrun = true → offerUp entry x = counted) ∧
      (x.engUp.overrun = false → offerUp entry x = { counted with
        notices := offerNotice
          { time := x.shelfTime, source := 9, index := 0, code := 14, more := false, word1 := 1, word2 := count }
          x.notices }) := by
  have lost : offerUp entry x = overrunUp x := if_neg (Nat.not_lt.mpr full)
  rw [lost]
  exact ⟨fun marked => if_pos marked, fun clear => if_neg (Bool.eq_false_iff.mp clear)⟩

section Routing

variable {s : State} (n : Nat)

theorem routeWaiting_stays (busy : s.engUp.rx = [] ∨ s.replyWait ≠ [] ∨ s.restart ≠ none) :
    routeWaiting (n + 1) s = s := by
  by_cases empty : s.engUp.rx = []
  · exact routeWaiting_nil empty _
  · obtain ⟨entry, rest, waits⟩ := List.exists_cons_of_ne_nil empty
    have stuck : ¬routerFree s.toShelf = true := fun free => by
      obtain ⟨wait, restart⟩ := (routerFree_iff _).mp free
      exact (busy.resolve_left empty).elim (· wait) (· restart)
    rw [routeWaiting, waits]
    exact if_neg stuck

theorem routeWaiting_takes (wait : s.replyWait = []) (restart : s.restart = none) {entry : RxEntry}
    {rest : List RxEntry} (waits : s.engUp.rx = entry :: rest) :
    routeWaiting (n + 1) s = routeWaiting n (onShelf react (takeEntry entry
      (onShelf (fun x => { x with engUp := { x.engUp with rx := rest } }) s))) := by
  rw [routeWaiting, waits]
  exact if_pos ((routerFree_iff _).mpr ⟨wait, restart⟩)

end Routing

/-- A damage mark at the head is removed, and nothing else follows (R165). -/
theorem closing_damage {s : State} (quiet : Quiet s.toShelf) (rx : s.engUp.rx = [.damage]) (wait : s.replyWait = [])
    (restart : s.restart = none) : closing s = settled (editEngine .up fun g => { g with rx := [] }) s := by
  have rest : Still (onShelf (editEngine .up fun g => { g with rx := [] }) s) := ⟨quiet, rfl⟩
  have quietly : ∀ x : State, Quiet x.toShelf → onShelf react x = x := fun x h => onShelf_same (react_quiet h)
  have routed : routeWaiting 2 (onShelf react s) = onShelf (editEngine .up fun g => { g with rx := [] }) s := by
    rw [quietly s quiet, routeWaiting_takes 1 wait restart rx]
    change routeWaiting 1 (onShelf react (onShelf (editEngine .up fun g => { g with rx := [] }) s)) = _
    rw [quietly _ rest.1, routeWaiting_nil rest.2]
  have ends := closing_still rest
  unfold closing at ends ⊢
  rw [quietly _ rest.1, routeWaiting_nil rest.2] at ends
  change onShelf _ (routeWaiting _ (onShelf arbitrateUp (routeWaiting 2 (onShelf react s)))) = _
  rw [routed, ends]
  rfl

/-- A frame that the Router discards is counted, and nothing else follows (R164). -/
theorem exec_upStrayFrame (e : Ambient) {f : Frame} {s : State} (calm : Calm s) (valid : frameValid f = true)
    (stray : StrayUp f) :
    exec (.upStrayFrame e f) s =
      .next (settled (editEngine .up fun g => { g with stray := satInc g.stray }) (heard e s)) := by
  obtain ⟨⟨enabled, rx, wait, restart⟩, quiet⟩ := calm
  have runs : (opening e s).engUp.enabled = true := enabled
  have taken : receiveUp f (opening e s) =
      onShelf (editEngine .up fun g => { g with stray := satInc g.stray }) (heard e s) := by
    rw [receiveUp_valid runs valid]
    exact (arriveUp_taken (s := heard e s) _ rx wait restart).trans (takeEntry_stray stray)
  refine congrArg Host.Outcome.next ?_
  rw [wholeEvent, taken]
  exact closing_onShelf_quiet _ _ quiet rx

/-! ### The classes (R165, R167, R168) -/

section Classes

variable {x : Shelf}

theorem chooseUp_telemetryDue {f : Frame} {rest : List Frame} (run : x.telemetryRun = 4)
    (copies : x.telemetry = f :: rest) :
    chooseUp x = some (⟨f, false⟩, { x with telemetry := rest, telemetryRun := 0 }) := by
  refine (if_pos ⟨run, by simp [copies]⟩).trans ?_
  rw [takeTelemetry, copies]

variable (others : x.telemetryRun ≠ 4 ∨ x.telemetry = [])
include others

theorem chooseUp_reply {r : TxFrame} {rest : List TxFrame} (replies : x.replies = r :: rest) :
    chooseUp x = some (r, { x with
      replies := rest ++ x.replyWait.take 1, replyWait := x.replyWait.drop 1
      telemetryRun := min (x.telemetryRun + 1) 4 }) := by
  rw [chooseUp, if_neg (not_and_or.mpr (others.imp_right not_not_intro)), replies]
  rfl

theorem chooseUp_notice {n : Notice} {rest : List Notice} (replies : x.replies = []) (notices : x.notices = n :: rest) :
    chooseUp x = some (⟨noticeFrame n, false⟩, { x with
      notices := rest, telemetryRun := min (x.telemetryRun + 1) 4 }) := by
  have taken : chooseUp x = some (⟨noticeFrame n, false⟩, takeNotice rest x) := by
    rw [chooseUp, if_neg (not_and_or.mpr (others.imp_right not_not_intro)), replies, notices]
  exact taken

theorem chooseUp_telemetry (replies : x.replies = []) (notices : x.notices = []) : chooseUp x = takeTelemetry x := by
  rw [chooseUp, if_neg (not_and_or.mpr (others.imp_right not_not_intro)), replies, notices]

end Classes

theorem offerNotice_full {n newest : Notice} {q front : List Notice} (last : q = front ++ [newest])
    (full : 32 ≤ q.length) : offerNotice n q = front ++ [{ newest with more := true }] := by
  refine (if_neg (Nat.not_lt.mpr full)).trans ?_
  rw [last, markMore_append]

/-- A reply joins the queue, or the wait where the queue is full or a reply waits already. -/
theorem placeReply_waits {x : Shelf} {f : TxFrame} (full : 4 ≤ x.replies.length ∨ x.replyWait ≠ []) :
    placeReply f x = { x with replyWait := x.replyWait ++ [f] } :=
  if_neg fun room => full.elim (Nat.not_le.mpr room.1) (· room.2)

/-! ### The upstream arbiter (R162) -/

theorem arbitrateUp_idle {x : Shelf} (idle : x.engUp.enabled = false ∨ x.engUp.buffer ≠ none ∨ chooseUp x = none) :
    arbitrateUp x = x := by
  unfold arbitrateUp
  split
  · next ready =>
    obtain ⟨runs, empty⟩ := ready
    obtain off | full | nothing := idle
    · rw [off] at runs
      cases runs
    · exact absurd empty full
    · rw [nothing]
  · rfl

/-- What is taken is buffered, and goes on to a shifter that is IDLE. -/
theorem moveToShifter_loaded (g : PortEngine) (f : TxFrame) :
    moveToShifter { g with buffer := some f } =
      { g with
        shifter := if g.shifter = none then some f else g.shifter
        buffer := if g.shifter = none then none else some f } := by
  obtain ⟨_, _, _, _, _, shifter, _, _, _, _, _⟩ := g
  cases shifter <;> rfl

theorem arbitrateUp_loads {x z : Shelf} {f : TxFrame} (runs : x.engUp.enabled = true) (empty : x.engUp.buffer = none)
    (chosen : chooseUp x = some (f, z)) :
    arbitrateUp x = { z with
      engUp := { x.engUp with
        shifter := if x.engUp.shifter = none then some f else x.engUp.shifter
        buffer := if x.engUp.shifter = none then none else some f } } := by
  rw [arbitrateUp, if_pos ⟨runs, empty⟩, chosen]
  change { z with engUp := moveToShifter { z.engUp with buffer := some f } } = _
  rw [chooseUp_engUp chosen, moveToShifter_loaded]

/-! ### O41 -/

/-- Settles O41: the two commands as what the Router makes of their entry, the arbiter and the classes by the frame that
is taken, the receive queue by whether an entry is taken, waits or is lost. -/
theorem upstreamLinkServed : Obligations.UpstreamLinkServed := by
  refine ⟨fun e s quiet rx wait restart =>
      congrArg Host.Outcome.next (closing_damage (s := opening e s) quiet rx wait restart),
    fun e f s calm valid stray => exec_upStrayFrame e calm valid stray,
    fun x => ⟨fun f rest => chooseUp_telemetryDue, fun others => ⟨fun r rest => chooseUp_reply others,
      fun n rest => chooseUp_notice others, fun f rest replies notices copies => ?_, fun replies notices none => ?_⟩⟩,
    fun n => rfl, fun x address code status => rfl,
    fun n q => ⟨offerNotice_place n, fun front newest => offerNotice_full⟩,
    fun x f => ⟨fun room free => if_pos ⟨room, free⟩, placeReply_waits⟩,
    fun x => ⟨arbitrateUp_idle, fun runs empty f z => arbitrateUp_loads runs empty⟩,
    fun x entry => ⟨fun room => if_pos room, offerUp_full entry⟩,
    fun s f runs valid => ⟨fun rx wait restart => ?_, fun busy => ?_⟩,
    fun s => ⟨fun rx wait restart => arriveUp_taken .damage rx wait restart, fun busy => arriveUp_waits .damage busy⟩,
    fun s f => ⟨rfl, takeEntry_stray, fun known order c v => takeEntry_order known order, takeEntry_request⟩,
    fun n s => ⟨rfl, routeWaiting_stays n, fun wait restart entry rest => routeWaiting_takes n wait restart⟩,
    fun s => rfl⟩
  · rw [chooseUp_telemetry others replies notices, takeTelemetry, copies]
  · rw [chooseUp_telemetry others replies notices, takeTelemetry, none]
  · exact (receiveUp_valid runs valid).trans (arriveUp_taken _ rx wait restart)
  · exact (receiveUp_valid runs valid).trans (arriveUp_waits _ busy)

end Sys2Proof.Machine
end

section
/-! PROOF. The poll search and the transaction arbiter (O40, R142, R143, R146 to R148). -/

namespace Sys2Proof.Machine

/-! ### The circular search (R142) -/

/-- The pass number after `k` positions from one: it goes up as the search passes from 31 to 0. -/
def passAfter (position pass k : Nat) : Nat := if 32 ≤ position + k then (pass + 1) % 8 else pass

/-- A position is due in a pass: its module is not ABSENT, or the pass is 0. -/
abbrev DueIn (x : Shelf) (p : Port) (i pass : Nat) : Prop :=
  ∃ r, pollTarget x p i = some r ∧ ((vget x.modules r).presence ≠ .absent ∨ pass = 0)

section Search

variable {x : Shelf} {p : Port}

/-- The search stops at the next position where that one is due, and goes on from there otherwise. -/
theorem pollSearch_due {n i pass r : Nat} (target : pollTarget x p ((i + 1) % 32) = some r)
    (due : (vget x.modules r).presence ≠ .absent ∨ (if (i + 1) % 32 = 0 then (pass + 1) % 8 else pass) = 0) :
    pollSearch x p (n + 1) i pass =
      (some ((i + 1) % 32, r), if (i + 1) % 32 = 0 then (pass + 1) % 8 else pass) := by
  rw [pollSearch]
  rw [target]
  exact if_pos due

theorem pollSearch_notDue {n i pass : Nat}
    (none : ¬DueIn x p ((i + 1) % 32) (if (i + 1) % 32 = 0 then (pass + 1) % 8 else pass)) :
    pollSearch x p (n + 1) i pass =
      pollSearch x p n ((i + 1) % 32) (if (i + 1) % 32 = 0 then (pass + 1) % 8 else pass) := by
  rw [pollSearch]
  split
  · next r target => exact if_neg fun due => none ⟨r, target, due⟩
  · rfl

/-- What is found is the module of an in-use position. -/
theorem pollTarget_of_pollSearch {n i pass j r after : Nat} (found : pollSearch x p n i pass = (some (j, r), after)) :
    pollTarget x p j = some r := by
  induction n generalizing i pass with
  | zero => cases found
  | succ n ih =>
    by_cases due : DueIn x p ((i + 1) % 32) (if (i + 1) % 32 = 0 then (pass + 1) % 8 else pass)
    · obtain ⟨u, target, due⟩ := due
      rw [pollSearch_due target due] at found
      cases found
      exact target
    · rw [pollSearch_notDue due] at found
      exact ih found

variable {position pass : Nat} (start : position < 32)
include start

/-- One position on from the `k`th after the start. -/
theorem passAfter_succ {k : Nat} (within : k < 32) :
    ((position + k) % 32 + 1) % 32 = (position + (k + 1)) % 32 ∧
      (if ((position + k) % 32 + 1) % 32 = 0 then (passAfter position pass k + 1) % 8
        else passAfter position pass k) = passAfter position pass (k + 1) := by
  refine ⟨by omega, ?_⟩
  unfold passAfter
  split_ifs <;> omega

/-- From the `k`th position after the start the search finds the first due one, if any. -/
theorem pollSearch_from {n k : Nat} (within : k + n = 32) :
    (∀ i r after, pollSearch x p n ((position + k) % 32) (passAfter position pass k) = (some (i, r), after) →
      ∃ l, k < l ∧ l ≤ 32 ∧ i = (position + l) % 32 ∧ pollTarget x p i = some r ∧
        DueIn x p ((position + l) % 32) (passAfter position pass l) ∧ after = passAfter position pass l ∧
        ∀ j, k < j → j < l → ¬DueIn x p ((position + j) % 32) (passAfter position pass j)) ∧
    ∀ after, pollSearch x p n ((position + k) % 32) (passAfter position pass k) = (none, after) →
      after = passAfter position pass 32 ∧
        ∀ j, k < j → j ≤ 32 → ¬DueIn x p ((position + j) % 32) (passAfter position pass j) := by
  induction n generalizing k with
  | zero =>
    obtain rfl : k = 32 := within
    refine ⟨fun i r after found => (by cases found), fun after found => ?_⟩
    cases found
    exact ⟨rfl, fun j above below => absurd above (Nat.not_lt.mpr below)⟩
  | succ n ih =>
    obtain ⟨next, passes⟩ := passAfter_succ (pass := pass) start (show k < 32 by omega)
    obtain ⟨some, none⟩ := ih (k := k + 1) (by omega)
    by_cases due : DueIn x p ((position + (k + 1)) % 32) (passAfter position pass (k + 1))
    · have here := due
      obtain ⟨u, target, soon⟩ := due
      rw [← next] at target
      rw [← passes] at soon
      rw [pollSearch_due target soon]
      refine ⟨fun i r after found => ?_, fun after found => by cases found⟩
      cases found
      exact ⟨k + 1, Nat.lt_succ_self k, by omega, next, target, here, passes, fun j above below => by omega⟩
    · have goesOn : ¬DueIn x p (((position + k) % 32 + 1) % 32)
          (if ((position + k) % 32 + 1) % 32 = 0 then (passAfter position pass k + 1) % 8
            else passAfter position pass k) := by rwa [passes, next]
      rw [pollSearch_notDue goesOn, passes, next]
      have first : ∀ j, k < j → j = k + 1 ∨ k + 1 < j := fun j above => by omega
      refine ⟨fun i r after found => ?_, fun after found => ?_⟩
      · obtain ⟨l, above, below, place, target, dueThere, after, before⟩ := some i r after found
        refine ⟨l, by omega, below, place, target, dueThere, after, fun j low high => ?_⟩
        obtain rfl | later := first j low
        · exact due
        · exact before j later high
      · obtain ⟨after, before⟩ := none after found
        refine ⟨after, fun j low high => ?_⟩
        obtain rfl | later := first j low
        · exact due
        · exact before j later high

end Search

theorem passAfter_zero {position : Nat} (start : position < 32) (pass : Nat) : passAfter position pass 0 = pass :=
  if_neg (by omega)

/-! ### Look-ups -/

theorem pollTarget_iff (x : Shelf) (p : Port) (i r : Nat) :
    pollTarget x p i = some r ↔ pollAt x p i = some r ∧ ∃ m, rosterAt x r = some m ∧ m.port = p := by
  unfold pollTarget
  cases pollAt x p i with
  | none => simp
  | some u =>
    simp only [Option.ite_none_right_eq_some, Option.any_eq_true, decide_eq_true_eq, Option.some.injEq]
    constructor
    · rintro ⟨on, rfl⟩
      exact ⟨rfl, on⟩
    · rintro ⟨rfl, on⟩
      exact ⟨on, rfl⟩

theorem isPlaced_iff (x : Shelf) (target : Target) (code : Byte) :
    isPlaced x target code = true ↔
      (∃ o ∈ (pollEngine x (targetPort target)).control, o.target = target ∧ o.code = code) ∨
        ∃ g, (pollEngine x (targetPort target)).inProgress = some g ∧ g.order.target = target ∧
          g.order.code = code := by
  simp [isPlaced, isQueued, isInFlight, Option.any_eq_true]

/-- Some in-use position of a port's list names an in-use module of the port. -/
abbrev Listed (x : Shelf) (p : Port) : Prop :=
  ∃ i < 32, ∃ r m, pollAt x p i = some r ∧ rosterAt x r = some m ∧ m.port = p

theorem pollAvailable_iff (x : Shelf) (p : Port) :
    pollAvailable x p = true ↔ isRunning (pollEngine x p).emptyTimer = false ∧ Listed x p := by
  simp only [pollAvailable, Bool.and_eq_true, Bool.not_eq_true', List.any_eq_true, List.mem_range,
    Option.isSome_iff_exists, pollTarget_iff, exists_and_left, Listed]

/-! ### Transactions (R142, R143, R146) -/

/-- A port with a transaction begun: its frame in the shifter since `now`, and its run of other transactions counted. -/
def begun (p : Port) (now : Time) (tx : Transaction) (f : Frame) (y : Shelf) : Shelf :=
  setPoll p
    { pollEngine y p with
      inFlight := some tx
      nonPollRun := if tx.kind = .poll then 0 else min ((pollEngine y p).nonPollRun + 1) 3 }
    (setEngine p { engine y p with shifter := some ⟨f, false⟩, began := now } y)

theorem beginTx_eq (p : Port) (tx : Transaction) (f : Frame) {y : Shelf} {now : Time} (time : y.shelfTime = now) :
    beginTx p tx f y = begun p now tx f y := by
  subst time
  cases p <;> rfl

/-- A POLL of a module. -/
abbrev pollOf (r : Nat) (address : Byte) : Transaction :=
  { kind := .poll, roster := r, address, code := none, attempt := none, timer := .stopped, discarded := false }

/-- An ORDER to a module. -/
abbrev orderOf (kind : TxKind) (r : Nat) (a c : Byte) (attempt : Option Nat) : Transaction :=
  { kind, roster := r, address := a, code := some c, attempt, timer := .stopped, discarded := false }

section Polls

variable {p : Port} {x : Shelf}

theorem tryPoll_unavailable (off : isRunning (pollEngine x p).emptyTimer = true ∨ ¬Listed x p) :
    tryPoll p x = (false, x) := by
  refine if_neg fun available => ?_
  obtain ⟨stopped, listed⟩ := (pollAvailable_iff x p).mp available
  obtain running | unlisted := off
  · simp [stopped] at running
  · exact unlisted listed

section Available

variable (stopped : isRunning (pollEngine x p).emptyTimer = false) (listed : Listed x p)
include stopped listed

theorem tryPoll_none {pass : Nat}
    (none : pollSearch x p 32 (pollEngine x p).position (pollEngine x p).pass = (none, pass)) :
    tryPoll p x = (false, setPoll p { pollEngine x p with
      pass := pass
      emptyTimer := .running (x.shelfTime + BitVec.ofNat 32 (1000 * (engine x p).settings.replyTimeout)) } x) := by
  rw [tryPoll, if_pos ((pollAvailable_iff x p).mpr ⟨stopped, listed⟩), ← msTime_eq]
  dsimp only
  rw [none]
  rfl

theorem tryPoll_some {i r pass : Nat}
    (found : pollSearch x p 32 (pollEngine x p).position (pollEngine x p).pass = (some (i, r), pass)) :
    ∃ m, rosterAt x r = some m ∧
      tryPoll p x = (true, begun p x.shelfTime (pollOf r (BitVec.ofNat 8 m.address))
        { address := BitVec.ofNat 8 m.address, kind := kindPoll, payload := [] }
        (setPoll p { pollEngine x p with position := i, pass := pass } x)) := by
  obtain ⟨-, m, entry, -⟩ := (pollTarget_iff x p i r).mp (pollTarget_of_pollSearch found)
  have address : rosterAddress x r = BitVec.ofNat 8 m.address := by simp [rosterAddress, entry]
  refine ⟨m, entry, ?_⟩
  rw [tryPoll, if_pos ((pollAvailable_iff x p).mpr ⟨stopped, listed⟩)]
  dsimp only
  rw [found]
  dsimp only
  rw [address, beginTx_eq p _ _ (now := x.shelfTime) (by simp)]
  rfl

end Available

/-- A poll that is not taken changes the pass number and the empty-pass timer alone. -/
theorem tryPoll_fails (fails : (tryPoll p x).1 = false) :
    ∃ pass timer, (tryPoll p x).2 = setPoll p { pollEngine x p with pass := pass, emptyTimer := timer } x := by
  by_cases available : isRunning (pollEngine x p).emptyTimer = false ∧ Listed x p
  · obtain ⟨stopped, listed⟩ := available
    cases search : pollSearch x p 32 (pollEngine x p).position (pollEngine x p).pass with
    | mk found pass =>
      cases found with
      | none =>
        rw [tryPoll_none stopped listed search]
        exact ⟨_, _, rfl⟩
      | some found =>
        obtain ⟨m, -, taken⟩ := tryPoll_some (i := found.1) (r := found.2) stopped listed search
        rw [taken] at fails
        cases fails
  · have off : isRunning (pollEngine x p).emptyTimer = true ∨ ¬Listed x p := by
      simpa only [not_and_or, Bool.not_eq_false] using available
    rw [tryPoll_unavailable off]
    exact ⟨(pollEngine x p).pass, (pollEngine x p).emptyTimer, by cases p <;> rfl⟩

end Polls

/-! ### The arbiter (R146) -/

section Arbiter

variable {p : Port} {y : Shelf} {now : Time} (time : y.shelfTime = now)
include time

theorem arbitrateOrders_progress {g : Progress} (progress : (pollEngine y p).inProgress = some g) :
    arbitrateOrders p y =
      begun p now (orderOf .control g.order.roster g.order.address g.order.code (some (g.attempt + 1)))
        { address := g.order.address, kind := kindOrder, payload := g.order.code :: be16 g.order.argument }
        (setPoll p { pollEngine y p with inProgress := some { g with attempt := g.attempt + 1 } } y) := by
  rw [arbitrateOrders]
  dsimp only
  rw [progress]
  exact beginTx_eq p _ _ (by simp [editPoll, time])

variable (idle : (pollEngine y p).inProgress = none)
include idle

theorem arbitrateOrders_control (down : p ≠ .up) {o : ControlOrder} {rest : List ControlOrder}
    (control : (pollEngine y p).control = o :: rest) :
    arbitrateOrders p y =
      begun p now (orderOf .control o.roster o.address o.code (some 1))
        { address := o.address, kind := kindOrder, payload := o.code :: be16 o.argument }
        (setPoll p { pollEngine y p with control := rest, inProgress := some ⟨o, 1⟩ } y) := by
  rw [arbitrateOrders]
  dsimp only
  rw [idle, control]
  refine (beginTx_eq p _ _ (now := now) (by simp [editPoll, time])).trans ?_
  cases p with
  | up => exact absurd rfl down
  | sp | tp => rfl

theorem arbitrateOrders_command {o : RelayedOrder} {rest : List RelayedOrder}
    (control : (pollEngine y p).control = []) (command : (pollEngine y p).command = o :: rest) :
    arbitrateOrders p y =
      begun p now (orderOf .command o.roster o.address o.code none)
        { address := o.address, kind := kindOrder, payload := o.code :: be16 o.argument }
        (setPoll p { pollEngine y p with command := rest } y) := by
  rw [arbitrateOrders]
  dsimp only
  rw [idle, control, command]
  exact beginTx_eq p _ _ (by simp [time])

omit time in
theorem arbitrateOrders_poll (control : (pollEngine y p).control = []) (command : (pollEngine y p).command = []) :
    arbitrateOrders p y = (tryPoll p y).2 := by
  rw [arbitrateOrders, idle, control, command]

end Arbiter

section Turn

variable {p : Port} {x : Shelf}

/-- A downstream port may begin a transaction: it runs with none in flight and its transmitter IDLE. -/
abbrev MayBegin (x : Shelf) (p : Port) : Prop :=
  (engine x p).enabled = true ∧ (pollEngine x p).inFlight = none ∧ (engine x p).buffer = none ∧
    (engine x p).shifter = none

theorem arbitrate_busy (busy : ¬MayBegin x p) : arbitrate p x = x := if_neg fun ready => busy ready.2

theorem arbitrate_idle (down : p ≠ .up) (ready : MayBegin x p) :
    ((pollEngine x p).nonPollRun = 3 → (tryPoll p x).1 = true → arbitrate p x = (tryPoll p x).2) ∧
      ((pollEngine x p).nonPollRun ≠ 3 ∨ (tryPoll p x).1 = false →
        arbitrate p x = arbitrateOrders p (if (pollEngine x p).nonPollRun = 3 then (tryPoll p x).2 else x)) := by
  rw [arbitrate, if_pos ⟨down, ready⟩]
  by_cases run : (pollEngine x p).nonPollRun = 3
  · simp only [run, if_true]
    cases tried : tryPoll p x with
    | mk begins after => cases begins <;> simp
  · simp [run]

/-- The state in which the sources after the first are tried has the orders of the state before it. -/
theorem orders_after_poll (down : p ≠ .up) (orders : (pollEngine x p).nonPollRun ≠ 3 ∨ (tryPoll p x).1 = false) :
    let y := if (pollEngine x p).nonPollRun = 3 then (tryPoll p x).2 else x
    y.shelfTime = x.shelfTime ∧ (pollEngine y p).inProgress = (pollEngine x p).inProgress ∧
      (pollEngine y p).control = (pollEngine x p).control ∧ (pollEngine y p).command = (pollEngine x p).command := by
  intro y
  by_cases run : (pollEngine x p).nonPollRun = 3
  · obtain ⟨pass, timer, after⟩ := tryPoll_fails (orders.resolve_left (not_not_intro run))
    have same : y = setPoll p { pollEngine x p with pass := pass, emptyTimer := timer } x := (if_pos run).trans after
    rw [same]
    cases p with
    | up => exact absurd rfl down
    | sp | tp => exact ⟨rfl, rfl, rfl, rfl⟩
  · have same : y = x := if_neg run
    rw [same]
    exact ⟨rfl, rfl, rfl, rfl⟩

end Turn

/-- Settles O40: the search by its positions one after another, the poll by what the search finds, and the arbiter by
the first source that has something. -/
theorem pollSearchFindsTheNextDue : Obligations.PollSearchFindsTheNextDue := by
  refine ⟨fun x p position pass start _ => ?_,
    fun x n code => ⟨isPlaced_iff x (.tray n) code, isPlaced_iff x (.bbm n) code⟩,
    pollTarget_iff, fun x p down => ⟨tryPoll_unavailable, fun stopped listed =>
      ⟨fun pass none => tryPoll_none stopped listed none, fun found => ?_⟩, arbitrate_busy,
      fun ready => (arbitrate_idle down ready).1, fun ready orders => ?_⟩⟩
  · obtain ⟨found, none⟩ := pollSearch_from (x := x) (p := p) (pass := pass) (n := 32) (k := 0) start rfl
    rw [passAfter_zero start, Nat.add_zero, Nat.mod_eq_of_lt start] at found none
    dsimp only
    cases search : pollSearch x p 32 position pass with
    | mk result after =>
      cases result with
      | none => exact none after search
      | some result => exact found result.1 result.2 after search
  · cases search : pollSearch x p 32 (pollEngine x p).position (pollEngine x p).pass with
    | mk result pass =>
      rw [search] at found
      obtain ⟨result, rfl⟩ := Option.ne_none_iff_exists'.mp found
      obtain ⟨m, entry, taken⟩ := tryPoll_some (i := result.1) (r := result.2) stopped listed search
      rw [taken]
      exact ⟨rfl, result.1, result.2, m, pass, search, entry, rfl⟩
  · obtain ⟨time, progress, control, command⟩ := orders_after_poll down orders
    rw [(arbitrate_idle down ready).2 orders]
    refine ⟨fun g is => arbitrateOrders_progress time (progress.trans is), fun idle => ⟨fun o rest is =>
      arbitrateOrders_control time (progress.trans idle) down (control.trans is), fun noControl => ⟨fun o rest is =>
        arbitrateOrders_command time (progress.trans idle) (control.trans noControl) (command.trans is),
        fun noCommand =>
          arbitrateOrders_poll (progress.trans idle) (control.trans noControl) (command.trans noCommand)⟩⟩⟩

end Sys2Proof.Machine
end

section
/-! PROOF. How a transaction ends: the reply, the damage and the failure (R143, R144, R147, R148, R154), the TELEMETRY
copy (R145) and the absence of a module (R139, R144). -/

namespace Sys2Proof.Machine

/-! ### Reports (R143, R163) -/

theorem reportWhole_iff (payload : List Byte) :
    reportWhole payload = true ↔ payload.length % 3 = 0 ∧ payload.length ≤ 60 := by
  simp [reportWhole]

theorem reportPairs_cons (a b c : Byte) (rest : List Byte) :
    reportPairs (a :: b :: c :: rest) = (a.toNat, 256 * b.toNat + c.toNat) :: reportPairs rest := by
  rw [reportPairs, Nat.mul_comm]

/-- A REPORT is malformed where its payload is not whole. -/
theorem isMalformedReport_iff (f : Frame) :
    isMalformedReport f = true ↔ f.kind = kindReport ∧ (f.payload.length % 3 ≠ 0 ∨ 60 < f.payload.length) := by
  rw [isMalformedReport, Bool.and_eq_true, decide_eq_true_eq, Bool.not_eq_true', Bool.eq_false_iff, Ne,
    reportWhole_iff, Classical.not_and_iff_not_or_not, Nat.not_le]

/-! ### What a reply is judged to be (R143) -/

/-- A POLL awaits a REPORT, an ORDER its ORDER-ACK. -/
theorem isReply_iff (tx : Transaction) (f : Frame) :
    isReply tx f = true ↔ f.address = tx.address ∧ if tx.kind = .poll then f.kind = kindReport
      else f.kind = kindOrderAck ∧ f.payload.length = 2 ∧ f.payload.head? = tx.code := by
  rw [isReply, Bool.and_eq_true, decide_eq_true_eq]
  cases tx.kind with
  | poll => simp
  | control | command => simp [and_assoc]

/-- The transaction in flight has ended. -/
abbrev flightEnded (p : Port) (x : Shelf) : Shelf := setPoll p { pollEngine x p with inFlight := none } x

section Judged
variable {p : Port} {x : Shelf} {tx : Transaction} {f : Frame}

/-- With nothing in flight every entry is stray. -/
theorem judge_idle (idle : (pollEngine x p).inFlight = none) (entry : RxEntry) :
    judge p entry x = countStray p x := by
  rw [judge, idle]

/-- So is every entry while no reply timer runs. -/
theorem judge_untimed (flight : (pollEngine x p).inFlight = some tx) (stopped : tx.timer = .stopped)
    (entry : RxEntry) : judge p entry x = countStray p x := by
  simp [judge, flight, stopped, isRunning]

theorem judge_damage {expiry : Time} (flight : (pollEngine x p).inFlight = some tx)
    (running : tx.timer = .running expiry) : judge p .damage x = endFailed p tx x := by
  simp [judge, flight, running, isRunning]

theorem judge_frame {expiry : Time} (flight : (pollEngine x p).inFlight = some tx)
    (running : tx.timer = .running expiry) :
    judge p (.frame f) x =
      if isMalformedReport f then
        endFailed p tx (editEngine p (fun g => { g with damaged := satInc g.damaged }) x)
      else if isReply tx f then endAnswered p tx f x
      else countStray p x := by
  simp [judge, flight, running, isRunning]

/-- The reply that the transaction awaits ends it, where it is not a malformed REPORT. -/
theorem judge_reply {expiry : Time} (flight : (pollEngine x p).inFlight = some tx)
    (running : tx.timer = .running expiry) (whole : isMalformedReport f = false) (reply : isReply tx f = true) :
    judge p (.frame f) x = endAnswered p tx f x := by
  rw [judge_frame flight running, whole, reply, if_neg Bool.false_ne_true, if_pos rfl]

/-- An ORDER-ACK is no REPORT. -/
theorem isMalformedReport_ack (a : Byte) (payload : List Byte) :
    isMalformedReport ⟨a, kindOrderAck, payload⟩ = false :=
  Bool.eq_false_iff.mpr fun malformed =>
    absurd (show kindOrderAck = kindReport from ((isMalformedReport_iff _).mp malformed).1) (by decide)

/-- The acknowledgement of the order in flight ends it answered. -/
theorem judge_ack {expiry : Time} (flight : (pollEngine x p).inFlight = some tx)
    (running : tx.timer = .running expiry) (kind : tx.kind ≠ .poll) {code : Byte} (st : Byte)
    (sent : tx.code = some code) :
    judge p (.frame ⟨tx.address, kindOrderAck, [code, st]⟩) x =
      endAnswered p tx ⟨tx.address, kindOrderAck, [code, st]⟩ x :=
  judge_reply flight running (isMalformedReport_ack _ _) ((isReply_iff _ _).mpr ⟨rfl, by simp [kind, sent]⟩)

/-! ### How a transaction ends -/

/-- Where its module left the Roster, nothing else follows (R154). -/
theorem endAnswered_discarded (left : tx.discarded = true) : endAnswered p tx f x = flightEnded p x := by
  simp [endAnswered, left]

theorem endFailed_discarded (left : tx.discarded = true) : endFailed p tx x = flightEnded p x := by
  simp [endFailed, left]

/-- The reply that a transaction awaits, a whole REPORT or an ORDER-ACK, is not malformed. -/
theorem judge_discarded {expiry : Time} (flight : (pollEngine x p).inFlight = some tx)
    (running : tx.timer = .running expiry) (left : tx.discarded = true) (addressed : f.address = tx.address)
    (awaited : if tx.kind = .poll then
        f.kind = kindReport ∧ f.payload.length % 3 = 0 ∧ f.payload.length ≤ 60
      else f.kind = kindOrderAck ∧ f.payload.length = 2 ∧ f.payload.head? = tx.code) :
    judge p (.frame f) x = flightEnded p x := by
  refine (judge_reply flight running (Bool.eq_false_iff.mpr fun malformed => ?_)
    ((isReply_iff tx f).mpr ⟨addressed, ?_⟩)).trans (endAnswered_discarded left)
  · obtain ⟨report, broken⟩ := (isMalformedReport_iff f).mp malformed
    split at awaited
    · omega
    · exact absurd (report.symm.trans awaited.1) (by decide)
  · split at awaited
    · rw [if_pos ‹_›]
      exact awaited.1
    · rwa [if_neg ‹_›]

section Live
variable (live : tx.discarded = false)
include live

theorem endAnswered_poll (kind : tx.kind = .poll) :
    endAnswered p tx f x = pollAnswered tx.roster f.payload (flightEnded p x) := by
  simp [endAnswered, live, kind]

theorem endAnswered_command (kind : tx.kind = .command) {code : Byte} (sent : tx.code = some code) :
    endAnswered p tx f x =
      answerOrder tx.address code (f.payload.getD 1 0)
        (editModule tx.roster (fun m => { m with misses := 0 }) (flightEnded p x)) := by
  simp [endAnswered, live, kind, sent]

theorem endAnswered_control (kind : tx.kind = .control) {pr : Progress}
    (current : (pollEngine x p).inProgress = some pr) :
    endAnswered p tx f x =
      emitAll (outcomeTasks pr.order (.ack (f.payload.getD 1 0)))
        (setPoll p { pollEngine x p with inFlight := none, inProgress := none }
          (editModule tx.roster (fun m => { m with misses := 0 }) (flightEnded p x))) := by
  simp [endAnswered, flightEnded, live, kind, current]

theorem endFailed_poll (kind : tx.kind = .poll) : endFailed p tx x = countMiss tx.roster (flightEnded p x) := by
  simp [endFailed, live, kind]

theorem endFailed_command (kind : tx.kind = .command) {code : Byte} (sent : tx.code = some code) :
    endFailed p tx x = countMiss tx.roster (answerOrder tx.address code 0x83 (flightEnded p x)) := by
  simp [endFailed, live, kind, sent, ackNoAnswer]

/-- Its third failed attempt ends an order NO-ANSWER, an earlier one leaves it in progress. -/
theorem endFailed_control (kind : tx.kind = .control) {pr : Progress}
    (current : (pollEngine x p).inProgress = some pr) :
    endFailed p tx x =
      if 3 ≤ pr.attempt then
        countMiss tx.roster (emitAll (outcomeTasks pr.order .noAnswer)
          (setPoll p { pollEngine x p with inFlight := none, inProgress := none } (flightEnded p x)))
      else countMiss tx.roster (flightEnded p x) := by
  simp [endFailed, flightEnded, live, kind, current]

end Live

end Judged

/-! ### An answered POLL (R144, R145) -/

theorem inFlight_takeReport (r : Nat) (pairs : List (Nat × Nat)) (time : Time) (x : Shelf) (p : Port) :
    (pollEngine (takeReport r pairs time x) p).inFlight = (pollEngine x p).inFlight := by
  obtain ⟨-, -, -, sp, tp⟩ := samePorts_takeReport r pairs time x
  cases p with
  | up => rfl
  | sp => exact sp
  | tp => exact tp

theorem offerTelemetry_eq (f : Frame) (x : Shelf) :
    offerTelemetry f x =
      { x with
        telemetry := (offerTelemetry f x).telemetry, telemetryDrops := (offerTelemetry f x).telemetryDrops } := by
  unfold offerTelemetry
  split <;> rfl

/-- A copy leaves the Poll Engines alone, and of its module changes the time of the last copy only. -/
theorem copyReport_keeps (r : Nat) (payload : List Byte) (x : Shelf) :
    (∀ p, pollEngine (copyReport r payload x) p = pollEngine x p) ∧
      (vget (copyReport r payload x).modules r).presence = (vget x.modules r).presence ∧
      (vget (copyReport r payload x).modules r).misses = (vget x.modules r).misses := by
  unfold copyReport
  split
  · split
    · rw [offerTelemetry_eq]
      refine ⟨fun p => by cases p <;> rfl, ?_⟩
      simp only [editModule, vget_vmod]
      split <;> exact ⟨rfl, rfl⟩
    · exact ⟨fun _ => rfl, rfl, rfl⟩
  · exact ⟨fun _ => rfl, rfl, rfl⟩

/-- The module is PRESENT with no miss, whatever its report did. -/
theorem pollAnswered_spec {r : Nat} (listed : r < 48) (payload : List Byte) (x : Shelf) :
    (∀ p, (pollEngine (pollAnswered r payload x) p).inFlight = (pollEngine x p).inFlight) ∧
      (vget (pollAnswered r payload x).modules r).presence = .present ∧
      (vget (pollAnswered r payload x).modules r).misses = 0 := by
  let present := editModule r (fun m => { m with presence := .present, misses := 0 }) x
  obtain ⟨polls, presence, misses⟩ :=
    copyReport_keeps r payload (takeReport r (reportPairs payload) present.shelfTime present)
  obtain ⟨-, -, modules, -⟩ := samePorts_takeReport r (reportPairs payload) present.shelfTime present
  have self : vget present.modules r = { vget x.modules r with presence := .present, misses := 0 } := by
    simp [present, editModule, vget_vmod, listed]
  rw [modules, self] at presence misses
  refine ⟨fun p => ?_, presence, misses⟩
  calc (pollEngine (pollAnswered r payload x) p).inFlight
      = (pollEngine (takeReport r (reportPairs payload) present.shelfTime present) p).inFlight :=
        congrArg PollEngine.inFlight (polls p)
    _ = (pollEngine present p).inFlight := inFlight_takeReport r _ _ present p
    _ = (pollEngine x p).inFlight := by cases p <;> rfl

theorem judge_report {p : Port} {x : Shelf} {tx : Transaction} {expiry : Time}
    (flight : (pollEngine x p).inFlight = some tx) (running : tx.timer = .running expiry)
    (live : tx.discarded = false) (kind : tx.kind = .poll) {payload : List Byte}
    (whole : reportWhole payload = true) :
    judge p (.frame ⟨tx.address, kindReport, payload⟩) x = pollAnswered tx.roster payload (flightEnded p x) := by
  refine (judge_reply flight running ?_ ((isReply_iff _ _).mpr ⟨rfl, by simp [kind]⟩)).trans
    (endAnswered_poll live kind)
  simp [isMalformedReport, whole]

/-! ### TELEMETRY copies (R145, R167) -/

/-- A copy is due where the flag is set and the forward interval has passed. -/
def copyDue (entry : RosterEntry) (r : Nat) (x : Shelf) : Prop :=
  entry.forward = true ∧ ∀ t, (vget x.modules r).lastCopy = some t →
    reached x.shelfTime (t + BitVec.ofNat 32 (1000 * entry.interval)) = true

/-- The copy of a report: the address, the time and the first 18 pairs. -/
abbrev telemetryCopy (entry : RosterEntry) (payload : List Byte) (x : Shelf) : Frame :=
  { address := 0, kind := kindTelemetry
    payload := BitVec.ofNat 8 entry.address :: beTime x.shelfTime ++ payload.take 54 }

theorem copyReport_due {x : Shelf} {r : Nat} {entry : RosterEntry} (sender : rosterAt x r = some entry)
    (payload : List Byte) (due : copyDue entry r x) :
    copyReport r payload x =
      offerTelemetry (telemetryCopy entry payload x)
        (editModule r (fun m => { m with lastCopy := some x.shelfTime }) x) := by
  obtain ⟨forward, passed⟩ := due
  simp only [copyReport, sender, forward, (forwardDue_iff _ _ _).mpr passed]
  rfl

theorem copyReport_notDue {x : Shelf} {r : Nat} {entry : RosterEntry} (sender : rosterAt x r = some entry)
    (payload : List Byte) (early : ¬copyDue entry r x) : copyReport r payload x = x := by
  simp only [copyReport, sender, Bool.and_eq_true]
  exact if_neg fun ⟨forward, passed⟩ => early ⟨forward, (forwardDue_iff _ _ _).mp passed⟩

/-! ### Misses and absence (R139, R144) -/

theorem countMiss_early {x : Shelf} {r : Nat} (few : (vget x.modules r).misses < 2) :
    countMiss r x = editModule r (fun m => { m with misses := m.misses + 1 }) x :=
  if_neg (by omega)

theorem countMiss_third {x : Shelf} {r : Nat} (third : 2 ≤ (vget x.modules r).misses) :
    countMiss r x = emit (.moduleAbsent r true) (editModule r (fun m => { m with misses := 0 }) x) :=
  if_pos (by omega)

/-- The module is ABSENT, with a PORT-ERROR where it is so by misses. -/
abbrev moduleLost (entry : RosterEntry) (r : Nat) (missed : Bool) (x : Shelf) : Shelf :=
  { x with
    modules := vmod x.modules r fun m => { m with presence := .absent, misses := 0 }
    notices :=
      if missed then
        offerNotice
          { time := x.shelfTime, source := 9, index := portNumber entry.port, code := 14
            more := false, word1 := r % 256, word2 := entry.address } x.notices
      else x.notices }

/-- A module that is not ABSENT yet is so, and then its owner and the Signal Screen are told. -/
theorem moduleAbsentAs_leaves {x : Shelf} {r : Nat} (entry : RosterEntry) (missed : Bool)
    (there : (vget x.modules r).presence ≠ .absent) :
    moduleAbsentAs entry r missed x =
      emit (.signalsStale r) (tellOwner entry r (moduleLost entry r missed x)) := by
  rw [moduleAbsentAs, if_neg there]
  cases missed with
  | false => rfl
  | true =>
    have reason : twoItems 0 r = r % 256 := by simp [twoItems]
    simp only [absentNotice, reason]
    rfl

theorem tellOwner_psm {entry : RosterEntry} (kind : entry.kind = .psm) (r : Nat) (x : Shelf) :
    tellOwner entry r x =
      if (psmAt x entry.index).map (·.roster) = some r then psmAbsent entry.index x else x := by
  simp only [tellOwner, kind, any_names_iff]

theorem tellOwner_bbm {entry : RosterEntry} (kind : entry.kind = .bbm) (r : Nat) (x : Shelf) :
    tellOwner entry r x =
      if (bbmAt x entry.index).map (·.roster) = some r then bbmAbsent entry.index x else x := by
  simp only [tellOwner, kind, any_names_iff]

theorem tellOwner_tray {entry : RosterEntry} (kind : entry.kind = .tray) (r : Nat) (x : Shelf) :
    tellOwner entry r x =
      if (trayAt x entry.index).map (·.roster) = some r then trayAbsent entry.index x else x := by
  simp only [tellOwner, kind, any_names_iff]

theorem tellOwner_leakNode {entry : RosterEntry} (kind : entry.kind = .leakNode) (r : Nat) (x : Shelf) :
    tellOwner entry r x = x := by
  simp only [tellOwner, kind]

/-! ### O39 -/

/-- Settles O39: what is judged, how a transaction ends by its kind, the copy, and the absence by its owner. -/
theorem repliesJudged : Obligations.RepliesJudged := by
  refine ⟨reportWhole_iff, fun a b c rest => ⟨reportPairs_cons a b c rest, rfl⟩, fun p x down => ?_,
    fun x r payload listed => ⟨fun none => by rw [copyReport, none], fun entry sender => ?_⟩,
    fun x r listed => ⟨countMiss_early, countMiss_third, fun none missed => by rw [moduleAbsent, none],
      fun entry missed => ?_⟩⟩
  · refine ⟨judge_idle, fun tx => judge_untimed, fun tx expiry flight running left => ?_,
      fun tx expiry flight running live listed => ?_⟩
    · exact ⟨(judge_damage flight running).trans (endFailed_discarded left), endFailed_discarded left,
        fun f addressed awaited => judge_discarded flight running left addressed awaited⟩
    · refine ⟨fun f malformed => ?_, fun f whole other => ?_, judge_damage flight running,
        endFailed_poll live, fun kind payload whole => ?_, fun kind code st sent => ?_,
        fun kind code => endFailed_command live kind, fun kind code st pr sent current => ?_,
        fun kind pr current => ⟨fun early => ?_, fun third => ?_⟩⟩
      · rw [judge_frame flight running, if_pos ((isMalformedReport_iff f).mpr malformed)]
      · rw [judge_frame flight running, if_neg (mt (isMalformedReport_iff f).mp whole),
          if_neg (mt (isReply_iff tx f).mp other)]
        rfl
      · obtain ⟨polls, presence, misses⟩ := pollAnswered_spec listed payload (flightEnded p x)
        have answered := judge_report flight running live kind whole
        dsimp only
        rw [answered]
        refine ⟨(polls p).trans ?_, presence, misses, ?_⟩
        · rw [pollEngine_setPoll, if_pos ⟨rfl, down⟩]
        · cases p <;> rfl
      · exact (judge_ack flight running (by rw [kind]; decide) st sent).trans (endAnswered_command live kind sent)
      · exact (judge_ack flight running (by rw [kind]; decide) st sent).trans (endAnswered_control live kind current)
      · exact (endFailed_control live kind current).trans (if_neg (by omega))
      · exact (endFailed_control live kind current).trans (if_pos third)
  · refine ⟨copyReport_notDue sender payload, fun due room => ?_, fun due full => ?_⟩
    · exact (copyReport_due sender payload due).trans (if_pos room)
    · exact (copyReport_due sender payload due).trans (if_neg (Nat.not_lt.mpr full))
  · refine ⟨fun sender => by rw [moduleAbsent, sender], fun absent => if_pos absent, fun there => ?_⟩
    have leaves := moduleAbsentAs_leaves entry missed there
    have told {z : Shelf} (owner : tellOwner entry r (moduleLost entry r missed x) = z) :
        moduleAbsentAs entry r missed x = emit (.signalsStale r) z := owner ▸ leaves
    exact ⟨fun kind => told (tellOwner_psm kind r _), fun kind => told (tellOwner_bbm kind r _),
      fun kind => told (tellOwner_tray kind r _), fun kind => told (tellOwner_leakNode kind r _)⟩

end Sys2Proof.Machine
end

section
/-! PROOF. What crosses a link: the check of a frame (O15, R160), the bits of a character and the judging of frames by
their assembler (O16, R156, R159). -/

namespace Sys2Proof.Machine

/-! ### The check, bit by bit (R160) -/

/-- A bit of the register that is divided may as well be fed in from outside, and the rest of what was added shifts
along. -/
theorem crcShift_xor (c m : BitVec 16) : crcShift (c ^^^ m) = crcBit c m.msb ^^^ m <<< 1 := by
  have top : (c ^^^ m).msb = (c.msb != m.msb) := BitVec.msb_xor
  unfold crcShift crcBit
  rw [top, BitVec.shiftLeft_xor_distrib]
  split
  · ac_rfl
  · rfl

theorem iterate_crcShift_xor (c m : BitVec 16) (n : Nat) :
    crcShift^[n] (c ^^^ m) = ((List.range n).map fun i => (m <<< i).msb).foldl crcBit c ^^^ m <<< n := by
  induction n with
  | zero => simp
  | succ n ih =>
    rw [Function.iterate_succ_apply', ih, crcShift_xor, List.range_succ, List.map_append, List.foldl_append,
      BitVec.shiftLeft_add]
    rfl

/-- The bits of a character at the top of the register come out most significant first. -/
theorem msb_shiftLeft_high (b : Byte) {i : Nat} (low : i < 8) :
    (b.setWidth 16 <<< 8 <<< i).msb = b.getLsbD (7 - i) := by
  have above : ¬15 - i < 8 := by omega
  have place : 15 - i - 8 = 7 - i := by omega
  have inside : i ≤ 15 := by omega
  simp [BitVec.msb_eq_getLsbD_last, above, place, inside]

theorem crcByte_eq_bits (c : BitVec 16) (b : Byte) : crcByte c b = (byteBits b).foldl crcBit c := by
  have bits : ((List.range 8).map fun i => (b.setWidth 16 <<< 8 <<< i).msb) = byteBits b :=
    List.map_congr_left fun i low => msb_shiftLeft_high b (List.mem_range.mp low)
  have out : b.setWidth 16 <<< 8 <<< 8 = 0#16 := by
    rw [← BitVec.shiftLeft_add]
    exact BitVec.shiftLeft_eq_zero (Nat.le_refl 16)
  calc crcByte c b = crcShift^[8] (c ^^^ b.setWidth 16 <<< 8) := rfl
    _ = (byteBits b).foldl crcBit c := by rw [iterate_crcShift_xor, bits, out, BitVec.xor_zero]

theorem foldl_crcByte (bs : List Byte) (c : BitVec 16) :
    bs.foldl crcByte c = (bs.flatMap byteBits).foldl crcBit c := by
  induction bs generalizing c with
  | nil => rfl
  | cons b bs ih => rw [List.foldl_cons, ih, crcByte_eq_bits, List.flatMap_cons, List.foldl_append]

theorem be16_toNat (c : BitVec 16) : be16 c.toNat = [c.extractLsb' 8 8, c.extractLsb' 0 8] := by
  have high : BitVec.ofNat 8 (c.toNat / 256) = c.extractLsb' 8 8 :=
    BitVec.eq_of_toNat_eq (by simp [Nat.shiftRight_eq_div_pow])
  have low : BitVec.ofNat 8 c.toNat = c.extractLsb' 0 8 := BitVec.eq_of_toNat_eq (by simp)
  rw [be16, high, low]

theorem frameWire_eq (f : Frame) : frameWire f =
    0xC3 :: f.address :: f.kind :: BitVec.ofNat 8 f.payload.length :: f.payload ++
      [(crc16 (frameChecked f)).extractLsb' 8 8, (crc16 (frameChecked f)).extractLsb' 0 8] := by
  rw [frameWire, frameCheck, be16_toNat]
  rfl

/-- Settles O15: a character is eight of the register's steps, each of which takes one bit in; the check value of the
manual is evaluated. -/
theorem crcIsBitSerial : Obligations.CrcIsBitSerial :=
  ⟨fun bs => foldl_crcByte bs _, by decide +kernel, frameWire_eq⟩

/-! ### The levels of a character (R156) -/

theorem levelAt_set_self {levels : List Bool} {i : Nat} (v : Bool) (low : i < levels.length) :
    levelAt (levels.set i v) i = v := by simp [levelAt, low]

theorem levelAt_set_ne (levels : List Bool) {i j : Nat} (v : Bool) (other : i ≠ j) :
    levelAt (levels.set i v) j = levelAt levels j := by simp [levelAt, other]

theorem levelAt_of_getElem? {levels : List Bool} {i : Nat} {v : Bool} (h : levels[i]? = some v) :
    levelAt levels i = v := by
  rw [levelAt, List.getD_eq_getElem?_getD, h]
  rfl

theorem decide_odd_succ (n : Nat) : decide ((n + 1) % 2 = 1) = !decide (n % 2 = 1) := by
  obtain even | odd := Nat.mod_two_eq_zero_or_one n
  · simp [even, Nat.add_mod]
  · simp [odd, Nat.add_mod]

/-- Bits together are odd where the number of ones is odd. -/
theorem foldl_xor_map {α : Type} (p : α → Bool) (l : List α) :
    (l.map p).foldl xor false = decide ((l.filter p).length % 2 = 1) := by
  have step : ∀ a : Bool, (l.map p).foldl xor a = (a ^^ decide ((l.filter p).length % 2 = 1)) := by
    induction l with
    | nil => simp
    | cons x l ih =>
      intro a
      rw [List.map_cons, List.foldl_cons, ih]
      cases h : p x
      · simp [h]
      · rw [List.filter_cons_of_pos h, List.length_cons, decide_odd_succ]
        cases a <;> simp
  simpa using step false

/-- The place of a character's first stop bit (R156). -/
def stopPlace (e : PortSettings) : Nat := if e.parity = .none then 9 else 10

section Characters

variable {e : PortSettings} {b : Byte}

theorem nine_add_length_parityBit (e : PortSettings) (bits : List Bool) :
    9 + (parityBit e.parity bits).length = stopPlace e := by
  unfold stopPlace
  cases e.parity <;> rfl

theorem length_beforeStop (e : PortSettings) (b : Byte) :
    (false :: dataBits b ++ parityBit e.parity (dataBits b)).length = stopPlace e := by
  rw [← nine_add_length_parityBit e (dataBits b), List.length_append]
  simp [dataBits]

theorem length_characterLevels (e : PortSettings) (b : Byte) : (characterLevels e b).length = characterBits e := by
  rw [characterLevels, List.length_append, length_beforeStop, List.length_replicate]
  unfold characterBits stopPlace
  split_ifs <;> rfl

theorem getElem?_characterLevels_data {i : Nat} (low : i < 8) :
    (characterLevels e b)[1 + i]? = some (b.getLsbD i) := by
  rw [Nat.add_comm, characterLevels, List.append_assoc, List.cons_append, List.getElem?_cons_succ,
    List.getElem?_append_left (by simpa [dataBits] using low)]
  simp [dataBits, low]

theorem levelAt_data {i : Nat} (low : i < 8) : levelAt (characterLevels e b) (1 + i) = b.getLsbD i :=
  levelAt_of_getElem? (getElem?_characterLevels_data low)

/-- The level after the data is the parity bit, where there is one (R156). -/
theorem parityBit_eq (checked : e.parity ≠ .none) :
    parityBit e.parity (dataBits b) = [levelAt (characterLevels e b) 9] := by
  have sent : ∀ p, parityBit e.parity (dataBits b) = [p] → levelAt (characterLevels e b) 9 = p := by
    intro p only
    refine levelAt_of_getElem? ?_
    rw [characterLevels, only]
    simp [dataBits, List.range_succ]
  cases parity : e.parity with
  | none => exact absurd parity checked
  | even | odd => rw [← parity, sent _ (by rw [parity]; rfl), parity]; rfl

theorem getElem?_characterLevels_stop (sends : 1 ≤ e.stopBits) : (characterLevels e b)[stopPlace e]? = some true := by
  have before := length_beforeStop e b
  rw [characterLevels, List.getElem?_append_right before.le, before, Nat.sub_self,
    List.getElem?_replicate_of_lt (by omega)]

/-- The ones among the data bits and the bit after them. -/
theorem length_ones (e : PortSettings) (b : Byte) :
    ((List.range 9).filter fun i => levelAt (characterLevels e b) (1 + i)).length =
      ((List.range 8).filter fun i => b.getLsbD i).length + (levelAt (characterLevels e b) 9).toNat := by
  have data : ((List.range 8).filter fun i => levelAt (characterLevels e b) (1 + i)) =
      (List.range 8).filter fun i => b.getLsbD i :=
    List.filter_congr fun i low => levelAt_data (List.mem_range.mp low)
  rw [List.range_succ, List.filter_append, data, List.length_append]
  cases level : levelAt (characterLevels e b) 9 <;> simp [level]

/-- EVEN sends a one where the ones of the data are odd, ODD where they are even (R156). -/
theorem levelAt_parity (checked : e.parity ≠ .none) :
    levelAt (characterLevels e b) 9 =
      (decide (((List.range 8).filter fun i => b.getLsbD i).length % 2 = 1) ^^ decide (e.parity = .odd)) := by
  have sent := parityBit_eq (b := b) checked
  have odd := foldl_xor_map (fun i => b.getLsbD i) (List.range 8)
  cases parity : e.parity with
  | none => exact absurd parity checked
  | even =>
    rw [parity] at sent
    exact (List.singleton_inj.mp sent).symm.trans (odd.trans (Bool.xor_false _).symm)
  | odd =>
    rw [parity] at sent
    exact (List.singleton_inj.mp sent).symm.trans ((congrArg not odd).trans (Bool.xor_true _).symm)

theorem ones_mod_two (checked : e.parity ≠ .none) :
    ((List.range 9).filter fun i => levelAt (characterLevels e b) (1 + i)).length % 2 =
      if e.parity = .odd then 1 else 0 := by
  rw [length_ones, levelAt_parity checked]
  obtain even | odd := Nat.mod_two_eq_zero_or_one ((List.range 8).filter fun i => b.getLsbD i).length
  · by_cases parity : e.parity = .odd <;> simp [even, parity, Nat.add_mod]
  · by_cases parity : e.parity = .odd <;> simp [odd, parity, Nat.add_mod]

/-! ### The reading of a character (R156) -/

/-- The data is read from its levels, and an error from the parity bit and the first stop bit. -/
theorem readCharacter_of_data {levels : List Bool} (data : ∀ i < 8, levelAt levels (1 + i) = b.getLsbD i) :
    readCharacter e levels =
      { data := b
        error := (parityBit e.parity (dataBits b)).any (fun p => levelAt levels 9 ≠ p) ||
          !levelAt levels (stopPlace e) } := by
  have bits : ((List.range 8).map fun i => levelAt levels (1 + i)) = dataBits b :=
    List.map_congr_left fun i low => data i (List.mem_range.mp low)
  have same : BitVec.ofNat 8 (bitSet ((List.range 8).filter fun i => levelAt levels (1 + i))) = b := by
    refine BitVec.eq_of_getLsbD_eq fun i low => Bool.eq_iff_iff.mpr ?_
    rw [BitVec.getLsbD_ofNat, decide_eq_true low, Bool.true_and, testBit_bitSet, List.mem_filter, List.mem_range,
      data i low]
    exact and_iff_right low
  dsimp only [readCharacter]
  rw [bits, same, nine_add_length_parityBit]

/-- A character whose data, parity and first stop bit are as they are sent is read without error. -/
theorem readCharacter_good {levels : List Bool} (data : ∀ i < 8, levelAt levels (1 + i) = b.getLsbD i)
    (parity : e.parity ≠ .none → levelAt levels 9 = levelAt (characterLevels e b) 9)
    (stop : levelAt levels (stopPlace e) = true) : readCharacter e levels = ⟨b, false⟩ := by
  rw [readCharacter_of_data data, stop]
  by_cases checked : e.parity = .none
  · rw [checked]
    rfl
  · rw [parityBit_eq checked, parity checked]
    simp

theorem readCharacter_badParity {levels : List Bool} (data : ∀ i < 8, levelAt levels (1 + i) = b.getLsbD i)
    (checked : e.parity ≠ .none) (wrong : levelAt levels 9 ≠ levelAt (characterLevels e b) 9) :
    readCharacter e levels = ⟨b, true⟩ := by
  rw [readCharacter_of_data data, parityBit_eq checked]
  simp [wrong]

theorem readCharacter_badStop {levels : List Bool} (data : ∀ i < 8, levelAt levels (1 + i) = b.getLsbD i)
    (low : levelAt levels (stopPlace e) = false) : readCharacter e levels = ⟨b, true⟩ := by
  rw [readCharacter_of_data data, low]
  simp

/-! ### A character as it is sent, and spoiled (R156) -/

theorem nine_le_stopPlace (e : PortSettings) : 9 ≤ stopPlace e := by
  unfold stopPlace
  split_ifs <;> decide

theorem levelAt_stop (sends : 1 ≤ e.stopBits) : levelAt (characterLevels e b) (stopPlace e) = true :=
  levelAt_of_getElem? (getElem?_characterLevels_stop sends)

theorem stopPlace_lt (sends : 1 ≤ e.stopBits) : stopPlace e < (characterLevels e b).length :=
  (List.getElem?_eq_some_iff.mp (getElem?_characterLevels_stop sends)).1

/-- A level replaced after the data leaves the data. -/
theorem levelAt_data_set {i : Nat} (v : Bool) (after : 9 ≤ i) :
    ∀ j < 8, levelAt ((characterLevels e b).set i v) (1 + j) = b.getLsbD j := fun j low =>
  (levelAt_set_ne _ v (by omega)).trans (levelAt_data low)

theorem readCharacter_sent (sends : 1 ≤ e.stopBits) : readCharacter e (characterLevels e b) = ⟨b, false⟩ :=
  readCharacter_good (fun _ => levelAt_data) (fun _ => rfl) (levelAt_stop sends)

theorem readCharacter_parityFlipped (sends : 1 ≤ e.stopBits) (checked : e.parity ≠ .none) :
    readCharacter e ((characterLevels e b).set 9 (!levelAt (characterLevels e b) 9)) = ⟨b, true⟩ := by
  have inside : 9 < (characterLevels e b).length := (nine_le_stopPlace e).trans_lt (stopPlace_lt sends)
  refine readCharacter_badParity (levelAt_data_set _ le_rfl) checked ?_
  rw [levelAt_set_self _ inside]
  exact Bool.not_ne_self _

theorem readCharacter_stopLow (sends : 1 ≤ e.stopBits) :
    readCharacter e ((characterLevels e b).set (stopPlace e) false) = ⟨b, true⟩ :=
  readCharacter_badStop (levelAt_data_set _ (nine_le_stopPlace e)) (levelAt_set_self _ (stopPlace_lt sends))

theorem readCharacter_secondStopLow (sends : 1 ≤ e.stopBits) :
    readCharacter e ((characterLevels e b).set (stopPlace e + 1) false) = ⟨b, false⟩ := by
  have after := nine_le_stopPlace e
  exact readCharacter_good (levelAt_data_set _ (by omega)) (fun _ => levelAt_set_ne _ _ (by omega))
    ((levelAt_set_ne _ _ (by omega)).trans (levelAt_stop sends))

end Characters

/-- A frame that a port sends is read back by a port with the same settings, character for character. -/
theorem readAll_sentCharacters {e : PortSettings} (f : Frame) (sends : 1 ≤ e.stopBits) :
    readAll e (sentCharacters e f) = frameReceived f := by
  rw [readAll, sentCharacters, List.map_map]
  exact List.map_congr_left fun b _ => readCharacter_sent sends

/-- Characters sent one directly after another come within the gap limit. -/
theorem inTime_sentCharacters {e : PortSettings} (f : Frame) (limit : 1 ≤ e.gapLimit) :
    inTime e (sentCharacters e f) = true := by
  have within : characterBits e * divisor e ≤ gapCycles e := by
    rw [gapCycles, Nat.mul_assoc]
    exact Nat.le_mul_of_pos_left _ limit
  refine inTime_iff.mpr fun c sent => ?_
  obtain ⟨b, -, rfl⟩ := List.mem_map.mp sent
  exact within

/-! ### The frame assembler (R159) -/

/-- Characters received without error. -/
abbrev errorFree (bs : List Byte) : List Character := bs.map fun b => ⟨b, false⟩

theorem map_data_errorFree (bs : List Byte) : (errorFree bs).map (·.data) = bs := by
  simp [Function.comp_def]

theorem any_error_errorFree (bs : List Byte) : (errorFree bs).any (·.error) = false := by simp

theorem assemble_error {cs : List Character} (spoiled : ∃ x ∈ cs, x.error = true) : assemble cs = .damaged :=
  if_pos (List.any_eq_true.mpr spoiled)

section Assembled

variable {a k len : Byte}

theorem assemble_kind (rest : List Byte) (unknown : validKind k = false) :
    assemble (errorFree (a :: k :: rest)) = .damaged := by
  rw [assemble, any_error_errorFree, map_data_errorFree]
  simp [unknown]

theorem assemble_long (rest : List Byte) (long : 60 < len.toNat) :
    assemble (errorFree (a :: k :: len :: rest)) = .damaged := by
  cases known : validKind k with
  | false => exact assemble_kind _ known
  | true =>
    rw [assemble, any_error_errorFree, map_data_errorFree]
    simp [known, Config.maxPayload, long]

variable (known : validKind k = true) (fits : len.toNat ≤ 60)
include known fits

theorem assemble_early {body : List Byte} (early : body.length < len.toNat + 2) :
    assemble (errorFree (a :: k :: len :: body)) = .more := by
  rw [assemble, any_error_errorFree, map_data_errorFree]
  simp [known, Config.maxPayload, Nat.not_lt.mpr fits, early]

theorem assemble_last {payload check : List Byte} (filled : payload.length = len.toNat) (two : check.length = 2) :
    assemble (errorFree (a :: k :: len :: (payload ++ check))) =
      if check = frameCheck ⟨a, k, payload⟩ then .whole ⟨a, k, payload⟩ else .damaged := by
  rw [← filled] at fits
  rw [assemble, any_error_errorFree, map_data_errorFree]
  simp [known, Config.maxPayload, Nat.not_lt.mpr fits, ← filled, two]

end Assembled

theorem frameValid_iff (f : Frame) : frameValid f = true ↔ validKind f.kind = true ∧ f.payload.length ≤ 60 := by
  rw [frameValid, Bool.and_eq_true, decide_eq_true_eq]
  rfl

theorem length_frameReceived (f : Frame) : (frameReceived f).length = f.payload.length + 5 := by
  rw [frameReceived, List.length_map, List.length_append]
  rfl

section Frames

variable {f : Frame} (valid : frameValid f = true)
include valid

theorem toNat_payloadLength : (BitVec.ofNat 8 f.payload.length).toNat = f.payload.length := by
  obtain ⟨-, fits⟩ := (frameValid_iff f).mp valid
  exact Nat.mod_eq_of_lt (by omega)

/-- A frame is whole with its own check characters, and damaged with any others. -/
theorem assemble_check {check : List Byte} (two : check.length = 2) :
    assemble (errorFree (frameChecked f ++ check)) = if check = frameCheck f then .whole f else .damaged := by
  obtain ⟨known, fits⟩ := (frameValid_iff f).mp valid
  have len := toNat_payloadLength valid
  exact assemble_last known (len.le.trans fits) len.symm two

theorem assemble_frameReceived : assemble (frameReceived f) = .whole f :=
  (assemble_check valid rfl).trans (if_pos rfl)

theorem assemble_take {n : Nat} (early : n < (frameReceived f).length) :
    assemble ((frameReceived f).take n) = .more := by
  obtain ⟨known, fits⟩ := (frameValid_iff f).mp valid
  have len := toNat_payloadLength valid
  match n with
  | 0 => rfl
  | 1 => rfl
  | 2 => simp [frameReceived, frameChecked, assemble, known]
  | n + 3 =>
    have body : (frameReceived f).take (n + 3) =
        errorFree (f.address :: f.kind :: BitVec.ofNat 8 f.payload.length ::
          (f.payload ++ frameCheck f).take n) := by
      rw [frameReceived, ← List.map_take]
      rfl
    rw [length_frameReceived] at early
    have short : n < f.payload.length + 2 := by omega
    rw [body]
    refine assemble_early known (len.le.trans fits) ?_
    rw [len]
    exact (List.length_take_le _ _).trans_lt short

end Frames

/-- Settles O16: a character by its levels after the start bit, and the assembler by the characters it has. -/
theorem assemblerJudgesFrames : Obligations.AssemblerJudgesFrames := by
  refine ⟨fun e b stops => ?_, fun e f legal => ?_, fun f valid => ?_, fun cs => assemble_error,
    fun a k rest => assemble_kind rest, fun a k len rest => assemble_long rest⟩
  · have sends : 1 ≤ e.stopBits := by omega
    exact ⟨length_characterLevels e b, rfl, fun i => getElem?_characterLevels_data,
      getElem?_characterLevels_stop sends, fun even => by rw [ones_mod_two (by simp [even]), even]; rfl,
      fun odd => by rw [ones_mod_two (by simp [odd]), odd]; rfl, readCharacter_sent sends,
      readCharacter_parityFlipped sends, readCharacter_stopLow sends, readCharacter_secondStopLow sends⟩
  · obtain ⟨-, -, sends, -, limit, -⟩ := legal
    exact ⟨readAll_sentCharacters f sends, inTime_sentCharacters f (by omega)⟩
  · exact ⟨assemble_frameReceived valid, fun n => assemble_take valid, fun check two wrong =>
      (assemble_check valid two).trans (if_neg wrong)⟩

end Sys2Proof.Machine
end

section
/-! PROOF. The fields of answers and notices, the codes, and the frames of an ANSWER (O18, R163, R166). -/

namespace Sys2Proof.Machine

/-! ### Fields (R163) -/

/-- A field of several bytes is laid out high byte first. -/
theorem layout_eq (n m : Nat) :
    let byte := fun k : Nat => BitVec.ofNat 8 (n / 256 ^ k)
    be8 n = [byte 0] ∧ be16 n = [byte 1, byte 0] ∧ be24 n = [byte 2, byte 1, byte 0] ∧
      be32 n = [byte 3, byte 2, byte 1, byte 0] ∧ twoItems n m = n % 256 * 256 + m % 256 := by
  have high : n / 65536 / 256 = n / 256 ^ 3 := Nat.div_div_eq_div_mul n 65536 256
  refine ⟨?_, ?_, ?_, ?_, rfl⟩ <;> simp [be8, be16, be24, be32, high]

/-- A field that may be none is all ones for none. -/
theorem optional_eq (n : Nat) (t : Time) (b : Bool) (fields : List Byte) :
    beTime t = be32 t.toNat ∧ beFlag b = [if b then 1 else 0] ∧
      beOpt8 (some n) = be8 n ∧ beOpt8 none = [255] ∧ beOpt16 (some n) = be16 n ∧
      beOpt16 none = [255, 255] ∧ beOpt32 (some n) = be32 n ∧ beOpt32 none = [255, 255, 255, 255] ∧
      beOptTime (some t) = beTime t ∧ beOptTime none = [255, 255, 255, 255] ∧
      beItem (some fields) = 1 :: fields ∧ beItem none = [0] :=
  ⟨rfl, rfl, rfl, rfl, rfl, by decide, rfl, by decide, rfl, by decide, rfl, rfl⟩

theorem field_eq (r : List Byte) (i : Nat) :
    field8 r i = (r.getD i 0).toNat ∧ field16 r i = 256 * field8 r i + field8 r (i + 1) ∧
      field32 r i = 65536 * field16 r i + field16 r (i + 2) :=
  ⟨rfl, congrArg (· + field8 r (i + 1)) (Nat.mul_comm _ _), congrArg (· + field16 r (i + 2)) (Nat.mul_comm _ _)⟩

theorem validKind_iff (k : Byte) : validKind k = true ↔ 1 ≤ k.toNat ∧ k.toNat ≤ 8 := by simp [validKind]

/-! ### The frames of an ANSWER (R166) -/

section Answers

variable {code status : Byte} {data : List Byte} {n : Nat}

theorem answerFrames_last (short : data.length < 58) :
    answerFrames (n + 1) code status data = [⟨0, kindAnswer, code :: status :: data⟩] := if_pos short

theorem answerFrames_full (full : 58 ≤ data.length) :
    answerFrames (n + 1) code status data =
      ⟨0, kindAnswer, code :: status :: data.take 58⟩ :: answerFrames n code status (data.drop 58) :=
  if_neg (Nat.not_lt.mpr full)

/-- What one frame of an ANSWER is: the code and the status, and at most 58 bytes of data. -/
abbrev IsAnswerFrame (code status : Byte) (f : Frame) : Prop :=
  f.address = 0 ∧ f.kind = kindAnswer ∧ f.payload.take 2 = [code, status] ∧ frameValid f = true

theorem isAnswerFrame {chunk : List Byte} (fits : chunk.length ≤ 58) :
    IsAnswerFrame code status ⟨0, kindAnswer, code :: status :: chunk⟩ := by
  refine ⟨rfl, rfl, rfl, (frameValid_iff _).mpr ⟨rfl, ?_⟩⟩
  exact Nat.add_le_add_right fits 2

/-- Frames that carry data as an ANSWER's do: in order, all of them full but the last. -/
abbrev CarryAnswer (code status : Byte) (data : List Byte) (frames : List Frame) : Prop :=
  (frames.flatMap fun f => f.payload.drop 2) = data ∧ (∀ f ∈ frames, IsAnswerFrame code status f) ∧
    ∃ front last, frames = front ++ [last] ∧ (∀ f ∈ front, f.payload.length = 60) ∧ last.payload.length < 60

theorem carryAnswer_last (short : data.length < 58) :
    CarryAnswer code status data [⟨0, kindAnswer, code :: status :: data⟩] := by
  refine ⟨List.append_nil data, fun f only => ?_, [], _, rfl, nofun, Nat.add_lt_add_right short 2⟩
  rw [List.mem_singleton.mp only]
  exact isAnswerFrame short.le

theorem carryAnswer_full {frames : List Frame} (full : 58 ≤ data.length)
    (rest : CarryAnswer code status (data.drop 58) frames) :
    CarryAnswer code status data (⟨0, kindAnswer, code :: status :: data.take 58⟩ :: frames) := by
  have chunk : (data.take 58).length = 58 := List.length_take_of_le full
  obtain ⟨carried, each, front, last, rfl, filled, short⟩ := rest
  refine ⟨?_, List.forall_mem_cons.mpr ⟨isAnswerFrame chunk.le, each⟩, _ :: front, last, rfl,
    List.forall_mem_cons.mpr ⟨congrArg (· + 2) chunk, filled⟩, short⟩
  rw [List.flatMap_cons, carried]
  exact List.take_append_drop 58 data

/-- Enough frames carry the whole of the data. -/
theorem carryAnswer_answerFrames (enough : data.length < 58 * n) :
    CarryAnswer code status data (answerFrames n code status data) := by
  induction n generalizing data with
  | zero => omega
  | succ n ih =>
    obtain short | full := Nat.lt_or_ge data.length 58
    · rw [answerFrames_last short]
      exact carryAnswer_last short
    · rw [answerFrames_full full]
      refine carryAnswer_full full (ih ?_)
      rw [List.length_drop]
      omega

theorem carryAnswer_answer : CarryAnswer code status data (answer code status data) :=
  carryAnswer_answerFrames (Nat.lt_mul_div_succ _ (by decide))

end Answers

/-- Settles O18: the fields and the codes as they are laid out, and an ANSWER by induction on its frames. -/
theorem answersCarryTheirData : Obligations.AnswersCarryTheirData :=
  ⟨layout_eq, optional_eq, field_eq, fun _ => rfl, rfl, validKind_iff, frameValid_iff, rfl, rfl,
    fun _ _ _ => carryAnswer_answer⟩

end Sys2Proof.Machine
end

section
/-! PROOF. RESTART as it is decided (O30, R170; log entry 30). -/

namespace Sys2Proof.Machine

section Restarts

variable {s : State}

theorem restartAnswer_ride (away : s.ride.state ≠ .normal) : restartAnswer s = stRide :=
  if_pos (by simp [rideNormal, away])

theorem restartAnswer_normal (normal : s.ride.state = .normal) :
    restartAnswer s = if s.store.op.isSome then stBusy else stDone :=
  if_neg (by simp [rideNormal, normal])

theorem handleRestart_refused {status : Byte} (refused : restartAnswer s = status) (other : status ≠ stDone) :
    handleRestart s = told rqRestart status [] s := by
  subst refused
  exact if_neg other

/-- What RESTART's DONE leaves: a restart that is pending, and the answer with the mark of its sending. -/
def restartGranted (x : Shelf) : Shelf :=
  placeReply ⟨⟨0, kindAnswer, [rqRestart, stDone]⟩, true⟩ { x with restart := some false }

theorem handleRestart_granted (granted : restartAnswer s = stDone) : handleRestart s = onShelf restartGranted s :=
  if_pos granted

theorem still_restartGranted (still : Still s) : Still (onShelf restartGranted s) := by
  have placed : restartGranted s.toShelf = { s.toShelf with
      restart := some false
      replies := (restartGranted s.toShelf).replies, replyWait := (restartGranted s.toShelf).replyWait } :=
    placeReply_eq _ _
  unfold onShelf
  rw [placed]
  exact still

theorem exec_restart (e : Ambient) (calm : Calm s) :
    exec (.restart e) s = .next (closing (handleRestart (heard e s))) :=
  congrArg Host.Outcome.next
    (request_dispatched (code := rqRestart) (args := []) e calm.1 (Nat.zero_le _) (by decide))

theorem exec_restart_refused (e : Ambient) (calm : Calm s) {status : Byte}
    (refused : restartAnswer (heard e s) = status) (other : status ≠ stDone) :
    exec (.restart e) s = .next (answered rqRestart status [] (heard e s)) := by
  rw [exec_restart e calm, handleRestart_refused refused other, closing_told _ _ _ (still_heard e calm)]

theorem exec_restart_granted (e : Ambient) (calm : Calm s) (granted : restartAnswer (heard e s) = stDone) :
    exec (.restart e) s = .next (settled restartGranted (heard e s)) := by
  obtain ⟨quiet, rx⟩ := still_restartGranted (still_heard e calm)
  rw [exec_restart e calm, handleRestart_granted granted, closing_onShelf_quiet _ _ quiet rx]

end Restarts

/-- Settles O30: the decision's tests, and the end of the event after a refusal and after DONE. -/
theorem restartDecided : Obligations.RestartDecided := by
  refine fun e s calm => ⟨fun away => ?_, fun normal works => ?_, fun normal idle => ?_⟩
  · exact exec_restart_refused e calm (restartAnswer_ride (s := heard e s) away) (by decide)
  · exact exec_restart_refused e calm ((restartAnswer_normal (s := heard e s) normal).trans (if_pos works)) (by decide)
  · refine exec_restart_granted e calm ((restartAnswer_normal (s := heard e s) normal).trans (if_neg ?_))
    change ¬s.store.op.isSome = true
    simp [idle]

end Sys2Proof.Machine
end

section
/-! PROOF. Characters, frames, damage and the gap limit as the ports take them (O37, R156, R158, R159, R161, R165). -/

namespace Sys2Proof.Machine

/-! ### What a port hears (R156, R159) -/

theorem assembles_iff {x : Shelf} {p : Port} :
    assembles x p = true ↔ hears x p = true ∧ (engine x p).assembling.isSome := by simp [assembles]

theorem gapCycles_eq (g : PortSettings) :
    let bits := 1 + 8 + (if g.parity = .none then 0 else 1) + g.stopBits
    gapCycles g = g.gapLimit * bits * ((g.d + 1) * 16 + g.f) := rfl

section Heard

variable {x : Shelf} {p : Port} {cs : List RxChar}

theorem heardCharacters_inTime (hearing : hears x p = true) (begun : (engine x p).assembling.isSome)
    (close : ∀ c ∈ cs, c.gap ≤ gapCycles (engine x p).settings) :
    heardCharacters x p cs = some (cs.map fun c => readCharacter (engine x p).settings c.levels) :=
  heardCharacters_eq_some.mpr ⟨assembles_iff.mpr ⟨hearing, begun⟩, inTime_iff.mpr close, rfl⟩

theorem heardCharacters_missed (missed : ¬(hears x p = true ∧ (engine x p).assembling.isSome ∧
    ∀ c ∈ cs, c.gap ≤ gapCycles (engine x p).settings)) : heardCharacters x p cs = none := by
  refine Option.eq_none_iff_forall_ne_some.mpr fun read some => missed ?_
  obtain ⟨assembling, close, -⟩ := heardCharacters_eq_some.mp some
  obtain ⟨hearing, begun⟩ := assembles_iff.mp assembling
  exact ⟨hearing, begun, inTime_iff.mp close⟩

theorem heardCharacters_sent (hearing : hears x p = true) (begun : (engine x p).assembling.isSome)
    (legal : PortLegal (engine x p).settings) (f : Frame) :
    heardCharacters x p (sentCharacters (engine x p).settings f) = some (frameReceived f) := by
  obtain ⟨-, -, sends, -, limit, -⟩ := legal
  exact heardCharacters_eq_some.mpr ⟨assembles_iff.mpr ⟨hearing, begun⟩, inTime_sentCharacters f (by omega),
    readAll_sentCharacters f sends⟩

theorem damagedAtEnd_iff (cs : List Character) :
    damagedAtEnd cs = true ↔ assemble cs = .damaged ∧ assemble cs.dropLast = .more := by simp [damagedAtEnd]

end Heard

/-! ### The commands by what the port hears (R159) -/

section Commands

variable (e : Ambient) {p : Port} {cs : List RxChar} {s : State}

/-- Characters that no port hears end no frame (R156, R159; log entry 8). -/
theorem exec_frame_unheard (still : Still s) (unheard : heardCharacters (opening e s).toShelf p cs = none) :
    exec (.frameReceived e p cs) s = .next (settled id (opening e s)) ∧
      exec (.frameDamaged e p cs) s = .next (settled id (opening e s)) := by
  refine ⟨congrArg Host.Outcome.next (wholeEvent_waits still ?_),
    congrArg Host.Outcome.next (wholeEvent_waits still (if_neg (by simp [unheard])))⟩
  rw [unheard]
  rfl

theorem exec_gapLimitExpiry_waits (still : Still s) (early : gapPassed (opening e s).toShelf p = false) :
    exec (.gapLimitExpiry e p) s = .next (settled id (opening e s)) :=
  congrArg Host.Outcome.next (wholeEvent_waits still (if_neg (Bool.eq_false_iff.mp early)))

theorem exec_startCharacter_unheard (still : Still s) (deaf : hears (opening e s).toShelf p = false) :
    exec (.startCharacterReceived e p) s = .next (settled id (opening e s)) :=
  congrArg Host.Outcome.next (event_waits still (if_neg (by simp [deaf])))

theorem exec_startCharacter_begins (still : Still s) (hearing : hears (opening e s).toShelf p = true)
    (hunting : (engine s.toShelf p).assembling = none) :
    exec (.startCharacterReceived e p) s =
      .next (settled
        (editEngine p fun g => { g with assembling := some (s.shelfTime + e.elapsed) }) (opening e s)) := by
  rw [← engine_opening e s p] at hunting
  refine congrArg Host.Outcome.next
    (event_settled still (if_pos (by simp [hearing, hunting])) fun x => still_editEngine p ?_)
  exact fun _ => rfl

theorem exec_frameReceived_whole {f : Frame} (valid : frameValid f = true)
    (heard : heardCharacters (opening e s).toShelf p cs = some (frameReceived f)) :
    exec (.frameReceived e p cs) s = .next (closing (deliverOn p f (opening e s))) := by
  refine congrArg (Host.Outcome.next ∘ closing) ?_
  dsimp only
  rw [heard, Option.map_some, assemble_frameReceived valid]

theorem exec_frameDamaged {chars : List Character} (heard : heardCharacters (opening e s).toShelf p cs = some chars)
    (damaged : damagedAtEnd chars = true) :
    exec (.frameDamaged e p cs) s = .next (closing (damageOn p (opening e s))) :=
  congrArg (Host.Outcome.next ∘ closing) (if_pos (by simpa [heard] using damaged))

theorem exec_gapLimitExpiry_passed (passed : gapPassed (opening e s).toShelf p = true) :
    exec (.gapLimitExpiry e p) s = .next (closing (damageOn p (opening e s))) :=
  congrArg (Host.Outcome.next ∘ closing) (if_pos passed)

end Commands

/-! ### Damage (R159, R161, R165) -/

/-- A frame is counted as damaged, and the assembler is HUNTING again. -/
def countDamage (p : Port) : Shelf → Shelf :=
  editEngine p fun g => { g with damaged := satInc g.damaged, assembling := none }

/-- The mark on UP is taken at once by a Router that is free, and nothing follows. -/
theorem closing_damageOn_up (e : Ambient) {s : State} (calm : Calm s) :
    closing (damageOn .up (opening e s)) = settled (countDamage .up) (opening e s) := by
  obtain ⟨⟨-, rx, wait, restart⟩, quiet⟩ := calm
  have taken : damageOn .up (opening e s) = onShelf (countDamage .up) (opening e s) :=
    arriveUp_taken (s := onShelf (countDamage .up) (opening e s)) .damage rx wait restart
  rw [taken]
  exact closing_onShelf_quiet _ _ quiet rx

/-- A command that damages a frame, by its port: the Poll Engine judges the mark, or the Router takes it. -/
theorem outcome_damageOn {e : Ambient} {p : Port} {s : State} {o : Host.Outcome State Fault Refusal}
    (acts : o = .next (closing (damageOn p (opening e s)))) :
    (p ≠ .up → o = .next (closing (onShelf (fun x => judge p .damage (countDamage p x)) (opening e s)))) ∧
      (p = .up → Calm s → o = .next (settled (countDamage p) (opening e s))) := by
  subst acts
  refine ⟨fun down => congrArg (Host.Outcome.next ∘ closing) (if_neg down), ?_⟩
  rintro rfl calm
  exact congrArg Host.Outcome.next (closing_damageOn_up e calm)

/-! ### The gap limit (R159; log entries 6 and 8) -/

theorem gapPassed_opening_iff {e : Ambient} {p : Port} {s : State} :
    gapPassed (opening e s).toShelf p = true ↔
      (engine s.toShelf p).enabled = true ∧
        (∃ t, (engine s.toShelf p).assembling = some t ∧
          e.lineQuiet.toNat ≤ (s.shelfTime + e.elapsed - t).toNat) ∧
        gapCycles (engine s.toShelf p).settings ≤ 40 * e.lineQuiet.toNat := by
  rw [gapPassed_iff, engine_opening]
  rfl

theorem gapPassed_early {e : Ambient} {p : Port} {s : State}
    (early : (engine s.toShelf p).enabled = false ∨
      (∀ t, (engine s.toShelf p).assembling = some t →
        (s.shelfTime + e.elapsed - t).toNat < e.lineQuiet.toNat) ∨
      40 * e.lineQuiet.toNat < gapCycles (engine s.toShelf p).settings) :
    gapPassed (opening e s).toShelf p = false := by
  refine Bool.eq_false_iff.mpr fun passed => ?_
  obtain ⟨on, ⟨t, begun, since⟩, limit⟩ := gapPassed_opening_iff.mp passed
  obtain off | recent | short := early
  · rw [off] at on
    cases on
  · exact absurd (recent t begun) (Nat.not_lt.mpr since)
  · exact absurd short (Nat.not_lt.mpr limit)

/-! ### O37 -/

theorem frameValid_orderUp (a c : Byte) (v : BitVec 16) : frameValid (orderUp a c v) = true := by
  refine (frameValid_iff _).mpr ⟨rfl, ?_⟩
  simp [orderUp, be16]

/-- Settles O37: what a port hears, and each command by whether it hears the characters, what they make, and whose
port it is. -/
theorem framesTaken : Obligations.FramesTaken := by
  refine ⟨fun x p => hears_iff, gapCycles_eq,
    fun x p cs => ⟨fun ⟨hearing, begun, close⟩ => heardCharacters_inTime hearing begun close,
      heardCharacters_missed⟩,
    damagedAtEnd_iff, fun e p cs s => exec_frame_unheard e,
    fun e p s still early => exec_gapLimitExpiry_waits e still (gapPassed_early early),
    fun e p s => exec_startCharacter_begins e, fun e p cs s still down sends earlier => ?_,
    fun e p cs s still hunting => ?_, fun x p f hearing begun legal => heardCharacters_sent hearing begun legal f,
    fun e f cs s valid => exec_frameReceived_whole e valid,
    fun e a c v cs s => exec_frameReceived_whole e (frameValid_orderUp a c v),
    fun e p f cs s down valid heard => ?_,
    fun e p cs chars s heard damaged => outcome_damageOn (exec_frameDamaged e heard damaged),
    fun e p s t on begun since limit => outcome_damageOn
      (exec_gapLimitExpiry_passed e (gapPassed_opening_iff.mpr ⟨on, ⟨t, begun, since⟩, limit⟩))⟩
  · rw [← engine_opening e s p] at sends earlier
    have deaf : hears (opening e s).toShelf p = false := hears_sending down sends earlier
    exact ⟨exec_startCharacter_unheard e still deaf, exec_frame_unheard e still (heardCharacters_deaf deaf cs)⟩
  · have early : gapPassed (opening e s).toShelf p = false := gapPassed_early (.inr (.inl (by simp [hunting])))
    rw [← engine_opening e s p] at hunting
    obtain ⟨received, damaged⟩ := exec_frame_unheard e still (heardCharacters_hunting hunting cs)
    exact ⟨received, damaged, exec_gapLimitExpiry_waits e still early⟩
  · exact (exec_frameReceived_whole e valid heard).trans (congrArg (Host.Outcome.next ∘ closing) (if_neg down))

end Sys2Proof.Machine
end
